-- ==== Sys2Proof/Word.lean ====
section
/-! DEFINITION. The machine's words: bytes, 32-bit words, byte enables. -/

namespace Sys2Proof

/-- The smallest addressable unit of DRAM. -/
abbrev Byte := BitVec 8

/-- A word: 32 bits, little-endian in DRAM (00_scope.md 3.2). -/
abbrev Word := BitVec 32

/-- The four byte enables of a write word; bit i enables byte i (R156). -/
abbrev Enables := BitVec 4

end Sys2Proof
end

