-- ==== Sys2Proof/Syntax.lean ====
section
/-! DEFINITION. The commands of the block: one constructor per row of spec/opcode_table.json, with the operands the rules
give that row (the table gives none). -/

namespace Sys2Proof

/-- A rig port, hence its rig, its Capture Unit, its quota and its list (R23, R68). -/
inductive Rig where
  | rig1
  | rig2
  deriving DecidableEq, Repr

/-- The Memory Port's answer to a read behind one word of a Local Port read (R83, R84, R162): `ok`, to both reads of a
translated word; `firstError`, an Error on the word's only read or on its map entry read; `secondError`, an Error on the
bucket read alone; `entryRead`, the map entry read answered OK with the bucket read still under way, whose answer is the
next one (R85). -/
inductive ReadStatus where
  | ok
  | firstError
  | secondError
  | entryRead
  deriving DecidableEq, Repr

/-- The writes of the part that the Memory Port takes word by word before a row of their own ends them: the status record,
a notice, a command result, the write-backs of a teardown, the first write-back of the Channel Cache, the output of the
running blend job, the Live Directory writes of the Slot Resolver, and the three regions of an anchor take. -/
inductive Writer where
  | status
  | notice
  | result
  | teardown
  | writeback
  | blend
  | slots
  | zeroBucket
  | directory
  | liveDirectory
  deriving DecidableEq, Repr

/-- An event of the Memory Port (R162): it answers the read of the Local Port request under way, or it takes `n` more words
of a write of the part that is in flight. -/
inductive PortEvent where
  | answer (status : ReadStatus)
  | took (writer : Writer) (n : Nat)
  deriving DecidableEq, Repr

/-- Where a read comes in: a new request on the Local Port with the address of its first word, no new request (the Memory
Port goes on with the Local Port request under way, R156, R164), or a request on a rig port (R157). -/
inductive ReadPlace where
  | localPort (addr : Nat)
  | burst
  | rigPort (rig : Rig) (addr : Nat)
  deriving DecidableEq, Repr

/-- A write into a slot's record after its resolution: the READY header (R100), or a write no event waits for, the header of
a recycled slot or a cancelled job's map entry or counts (R82). -/
inductive SlotHeader where
  | ready (slot : Nat)
  | other (slot : Nat)
  deriving DecidableEq, Repr

/-- The input of a blend job whose read was answered Error (R114). -/
inductive BlendInput where
  | old
  | new
  deriving DecidableEq, Repr

/-- One act that a block other than the Slot Resolver makes at a period event (R9). The operand `early` of a beat lists
those the world takes before the resolution of that event; the others come as commands of their own rows. -/
inductive PeriodWork where
  | laneStale (channel : Nat) (rig : Rig) (lane : Nat)
  | streamingExpiry (channel : Nat)
  | forcedRelease (group slot : Nat)
  | blendDeadline
  | healthWindowClose (group : Nat)
  deriving DecidableEq, Repr

/-- What happens on RESET_N (R182): a low time of 1 µs or more begins (`low`), it ends at the rising edge (`high`, also the end
of a power-on reset and of a low time that no command meets), or a pulse shorter than 1 µs passes (`shortPulse`). -/
inductive ResetLine where
  | low
  | high
  | shortPulse
  deriving DecidableEq, Repr

/-- The commands. `dt` is the number of 40 ns steps that the reference clock made since the timed command before (in a stop
of REFCLK, those it made before it stopped, R183); `wide` says that a pulse has its stated minimum width; `error` is the Memory
Port's answer. `events` are the events of the Memory Port that follow the arrival of a read; words of a request that they do
not answer stay under way (R164). -/
inductive Instr where
  | reset (sizeB sizeA takeoverLow : Bool) (line : ResetLine)
  | refclkStop
  | refclkResume
  | blockClockEdge (dt : Nat) (wide : Bool) (early : List PeriodWork)
  | clockLoss (dt : Nat) (early : List PeriodWork)
  | synthesizedBeat (dt : Nat) (early : List PeriodWork)
  | acceptanceWindowClose (dt : Nat)
  | showSync (dt : Nat) (wide : Bool)
  | takeoverFallingEdge (dt : Nat)
  | takeoverRisingEdge (dt : Nat)
  | goWrite (value : Word) (enables : Enables)
  | deferredGo
  | anchorReadDone (error : Bool)
  | anchorTakeEnd
  | commandKick (value : Word) (enables : Enables)
  | commandFetchDone (error : Bool)
  | commandDirectoryReadDone (error : Bool)
  | commandResultWritten
  | unknownCommand
  | configureBridge
  | defineGroup
  | setThresholds
  | defineChannel
  | undefineChannel
  | readContext
  | armShow
  | endShow
  | teardownEnd
  | switch
  | hold
  | releaseHold
  | queryCoverage
  | lock
  | unlock
  | noticeReturn (value : Word) (enables : Enables)
  | noticeWriteBegin
  | noticeWriteEnd (dt : Nat)
  | coalesceTimeout (dt : Nat)
  | statusWriteEnd
  | payloadWrite (rig : Rig) (addr value : Word) (enables : Enables)
  | headerWrite (rig : Rig) (addr value : Word) (enables : Enables)
  | commit (rig : Rig) (addr value : Word) (enables : Enables)
  | rigPortUnusedWrite (rig : Rig) (addr value : Word) (enables : Enables)
  | contextLoadReadDone (channel : Nat) (error : Bool)
  | evictionWritebackEnd (context : Nat)
  | laneStale (channel : Nat) (rig : Rig) (lane : Nat)
  | streamingExpiry (channel : Nat)
  | slotRecordWritten (group slot : Nat)
  | slotHeaderWritten (group : Nat) (header : SlotHeader)
  | liveWindowRead (place : ReadPlace) (words : Nat) (events : List PortEvent)
  | readerRelease (group slot : Nat) (value : Word) (enables : Enables)
  | forcedRelease (group slot : Nat)
  | blendJobComplete
  | blendDeadline
  | blendDrainEnd
  | blendReadError (input : BlendInput)
  | healthWindowClose (group : Nat)
  | localPortWrite (addr : Nat) (value : Word) (enables : Enables)
  | blendReadingDone
  deriving DecidableEq, Repr

end Sys2Proof
end

