-- ==== Sys2Proof/Decode.lean ====
section
/-! DEFINITION. The decoder of opcode-table words. The table of this block gives no row any bits, so no word spells a command. -/

namespace Sys2Proof

/-- The command an opcode-table word of `nbits` bits spells: none, since spec/opcode_table.json gives its rows no bits. -/
def decodeTableWord (_nbits _w : Nat) : Option Instr := none

end Sys2Proof
end

