-- ==== Sys2Proof/Config.lean ====
section
/-! DEFINITION. The free values: what the spec leaves open and the part decides. No body, so no proof can see a value. -/

namespace Sys2Proof

/-- Whether a pulse shorter than its stated minimum is taken (R182 RESET_N below 1 µs, R183 BLKCLK and SHOWSYNC below
200 ns): "may be taken as a reset or ignored", "may be taken as an edge or not". The argument is State's counter. -/
opaque Config.freeTaken : Nat → Bool

/-- How many words of a write in flight the Memory Port had taken when a reset abandoned it (R10: "a record partly
written stays partly written"). The arguments are State's counter and the number of the write among those in flight. -/
opaque Config.freeLanded : Nat → Nat → Nat

end Sys2Proof
end

