-- ==== Sys2Proof/Machine/State.lean ====
section
/-! DEFINITION. The machine's state as plain data, its fault and refusal reasons, and the state after reset. -/

namespace Sys2Proof.Machine

/-! ## Sparse tables -/

/-- A table by number, held as the list of its entries that differ from a default, numbers strictly rising. The
operations are in Machine/Ops.lean. -/
abbrev Table (α : Type) := List (Nat × α)

/-- DRAM (R158): its non-zero bytes by address. What an unlisted byte reads as is `Memory.unlisted` (Machine/Ops.lean). -/
abbrev Memory := List Host.Cell

/-- A pair of like things, one per rig port. -/
structure PerRig (α : Type) where
  rig1 : α
  rig2 : α
  deriving DecidableEq, Repr

/-! ## Named values -/

/-- Tracking state of the block clock (chapter 1, 1.1). -/
inductive ClockState where
  | noClock
  | locked
  | flywheel
  deriving DecidableEq, Repr

/-- Part state (chapter 1, 1.6). -/
inductive PartState where
  | quiet
  | standby
  | armed
  | running
  deriving DecidableEq, Repr

/-- Rig role (00_scope.md 4). -/
inductive Role where
  | main
  | backup
  deriving DecidableEq, Repr

/-- Select state of a group (chapter 9, 9.1). -/
inductive SelectState where
  | onMain
  | toBackup
  | onBackup
  | toMain
  deriving DecidableEq, Repr

/-- Fill mode of a group (chapter 9, 9.1). -/
inductive FillMode where
  | silence
  | repeatLast
  deriving DecidableEq, Repr

/-- Cause of the last switch taken (chapter 9, 9.1). -/
inductive SwitchCause where
  | none
  | verdict
  | command
  | line
  | return
  deriving DecidableEq, Repr

/-- How a switch finished (R154). -/
inductive SwitchEnding where
  | faded
  | immediate
  | cutShort
  deriving DecidableEq, Repr

/-- Why an automatic switch is withheld (R141, R142). -/
inductive WithheldReason where
  | held
  | backupNotSound
  | mainNotSound
  | diverged
  deriving DecidableEq, Repr

/-- Verdict on a rig in a group (chapter 8, 8.1). -/
inductive RigVerdict where
  | unknown
  | sound
  | suspect
  | failed
  deriving DecidableEq, Repr

/-- Verdict on the agreement of the rigs in a group (chapter 8, 8.1). -/
inductive AgreementVerdict where
  | unproven
  | agreed
  | diverged
  deriving DecidableEq, Repr

/-- Channel kind (chapter 4, 4.1). -/
inductive ChannelKind where
  | audio
  | data
  deriving DecidableEq, Repr

/-- Lane state (chapter 3, 3.2). -/
inductive LaneState where
  | idle
  | filling
  | spoiled
  | starved
  deriving DecidableEq, Repr

/-- Residence of a context (chapter 4, 4.2). A context is LOADING only inside the step that fills it (R61). -/
inductive Residence where
  | free
  | loading
  | valid
  | evicting
  deriving DecidableEq, Repr

/-- State of a bucket (chapter 2, 2.2). -/
inductive BucketState where
  | free
  | filling
  | retained
  | held
  deriving DecidableEq, Repr

/-- The account charged for a bucket, and for common the rig that drew it (chapter 2, 2.2). -/
inductive Charge where
  | none
  | quota (rig : Rig)
  | common (rig : Rig)
  | blend
  deriving DecidableEq, Repr

/-- State of a slot on chip (R81). -/
inductive SlotState where
  | empty
  | blending
  | ready
  | released
  deriving DecidableEq, Repr

/-- Source code of a map entry (R82). -/
inductive Source where
  | idle
  | main
  | backup
  | blend
  | silence
  | repeatFill
  deriving DecidableEq, Repr

/-- Phase of a blend job (R106). -/
inductive JobPhase where
  | queued
  | reading
  | writing
  | draining
  deriving DecidableEq, Repr

/-- Phase of the Command Unit (R168). -/
inductive CommandPhase where
  | idle
  | fetching
  | executing
  | writing
  deriving DecidableEq, Repr

/-- Result codes of commands and of the anchor (R171, R179). -/
inductive ResultCode where
  | done
  | wrongState
  | locked
  | badParameter
  | busy
  | unknownCommand
  | noContext
  | memoryFault
  | badAnchor
  deriving DecidableEq, Repr

/-! ## Clock Monitor and Period Timer -/

/-- The Clock Monitor (chapter 1, 1.1). Instants and intervals count 40 ns steps (R1). -/
structure Clock where
  state : ClockState
  /-- accepted intervals, oldest first -/
  history : List Nat
  /-- the nominal interval N; none while undefined -/
  nominal : Option Nat
  reference : Option Nat
  /-- FLYWHEEL: the next scheduled beat -/
  nextBeat : Option Nat
  /-- FLYWHEEL: the beat delivered at its own instant whose acceptance window has not closed (R5) -/
  openWindow : Option Nat
  relock : Nat
  emptyWindows : Nat
  deriving DecidableEq, Repr

/-- The local timer, in 40 ns steps of REFCLK, and whether REFCLK stands still (R183). `heldCounted` says, in a stop, that
`now` includes every step made before it. -/
structure LocalTimer where
  now : Nat
  refclkStopped : Bool
  heldCounted : Bool
  deriving DecidableEq, Repr

/-- The Period Timer's show state (chapter 1, 1.6), and the instant of the start event that R14 measures from. -/
structure Part where
  state : PartState
  period : Nat
  startBlock : Nat
  startGuard : Bool
  startInstant : Nat
  deriving DecidableEq, Repr

/-- The dedicated lines with a level the part holds or drives (chapter 12, 12.4). -/
structure Lines where
  sizeB : Bool
  sizeA : Bool
  /-- the instant TAKEOVER's running low period began; none while the line is high (R151) -/
  takeoverLowSince : Option Nat
  tallyMain : Bool
  tallyBackup : Bool
  /-- INT_N is asserted -/
  interrupt : Bool
  /-- RESET_N is low: the part is held in reset (R182) -/
  resetLow : Bool
  deriving DecidableEq, Repr

/-! ## Bucket Manager -/

/-- An entry of the Bucket Table (chapter 2, 2.2); its Next link is the free list's order. -/
structure Bucket where
  state : BucketState
  pinCount : Nat
  charged : Charge
  deriving DecidableEq, Repr

/-- The Bucket Manager (chapter 2). Unlisted buckets of the table are FREE; the free list runs from head to tail. -/
structure Pool where
  base : Nat
  buckets : Nat
  table : Table Bucket
  freeList : List Nat
  quota : PerRig Nat
  commonGuard : Nat
  exhaustReported : PerRig Bool
  deriving DecidableEq, Repr

/-! ## Channel Cache and Capture Units -/

/-- A lane record (chapter 3, 3.2). -/
structure Lane where
  state : LaneState
  bucket : Option Nat
  nextWord : Nat
  crc : Word
  /-- header words 0 to 5 -/
  header : Table Word
  openPeriod : Nat
  deriving DecidableEq, Repr

/-- A retained entry (R68). -/
structure Entry where
  block : Nat
  bucket : Nat
  sceneTag : Word
  last : Bool
  deriving DecidableEq, Repr

/-- A context (chapter 4, 4.2). -/
structure Context where
  residence : Residence
  channel : Nat
  group : Nat
  kind : ChannelKind
  /-- four lanes per rig port -/
  lanes : PerRig (Table Lane)
  lists : PerRig (List Entry)
  streaming : Bool
  lastCommit : Nat
  lastServed : Option Nat
  repeatRun : Nat
  accepted : PerRig Nat
  damaged : PerRig Nat
  deriving DecidableEq, Repr

/-- The values of a Channel Directory entry (chapter 4, 4.1). -/
structure DirEntry where
  defined : Bool
  cached : Bool
  kind : ChannelKind
  group : Nat
  accepted : PerRig Nat
  damaged : PerRig Nat
  deriving DecidableEq, Repr

/-- Where a load request stands (chapter 4, 4.4): waiting for the write-back of its own channel (R56), reading the
directory (R57), or evicting a context with the directory values read (R60). -/
inductive LoadStage where
  | waitWriteback
  | reading
  | evicting (context : Nat) (dir : DirEntry)
  deriving DecidableEq, Repr

/-- A load request (chapter 4, 4.4): the channel, the port that started it with the lane of its write, the waiting ports. -/
structure LoadRequest where
  channel : Nat
  starter : Rig
  starterLane : Nat
  waiting : PerRig Bool
  stage : LoadStage
  deriving DecidableEq, Repr

/-- A write word on a rig port (R156). -/
structure RigWrite where
  addr : Word
  value : Word
  enables : Enables
  deriving DecidableEq, Repr

/-- A request on a rig port: a write word, or a read of some words (R156, R157). -/
inductive RigRequest where
  | write (w : RigWrite)
  | read (addr words : Nat)
  deriving DecidableEq, Repr

/-- A DRAM access of the Channel Cache sent and not yet taken: the write-back of an EVICTING context (R60), or what waits
behind an earlier write-back (R162): Cached set in the entry of a channel just loaded (R61), or the directory read of a
load (R57). -/
inductive CacheSend where
  | writeback (context : Nat)
  | cached (channel : Nat) (entry : DirEntry)
  | read (channel : Nat)
  deriving DecidableEq, Repr

/-- The Channel Cache (chapter 4) with the Horizon of the Capture Units and the requests the rig ports hold: the first is
a write held for a context load, the others wait behind it (R36, R157). Unlisted contexts are FREE. -/
structure Cache where
  contexts : Table Context
  channelMap : Table (Option Nat)
  /-- VALID contexts, least recently used first -/
  lru : List Nat
  loads : List LoadRequest
  ports : PerRig (List RigRequest)
  /-- accesses in flight, in the order sent (R162) -/
  sends : List CacheSend
  exhaustReported : Bool
  strayWrites : PerRig Nat
  expectSpan : Nat
  horizon : Nat
  deriving DecidableEq, Repr

/-! ## Slot Resolver -/

/-- A map entry: bucket and source (R82). -/
structure MapEntry where
  bucket : Nat
  source : Source
  deriving DecidableEq, Repr

/-- The counts of a slot header (R98). -/
structure Counts where
  main : Nat
  backup : Nat
  blend : Nat
  fill : Nat
  patched : Nat
  deriving DecidableEq, Repr

/-- A slot (chapter 6, 6.1) with the role and the marks of the record last written. `awaitingRecord`: the record write is
sent and not taken (R99). `awaitingHeader`: the READY header write is sent and not taken (R100). -/
structure Slot where
  state : SlotState
  block : Nat
  outstanding : Nat
  /-- map entries that are not (bucket 0, Idle), by channel -/
  map : Table MapEntry
  counts : Counts
  servedRole : Role
  switchMark : Bool
  fadeMark : Bool
  awaitingRecord : Bool
  awaitingHeader : Bool
  deriving DecidableEq, Repr

/-- A group's Live Ring (R81, chapter 6, 6.1). -/
structure Ring where
  playBase : Nat
  slots : Table Slot
  readerLateReported : Bool
  mapFaultReported : Bool
  deriving DecidableEq, Repr

/-- The kinds of Live Directory writes (R82): a whole record, the READY header, and those no event waits for. -/
inductive SlotWriteKind where
  | record
  | readyHeader
  | other
  deriving DecidableEq, Repr

/-- A Live Directory write sent to the Memory Port, with its words not yet taken (R99, R162). -/
structure SlotWrite where
  kind : SlotWriteKind
  group : Nat
  slot : Nat
  block : Nat
  addr : Nat
  words : List Word
  deriving DecidableEq, Repr

/-- The Slot Resolver (chapter 6, 6.1). -/
structure Resolver where
  resolveFront : Nat
  resolveLead : Nat
  releaseGrace : Nat
  readerEarly : Nat
  readerFault : Nat
  rings : Table Ring
  /-- Live Directory writes in flight, in the order sent -/
  writes : List SlotWrite
  deriving DecidableEq, Repr

/-! ## Blend Engine -/

/-- A blend job (R106) with the output samples in hand once its inputs are read (R108). -/
structure BlendJob where
  group : Nat
  block : Nat
  channel : Nat
  old : Nat
  new : Nat
  output : Nat
  fadeIndex : Nat
  fadeLength : Nat
  phase : JobPhase
  samples : Option (List Word)
  deriving DecidableEq, Repr

/-! ## Health Monitor -/

/-- A Health Record (chapter 8, 8.1). -/
structure HealthRecord where
  verdict : RigVerdict
  badRun : Nat
  goodRun : Nat
  commits : Nat
  damaged : Nat
  offTime : Nat
  repeats : Nat
  misses : Nat
  commonDraws : Nat
  leadMin : Option Nat
  tripReported : Bool
  deriving DecidableEq, Repr

/-- An Agreement Record (chapter 8, 8.1). -/
structure AgreementRecord where
  verdict : AgreementVerdict
  badRun : Nat
  goodRun : Nat
  compared : Nat
  disagreed : Nat
  deriving DecidableEq, Repr

/-- The health settings of a group (R128). -/
structure HealthSettings where
  windowLength : Nat
  maxDamaged : Nat
  maxOffTime : Nat
  maxRepeats : Nat
  maxMisses : Nat
  maxCommonDraws : Nat
  leadFloor : Nat
  missTrip : Nat
  failAfter : Nat
  soundAfter : Nat
  maxDisagree : Nat
  divergeAfter : Nat
  agreeAfter : Nat
  report : Bool
  deriving DecidableEq, Repr

/-- The Health Monitor's state of one group (chapter 8). -/
structure GroupHealth where
  settings : HealthSettings
  pendingSettings : Option HealthSettings
  main : HealthRecord
  backup : HealthRecord
  agreement : AgreementRecord
  windowOpen : Bool
  windowEnd : Nat
  deriving DecidableEq, Repr

/-! ## Switchover Controller -/

/-- A Group Record (chapter 9, 9.1). -/
structure GroupRecord where
  defined : Bool
  linkSet : Nat
  fadeLength : Nat
  fillMode : FillMode
  repeatLimit : Nat
  patch : Bool
  autoReturn : Bool
  followLine : Bool
  hold : Bool
  selectState : SelectState
  targetRole : Role
  switchPoint : Nat
  fadeEnd : Nat
  lastSwitchPoint : Option Nat
  lastSwitchCause : SwitchCause
  switchCount : Nat
  withheldReported : Bool
  deriving DecidableEq, Repr

/-! ## Supervisor Interface -/

/-- The anchor words 2 to 10 (R180). -/
structure Anchor where
  commandRingBase : Nat
  commandRingEntries : Nat
  noticeRingBase : Nat
  noticeRingEntries : Nat
  statusBase : Nat
  channelDirectoryBase : Nat
  liveDirectoryBase : Nat
  poolBase : Nat
  poolBuckets : Nat
  deriving DecidableEq, Repr

/-- An anchor take in progress: reading the anchor (R165), or initialising under the anchor read (R166). -/
inductive AnchorTake where
  | reading
  | initialising (anchor : Anchor)
  deriving DecidableEq, Repr

/-- An End Show teardown in progress (R15): step 2 waits for the running blend job, step 5 waits for the loads in flight,
or the write-backs of step 5 are in flight (their words not yet taken, in the order sent). -/
inductive Teardown where
  | flushing
  | waitingLoads
  | writingBack (writes : List (Nat × List Word))
  deriving DecidableEq, Repr

/-- What a command in EXECUTING waits for (R64, R66): nothing, the write-back that the directory read waits for, or the
directory read. -/
inductive DirectoryWait where
  | none
  | writeback
  | read
  deriving DecidableEq, Repr

/-- The Command Unit (R168) with the entry words fetched (R169) and the result being written (R170). -/
structure CommandUnit where
  next : Nat
  target : Option Nat
  phase : CommandPhase
  /-- entry words 0 to 9 as fetched -/
  entry : List Word
  directoryWait : DirectoryWait
  result : ResultCode
  /-- result data words 11 to 15 -/
  resultData : List Word
  deriving DecidableEq, Repr

/-- The kind-specific content of a notice (R181). -/
inductive NoticeBody where
  | commandDone (entry kind group : Nat) (result : ResultCode)
  | showStarted (startBlock nominal : Nat)
  | clockChange (old new : ClockState) (reason nominal : Nat)
  | switchStarted (fromRole toRole : Role) (cause : SwitchCause) (length point linkSet switchCount : Nat)
  | switchFinished (role : Role) (ending : SwitchEnding) (cause : SwitchCause) (lastSwitchPoint : Nat)
  | switchWithheld (linkSet : Nat) (role : Role) (reason : WithheldReason) (failing : Nat)
  | rigVerdictChanged (role : Role) (old new : RigVerdict) (trip : Bool) (badRun goodRun : Nat)
  | agreementChanged (old new : AgreementVerdict) (badRun goodRun : Nat)
  | windowReport (commits damaged offTime repeats misses commonDraws : Nat) (leadMin : Option Nat)
      (tripReported outOfBounds : Bool) (compared disagreed : Nat)
  | contextExhausted (channel lane valid streaming : Nat)
  | poolExhausted (channel lane : Nat) (role : Role) (quotaInUse freeCommon : Nat)
  | readerLate (block : Nat)
  | ringFault (reason value : Nat)
  | memoryFaultLoad (channel : Nat)
  | memoryFaultBlend (channel : Nat) (input : BlendInput) (block : Nat)
  | memoryFaultMap (channel slot : Nat)
  deriving DecidableEq, Repr

/-- A notice (R175, R181): group none is written 255, source none is written 0. -/
structure Notice where
  group : Option Nat
  source : Option Rig
  period : Nat
  body : NoticeBody
  deriving DecidableEq, Repr

/-- The Notice Unit (R174, R175, R176). -/
structure NoticeUnit where
  queue : List Notice
  lost : Bool
  /-- the oldest pending notice is being written into entry WriteIndex -/
  writing : Bool
  writeIndex : Nat
  lastHanded : Nat
  available : Nat
  /-- local milliseconds at which each entry was finished, by entry -/
  writeTimes : Table Nat
  coalesceCount : Nat
  coalesceTime : Nat
  deriving DecidableEq, Repr

/-- A Bridge Status write in flight: its words not yet taken, and where they go (R162, R177). -/
structure StatusWrite where
  base : Nat
  words : List Word
  deriving DecidableEq, Repr

/-- The Status Writer (R177). -/
structure StatusWriter where
  sequence : Word
  writing : Option StatusWrite
  followUp : Bool
  deriving DecidableEq, Repr

/-- The Supervisor Interface (chapter 11) with the Go event and the operations that take time. -/
structure Supervisor where
  anchor : Option Anchor
  goPending : Bool
  take : Option AnchorTake
  teardown : Option Teardown
  locked : Bool
  port1Role : Role
  command : CommandUnit
  status : StatusWriter
  deriving DecidableEq, Repr

/-- The answer to a read on a link port (R156): one word of data per word asked for, and Error or OK. -/
structure ReadAnswer where
  data : List Word
  error : Bool
  deriving DecidableEq, Repr

/-- A request on the Local Port: a read of some words, or a write word (R156). -/
inductive LocalRequest where
  | read (addr words : Nat)
  | write (addr : Nat) (value : Word) (enables : Enables)
  deriving DecidableEq, Repr

/-- A Local Port read under way (R156, R164): the address of the next word, the words still to be taken, the data and the
status so far, whether ReaderEarly has been counted for it (R83), where the bucket read of its next word goes once the map
entry is read (R85), and the requests that wait behind it (R158). -/
structure ReadBurst where
  addr : Nat
  left : Nat
  data : List Word
  error : Bool
  early : Bool
  entry : Option Nat
  waiting : List LocalRequest
  deriving DecidableEq, Repr

/-- How many words the Memory Port has taken of the writes in flight whose words State does not list (R162): 0 while there
is no such write. -/
structure Landed where
  notice : Nat
  result : Nat
  writeback : Nat
  blend : Nat
  zeroBucket : Nat
  directory : Nat
  liveDirectory : Nat
  deriving DecidableEq, Repr

/-! ## The state -/

/-- The whole state: everything the spec gives the part, the queue of waiting commands, and the counter of the free values. -/
structure State where
  pending : List Instr
  freeCount : Nat
  timer : LocalTimer
  clock : Clock
  part : Part
  lines : Lines
  mem : Memory
  pool : Pool
  cache : Cache
  resolver : Resolver
  blend : List BlendJob
  health : Table GroupHealth
  groups : Table GroupRecord
  sup : Supervisor
  notices : NoticeUnit
  landed : Landed
  /-- the answers given on the Local Port since reset, in their order (R158) -/
  answers : List ReadAnswer
  /-- the Local Port read under way -/
  burst : Option ReadBurst
  /-- the answers given on each rig port since reset, in their order (R157) -/
  rigAnswers : PerRig (List ReadAnswer)
  deriving DecidableEq, Repr

/-- The fault reasons. None: every rule of the spec gives a damaged, refused or ill-timed command an effect and lets the
part go on (R10 to R183), so no command stops the machine. An access outside the address space is dropped or answered
zeros with Error (R157, R161). -/
inductive Fault where
  deriving DecidableEq, Repr

/-- The refusal reasons. -/
inductive Refusal where
  /-- Raised by exec's arm of a command that has no meaning yet; safe: the model stops where the hardware goes on. -/
  | notModelled (mnemonic : String)
  deriving DecidableEq, Repr

/-! ## Reset values -/

/-- An IDLE lane. The values of a lane record that does not exist (R51) are DESIGN CHOICE zeros (log 4). -/
def Lane.initial : Lane :=
  { state := .idle, bucket := none, nextWord := 0, crc := 0, header := [], openPeriod := 0 }

/-- A FREE context; the fields of a context that holds no channel are DESIGN CHOICE zeros (log 4). -/
def Context.initial : Context :=
  { residence := .free, channel := 0, group := 0, kind := .audio, lanes := ⟨[], []⟩, lists := ⟨[], []⟩,
    streaming := false, lastCommit := 0, lastServed := none, repeatRun := 0, accepted := ⟨0, 0⟩, damaged := ⟨0, 0⟩ }

/-- A FREE bucket (R19). -/
def Bucket.initial : Bucket := { state := .free, pinCount := 0, charged := .none }

/-- The map entry of an Idle channel (R89). -/
def MapEntry.idle : MapEntry := { bucket := 0, source := .idle }

/-- Zero counts. -/
def Counts.zero : Counts := { main := 0, backup := 0, blend := 0, fill := 0, patched := 0 }

/-- An EMPTY slot that carries block 0. -/
def Slot.initial : Slot :=
  { state := .empty, block := 0, outstanding := 0, map := [], counts := .zero, servedRole := .main, switchMark := false,
    fadeMark := false, awaitingRecord := false, awaitingHeader := false }

/-- The ring of a group that is not defined; DESIGN CHOICE zeros (log 4). -/
def Ring.initial : Ring := { playBase := 0, slots := [], readerLateReported := false, mapFaultReported := false }

/-- The start values of a Health Record (R131). -/
def HealthRecord.start : HealthRecord :=
  { verdict := .unknown, badRun := 0, goodRun := 0, commits := 0, damaged := 0, offTime := 0, repeats := 0, misses := 0,
    commonDraws := 0, leadMin := none, tripReported := false }

/-- The start values of an Agreement Record (R131). -/
def AgreementRecord.start : AgreementRecord :=
  { verdict := .unproven, badRun := 0, goodRun := 0, compared := 0, disagreed := 0 }

/-- The health settings while undefined (R131); DESIGN CHOICE zeros (log 4). -/
def HealthSettings.unset : HealthSettings :=
  { windowLength := 0, maxDamaged := 0, maxOffTime := 0, maxRepeats := 0, maxMisses := 0, maxCommonDraws := 0,
    leadFloor := 0, missTrip := 0, failAfter := 0, soundAfter := 0, maxDisagree := 0, divergeAfter := 0, agreeAfter := 0,
    report := false }

/-- The Health Monitor's state of an undefined group (R131). -/
def GroupHealth.initial : GroupHealth :=
  { settings := .unset, pendingSettings := none, main := .start, backup := .start, agreement := .start,
    windowOpen := false, windowEnd := 0 }

/-- The Group Record of an undefined group (R155); undefined items are DESIGN CHOICE zeros (log 4). -/
def GroupRecord.initial : GroupRecord :=
  { defined := false, linkSet := 0, fadeLength := 0, fillMode := .silence, repeatLimit := 0, patch := false,
    autoReturn := false, followLine := false, hold := false, selectState := .onMain, targetRole := .main,
    switchPoint := 0, fadeEnd := 0, lastSwitchPoint := none, lastSwitchCause := .none, switchCount := 0,
    withheldReported := false }

/-- The Clock Monitor at reset (R1). -/
def Clock.initial : Clock :=
  { state := .noClock, history := [], nominal := none, reference := none, nextBeat := none, openWindow := none,
    relock := 0, emptyWindows := 0 }

/-- The Bucket Manager at reset (R31). -/
def Pool.initial : Pool :=
  { base := 0, buckets := 0, table := [], freeList := [], quota := ⟨0, 0⟩, commonGuard := 0,
    exhaustReported := ⟨false, false⟩ }

/-- The Channel Cache at reset (R67). -/
def Cache.initial : Cache :=
  { contexts := [], channelMap := [], lru := [], loads := [], ports := ⟨[], []⟩, sends := [], exhaustReported := false,
    strayWrites := ⟨0, 0⟩, expectSpan := 0, horizon := 0 }

/-- The Slot Resolver at reset (R105). -/
def Resolver.initial : Resolver :=
  { resolveFront := 0, resolveLead := 0, releaseGrace := 0, readerEarly := 0, readerFault := 0, rings := [], writes := [] }

/-- The Command Unit at reset (R168). -/
def CommandUnit.initial : CommandUnit :=
  { next := 0, target := none, phase := .idle, entry := [], directoryWait := .none, result := .done, resultData := [] }

/-- The Notice Unit at reset (R178). -/
def NoticeUnit.initial : NoticeUnit :=
  { queue := [], lost := false, writing := false, writeIndex := 0, lastHanded := 0, available := 0, writeTimes := [],
    coalesceCount := 0, coalesceTime := 0 }

/-- The Supervisor Interface at reset (R178). -/
def Supervisor.initial : Supervisor :=
  { anchor := none, goPending := false, take := none, teardown := none, locked := false, port1Role := .main,
    command := .initial, status := { sequence := 0, writing := none, followUp := false } }

/-- No word of a write in flight is taken. -/
def Landed.none : Landed :=
  { notice := 0, result := 0, writeback := 0, blend := 0, zeroBucket := 0, directory := 0, liveDirectory := 0 }

/-- The part right after a reset at power-on: every field at the value its reset rule gives (R1, R10, R31, R67, R105,
R106, R131, R155, R178); straps low and TAKEOVER high are DESIGN CHOICE (log 29), undefined values log 4, DRAM log 5. -/
def State.reset : State :=
  { pending := [], freeCount := 0, timer := { now := 0, refclkStopped := false, heldCounted := false }, clock := .initial,
    part := { state := .quiet, period := 0, startBlock := 0, startGuard := false, startInstant := 0 },
    lines := { sizeB := false, sizeA := false, takeoverLowSince := none, tallyMain := false, tallyBackup := false,
               interrupt := false, resetLow := false },
    mem := [], pool := .initial, cache := .initial, resolver := .initial, blend := [], health := [], groups := [],
    sup := .initial, notices := .initial, landed := .none, answers := [], burst := none,
    rigAnswers := ⟨[], []⟩ }

end Sys2Proof.Machine
end

