-- ==== Sys2Proof/Machine/Ops.lean ====
section
/-! DEFINITION. The shared operations: sparse tables, DRAM, claims on the Bucket Manager, the parts of the state, notices. -/

namespace Sys2Proof.Machine

/-! ## Tables -/

/-- The entry of number `k`; an unlisted number holds the default `d`. -/
def Table.get {α : Type} (d : α) : Table α → Nat → α
  | [], _ => d
  | (k', v) :: t, k => if k = k' then v else Table.get d t k

/-- The table without the entry of number `k`. -/
def Table.erase {α : Type} (t : Table α) (k : Nat) : Table α := t.filter (fun e => e.1 != k)

/-- The table with an entry put before the first greater number. -/
def Table.insert {α : Type} (k : Nat) (v : α) : Table α → Table α
  | [] => [(k, v)]
  | (k', v') :: t => if k < k' then (k, v) :: (k', v') :: t else (k', v') :: Table.insert k v t

/-- The table in which number `k` holds `v`. Storing the default removes the entry, so equal tables are equal lists. -/
def Table.set {α : Type} [DecidableEq α] (d : α) (t : Table α) (k : Nat) (v : α) : Table α :=
  if v = d then Table.erase t k else Table.insert k v (Table.erase t k)

/-- The table with every entry changed by `f`, a map that keeps the default. -/
def Table.map {α : Type} [DecidableEq α] (d : α) (f : α → α) : Table α → Table α
  | [] => []
  | (k, v) :: t => Table.set d (Table.map d f t) k (f v)

/-- The canonical form: numbers strictly rising, and no entry equal to the default. -/
abbrev Table.wf {α : Type} [DecidableEq α] (d : α) (t : Table α) : Prop :=
  t.Pairwise (fun a b => a.1 < b.1) ∧ ∀ e ∈ t, e.2 ≠ d

/-! ## Pairs per rig port -/

/-- The thing of rig port `r`. -/
def PerRig.get {α : Type} (p : PerRig α) : Rig → α
  | .rig1 => p.rig1
  | .rig2 => p.rig2

/-- The pair with the thing of rig port `r` replaced. -/
def PerRig.set {α : Type} (p : PerRig α) : Rig → α → PerRig α
  | .rig1, v => { p with rig1 := v }
  | .rig2, v => { p with rig2 := v }

/-! ## Counters -/

/-- One more, saturating at 65,535 (00_scope.md 3.2, R48, R58, R83, R118). -/
def sat16 (n : Nat) : Nat := if n < 65535 then n + 1 else n

/-- `k` more, saturating at 65,535 (R118). -/
def satAdd16 (n k : Nat) : Nat := if n + k < 65535 then n + k else if n < 65535 then 65535 else n

/-- One more, staying at 15 (R123, R126). -/
def sat15 (n : Nat) : Nat := if n < 15 then n + 1 else n

/-! ## DRAM -/

/-- What a byte of DRAM that no write has reached reads as. The spec gives none: DESIGN CHOICE 0 (log 5). -/
def Memory.unlisted : Byte := 0

/-- The canonical form of memory: addresses strictly rising, no entry equal to what an unlisted address reads as. -/
abbrev Memory.wf (m : Memory) : Prop := Table.wf Memory.unlisted m

/-- Reads one byte of DRAM. -/
def readByte (m : Memory) (a : Nat) : Byte := Table.get Memory.unlisted m a

/-- Writes one byte of DRAM. -/
def writeByte (m : Memory) (a : Nat) (b : Byte) : Memory := Table.set Memory.unlisted m a b

/-- Byte `i` of a word: words are little-endian (00_scope.md 3.2). -/
def wordByte (w : Word) (i : Nat) : Byte := (w >>> (8 * i)).setWidth 8

/-- Reads the word at byte address `a`, least significant byte first. -/
def readWord (m : Memory) (a : Nat) : Word :=
  (readByte m (a + 3) ++ readByte m (a + 2) ++ readByte m (a + 1) ++ readByte m a : BitVec 32)

/-- Writes a whole word at byte address `a`. -/
def writeWord (m : Memory) (a : Nat) (w : Word) : Memory :=
  writeByte (writeByte (writeByte (writeByte m a (wordByte w 0)) (a + 1) (wordByte w 1)) (a + 2) (wordByte w 2))
    (a + 3) (wordByte w 3)

/-- Writes byte `i` of a word if its enable is set. -/
def writeEnabledByte (m : Memory) (a : Nat) (w : Word) (en : Enables) (i : Nat) : Memory :=
  if en.getLsbD i then writeByte m (a + i) (wordByte w i) else m

/-- A pass-through write: only the bytes whose enables are set change (R156). -/
def writeEnabled (m : Memory) (a : Nat) (w : Word) (en : Enables) : Memory :=
  writeEnabledByte (writeEnabledByte (writeEnabledByte (writeEnabledByte m a w en 0) a w en 1) a w en 2) a w en 3

/-- Writes consecutive words from byte address `a`, in ascending order. -/
def writeWords (m : Memory) (a : Nat) : List Word → Memory
  | [] => m
  | w :: ws => writeWords (writeWord m a w) (a + 4) ws

/-- Reads `n` consecutive words from byte address `a`. -/
def readWords (m : Memory) (a : Nat) : Nat → List Word
  | 0 => []
  | n + 1 => readWord m a :: readWords m (a + 4) n

/-- Writes zero to `len` bytes from `a`: an unlisted byte reads as zero, so the entries leave the list. -/
def zeroFill (m : Memory) (a len : Nat) : Memory := m.filter (fun c => !(a ≤ c.1 && c.1 < a + len))

/-- Takes a list of writes (address, words) in order (R162). -/
def takeWrites (m : Memory) : List (Nat × List Word) → Memory
  | [] => m
  | w :: ws => takeWrites (writeWords m w.1 w.2) ws

/-- The first `n` words of a list of writes in order. -/
def firstWords : Nat → List (Nat × List Word) → List (Nat × List Word)
  | _, [] => []
  | n, w :: ws => (w.1, w.2.take n) :: firstWords (n - w.2.length) ws

/-- What a list of writes leaves in flight once its first `n` words are taken. -/
def afterWords : Nat → List (Nat × List Word) → List (Nat × List Word)
  | _, [] => []
  | n, w :: ws => (w.1 + 4 * min n w.2.length, w.2.drop n) :: afterWords (n - w.2.length) ws

/-- DRAM once the first `n` words of a list of writes are taken. -/
def landFirst (m : Memory) (n : Nat) (ws : List (Nat × List Word)) : Memory := takeWrites m (firstWords n ws)

/-- The number of words of a list of writes. -/
def wordCount (ws : List (Nat × List Word)) : Nat := (ws.map (fun w => w.2.length)).sum

/-! ## Bucket Manager: accounts and claims (chapter 2) -/

/-- The Bucket Table entry of bucket `b` (2.2). -/
def Pool.bucket (p : Pool) (b : Nat) : Bucket := Table.get Bucket.initial p.table b

/-- The pool with the entry of bucket `b` replaced. -/
def Pool.setBucket (p : Pool) (b : Nat) (e : Bucket) : Pool :=
  { p with table := Table.set Bucket.initial p.table b e }

/-- The number of buckets whose Charged value is `c` (R23). -/
def Pool.inUse (p : Pool) (c : Charge) : Nat := p.table.countP (fun e => e.2.charged == c)

/-- The size of the Blend Reserve: 64 once there is a pool (R23, R31). -/
def Pool.blendSize (p : Pool) : Nat := if p.buckets = 0 then 0 else 64

/-- The size of the common account (R23). -/
def Pool.commonSize (p : Pool) : Nat := p.buckets - 1 - p.quota.rig1 - p.quota.rig2 - 64

/-- The common account's free figure (R23). -/
def Pool.commonFree (p : Pool) : Nat :=
  p.commonSize - (p.inUse (.common .rig1) + p.inUse (.common .rig2))

/-- The account a Lane Allocate of rig `r` is charged to, `isTarget` when the rig's role is the group's TargetRole; none
when it is answered with no bucket (R25). -/
def Pool.laneCharge (p : Pool) (r : Rig) (isTarget : Bool) : Option Charge :=
  if p.inUse (.quota r) < p.quota.get r then some (.quota r)
  else if p.commonGuard < p.commonFree then some (.common r)
  else if 0 < p.commonFree ∧ isTarget then some (.common r)
  else none

/-- Takes the bucket at the head of the free list into state `st` with `pins` pins, charged to `c` (R20, R21). R23: the
list is not empty while an account has room. -/
def Pool.allocate (p : Pool) (c : Charge) (st : BucketState) (pins : Nat) : Option Nat × Pool :=
  match p.freeList with
  | [] => (none, p)
  | b :: rest => (some b, { p.setBucket b { state := st, pinCount := pins, charged := c } with freeList := rest })

/-- Claim Lane Allocate (R21, R25), with the charge made. -/
def Pool.laneAllocate (p : Pool) (r : Rig) (isTarget : Bool) : Option (Nat × Charge) × Pool :=
  match p.laneCharge r isTarget with
  | none => (none, p)
  | some c =>
    match p.allocate c .filling 0 with
    | (none, q) => (none, q)
    | (some b, q) => (some (b, c), q)

/-- Whether a Blend Allocate is answered with a bucket (R29). -/
def Pool.blendRoom (p : Pool) : Bool := p.inUse .blend < p.blendSize && !p.freeList.isEmpty

/-- Claim Blend Allocate: the job's pin (R29). -/
def Pool.blendAllocate (p : Pool) : Option Nat × Pool :=
  if p.blendRoom then p.allocate .blend .held 1 else (none, p)

/-- Claim Retain (R21). -/
def Pool.retain (p : Pool) (b : Nat) : Pool :=
  if (p.bucket b).state = .filling then p.setBucket b { p.bucket b with state := .retained } else p

/-- The bucket returns to FREE at the tail of the free list and its charge falls (R20, R22). -/
def Pool.toFree (p : Pool) (b : Nat) : Pool :=
  { p.setBucket b Bucket.initial with freeList := p.freeList ++ [b] }

/-- Claim Free (R21). The Zero Bucket has no entry, so it reads FREE and nothing changes (R18). -/
def Pool.free (p : Pool) (b : Nat) : Pool :=
  if (p.bucket b).state = .filling ∨ (p.bucket b).state = .retained then p.toFree b else p

/-- Claim Free for a lane's bucket, if it has one (R44, R47). -/
def Pool.freeOpt (p : Pool) : Option Nat → Pool
  | none => p
  | some b => p.free b

/-- Claim Pin (R21). -/
def Pool.pin (p : Pool) (b : Nat) : Pool :=
  if (p.bucket b).state = .retained then p.setBucket b { p.bucket b with state := .held, pinCount := 1 }
  else if (p.bucket b).state = .held then p.setBucket b { p.bucket b with pinCount := (p.bucket b).pinCount + 1 }
  else p

/-- Claim Unpin: the last pin dropped frees the bucket (R21, R22). -/
def Pool.unpin (p : Pool) (b : Nat) : Pool :=
  if (p.bucket b).state = .held then
    if 2 ≤ (p.bucket b).pinCount then p.setBucket b { p.bucket b with pinCount := (p.bucket b).pinCount - 1 }
    else p.toFree b
  else p

/-- Claim Unpin for a bucket that may be absent. -/
def Pool.unpinOpt (p : Pool) : Option Nat → Pool
  | none => p
  | some b => p.unpin b

/-- Claim Pin Move: the pin changes its holder, and the bucket's entry is the same before and after (R21). -/
def Pool.pinMove (p : Pool) (_ : Nat) : Pool := p

/-- The free list in ascending order with every bucket FREE (R33 steps 2 and 3, R34 step 6). -/
def Pool.rebuild (p : Pool) : Pool :=
  { p with table := [], freeList := List.range' 1 (p.buckets - 1), exhaustReported := ⟨false, false⟩ }

/-- The default of Quota1 and Quota2 (R24). -/
def defaultQuota (buckets : Nat) : Nat := 3 * (buckets - 65) / 8

/-- The byte address of byte `o` of bucket `b` (R17). -/
def Pool.byteAddr (p : Pool) (b o : Nat) : Nat := p.base + b * 512 + o

/-! ## Roles -/

/-- The role that is not `r`. -/
def Role.other : Role → Role
  | .main => .backup
  | .backup => .main

/-- The role Configure Bridge gave rig port `r`: Rig Port 2 takes the role Rig Port 1 has not (R172). -/
def State.roleOf (s : State) : Rig → Role
  | .rig1 => s.sup.port1Role
  | .rig2 => s.sup.port1Role.other

/-- The rig port that holds role `r`. -/
def State.rigOf (s : State) (r : Role) : Rig := if r = s.sup.port1Role then .rig1 else .rig2

/-! ## Parts of the state -/

/-- The Group Record of group `g`. -/
def State.group (s : State) (g : Nat) : GroupRecord := Table.get GroupRecord.initial s.groups g

/-- The state with the Group Record of group `g` changed. -/
def State.modifyGroup (s : State) (g : Nat) (f : GroupRecord → GroupRecord) : State :=
  { s with groups := Table.set GroupRecord.initial s.groups g (f (s.group g)) }

/-- The defined groups, ascending. -/
def State.definedGroups (s : State) : List Nat := (List.range 8).filter (fun g => (s.group g).defined)

/-- The Health Monitor's state of group `g`. -/
def State.healthOf (s : State) (g : Nat) : GroupHealth := Table.get GroupHealth.initial s.health g

/-- The state with the Health Monitor's state of group `g` changed. -/
def State.modifyHealth (s : State) (g : Nat) (f : GroupHealth → GroupHealth) : State :=
  { s with health := Table.set GroupHealth.initial s.health g (f (s.healthOf g)) }

/-- The Health Record of a role. -/
def GroupHealth.record (h : GroupHealth) : Role → HealthRecord
  | .main => h.main
  | .backup => h.backup

/-- The group's health with the record of a role changed. -/
def GroupHealth.modifyRecord (h : GroupHealth) (f : HealthRecord → HealthRecord) : Role → GroupHealth
  | .main => { h with main := f h.main }
  | .backup => { h with backup := f h.backup }

/-- The Live Ring of group `g`. -/
def State.ring (s : State) (g : Nat) : Ring := Table.get Ring.initial s.resolver.rings g

/-- The state with the Live Ring of group `g` changed. -/
def State.modifyRing (s : State) (g : Nat) (f : Ring → Ring) : State :=
  { s with resolver := { s.resolver with rings := Table.set Ring.initial s.resolver.rings g (f (s.ring g)) } }

/-- Slot `k` of a ring. -/
def Ring.slot (r : Ring) (k : Nat) : Slot := Table.get Slot.initial r.slots k

/-- The ring with slot `k` changed. -/
def Ring.modifySlot (r : Ring) (k : Nat) (f : Slot → Slot) : Ring :=
  { r with slots := Table.set Slot.initial r.slots k (f (r.slot k)) }

/-- Slot `k` of group `g`. -/
def State.slot (s : State) (g k : Nat) : Slot := (s.ring g).slot k

/-- The state with slot `k` of group `g` changed. -/
def State.modifySlot (s : State) (g k : Nat) (f : Slot → Slot) : State := s.modifyRing g (fun r => r.modifySlot k f)

/-- Context `k`. -/
def Cache.context (c : Cache) (k : Nat) : Context := Table.get Context.initial c.contexts k

/-- The cache with context `k` changed. -/
def Cache.modifyContext (c : Cache) (k : Nat) (f : Context → Context) : Cache :=
  { c with contexts := Table.set Context.initial c.contexts k (f (c.context k)) }

/-- Channel Map entry `c` (R53). -/
def Cache.mapEntry (c : Cache) (channel : Nat) : Option Nat := Table.get none c.channelMap channel

/-- The cache with Channel Map entry `channel` replaced. -/
def Cache.setMapEntry (c : Cache) (channel : Nat) (k : Option Nat) : Cache :=
  { c with channelMap := Table.set none c.channelMap channel k }

/-- Context `k` moves to the tail of the LRU order (R54). -/
def Cache.refresh (c : Cache) (k : Nat) : Cache := { c with lru := c.lru.filter (fun j => j != k) ++ [k] }

/-- The numbers of the VALID contexts, ascending. -/
def Cache.validContexts (c : Cache) : List Nat :=
  (c.contexts.filter (fun e => e.2.residence == .valid)).map (·.1)

/-- The state with context `k` changed. -/
def State.modifyContext (s : State) (k : Nat) (f : Context → Context) : State :=
  { s with cache := s.cache.modifyContext k f }

/-- Context `k`. -/
def State.context (s : State) (k : Nat) : Context := s.cache.context k

/-- The state with the Bucket Manager changed by a claim. -/
def State.claim (s : State) (f : Pool → Pool) : State := { s with pool := f s.pool }

/-- Lane `l` of rig port `r` in a context. -/
def Context.lane (x : Context) (r : Rig) (l : Nat) : Lane := Table.get Lane.initial (x.lanes.get r) l

/-- The context with lane `l` of rig port `r` replaced. -/
def Context.setLane (x : Context) (r : Rig) (l : Nat) (v : Lane) : Context :=
  { x with lanes := x.lanes.set r (Table.set Lane.initial (x.lanes.get r) l v) }

/-- The entry a list holds for block `n`. -/
def findEntry (n : Nat) (es : List Entry) : Option Entry := es.find? (fun e => e.block == n)

/-- Coverage of a list at block `m`: the length of the unbroken run from `m` (R74). -/
def coverageFrom (m : Nat) : List Entry → Nat
  | [] => 0
  | e :: es => if e.block < m then coverageFrom m es else if e.block = m then 1 + coverageFrom (m + 1) es else 0

/-! ## Local time (R1, R183, 00_scope.md 3.2) -/

/-- The reference clock made `dt` steps since the timed command before. In a stop of REFCLK those are the steps before the
stop, which the first timed command counts; a later one finds none (R183, log 2). -/
def State.advance (s : State) (dt : Nat) : State :=
  { s with timer :=
      { now := if s.timer.refclkStopped && s.timer.heldCounted then s.timer.now else s.timer.now + dt
        refclkStopped := s.timer.refclkStopped
        heldCounted := s.timer.refclkStopped } }

/-- One step of the local timer; none while REFCLK stands still (R183). -/
def State.tick (s : State) : State :=
  { s with timer := { s.timer with now := if s.timer.refclkStopped then s.timer.now else s.timer.now + 1 } }

/-- Local milliseconds: 25,000 steps of 40 ns. -/
def State.milliseconds (s : State) : Nat := s.timer.now / 25000

/-! ## Notices (R175) -/

/-- A notice joins the pending queue; a full queue discards it and NoticesLost is set (R175). -/
def NoticeUnit.post (u : NoticeUnit) (n : Notice) : NoticeUnit :=
  if u.queue.length < 32 then { u with queue := u.queue ++ [n] } else { u with lost := true }

/-- A block posts a notice with the current Period; in QUIET there is no ring and none is posted (R8, R175). -/
def State.post (s : State) (group : Option Nat) (source : Option Rig) (body : NoticeBody) : State :=
  { s with notices :=
      if s.part.state = .quiet then s.notices
      else s.notices.post { group := group, source := source, period := s.part.period, body := body } }

/-- Entries written and not handed back (R174); `n` is NoticeRingEntries. -/
def NoticeUnit.unreturned (u : NoticeUnit) (n : Nat) : Nat := n - u.available

/-! ## Free values -/

/-- Whether a pulse is taken: always when it has its stated width, else a free value (R182, R183, log 6). -/
def State.pulseTaken (s : State) (wide : Bool) : Bool := wide || Config.freeTaken s.freeCount

/-- `t`, unless RESET_N is low: then the part answers no request and takes no edge (R182). -/
def State.unlessHeld (s t : State) : State := if s.lines.resetLow then s else t

/-- One free value has been drawn. -/
def State.drawn (s : State) : State := { s with freeCount := s.freeCount + 1 }

end Sys2Proof.Machine
end

