-- ==== Sys2Proof/Machine/Formats.lean ====
section
/-! DEFINITION. The record layouts of chapter 12: codes, the records the part writes, the directory entry it reads back. -/

namespace Sys2Proof.Machine

/-! ## Packing (R179) -/

/-- A word with the number `n`. -/
def word (n : Nat) : Word := BitVec.ofNat 32 n

/-- Four byte fields, byte 0 lowest. -/
def packBytes (b0 b1 b2 b3 : Nat) : Word :=
  word (b0 % 256 + 256 * (b1 % 256) + 65536 * (b2 % 256) + 16777216 * (b3 % 256))

/-- Two 16-bit fields, low / high. -/
def packHalves (lo hi : Nat) : Word := word (lo % 65536 + 65536 * (hi % 65536))

/-- The low word of a 48-bit block number. -/
def blockLow (n : Nat) : Word := word n

/-- The high word of a 48-bit block number; its high 16 bits are 0 (R179). -/
def blockHigh (n : Nat) : Word := word (n / 4294967296 % 65536)

/-- A flag as a number. -/
def flag (b : Bool) : Nat := if b then 1 else 0

/-! ## Code values (R179) -/

def PartState.code : PartState → Nat
  | .quiet => 0
  | .standby => 1
  | .armed => 2
  | .running => 3

def ClockState.code : ClockState → Nat
  | .noClock => 0
  | .locked => 1
  | .flywheel => 2

def Role.code : Role → Nat
  | .main => 1
  | .backup => 2

def SelectState.code : SelectState → Nat
  | .onMain => 1
  | .toBackup => 2
  | .onBackup => 3
  | .toMain => 4

def RigVerdict.code : RigVerdict → Nat
  | .unknown => 1
  | .sound => 2
  | .suspect => 3
  | .failed => 4

def AgreementVerdict.code : AgreementVerdict → Nat
  | .unproven => 1
  | .agreed => 2
  | .diverged => 3

def LaneState.code : LaneState → Nat
  | .idle => 0
  | .filling => 1
  | .spoiled => 2
  | .starved => 3

/-- The header State: READY is written for a RELEASED slot (R82). -/
def SlotState.code : SlotState → Nat
  | .empty => 0
  | .blending => 1
  | .ready => 2
  | .released => 2

def SwitchCause.code : SwitchCause → Nat
  | .none => 0
  | .verdict => 1
  | .command => 2
  | .line => 3
  | .return => 4

def ResultCode.code : ResultCode → Nat
  | .done => 1
  | .wrongState => 2
  | .locked => 3
  | .badParameter => 4
  | .busy => 5
  | .unknownCommand => 6
  | .noContext => 7
  | .memoryFault => 8
  | .badAnchor => 9

def rigCode : Rig → Nat
  | .rig1 => 1
  | .rig2 => 2

/-- Source codes of map entries (R82). -/
def Source.code : Source → Nat
  | .idle => 0
  | .main => 1
  | .backup => 2
  | .blend => 3
  | .silence => 4
  | .repeatFill => 5

def ChannelKind.code : ChannelKind → Nat
  | .audio => 0
  | .data => 1

def SwitchEnding.code : SwitchEnding → Nat
  | .faded => 1
  | .immediate => 2
  | .cutShort => 3

def WithheldReason.code : WithheldReason → Nat
  | .held => 1
  | .backupNotSound => 2
  | .mainNotSound => 3
  | .diverged => 4

def inputCode : BlendInput → Nat
  | .old => 0
  | .new => 1

/-! ## Notice entries (R181) -/

/-- The Kind code of a notice. -/
def NoticeBody.kind : NoticeBody → Nat
  | .commandDone .. => 1
  | .showStarted .. => 2
  | .clockChange .. => 3
  | .switchStarted .. => 4
  | .switchFinished .. => 5
  | .switchWithheld .. => 6
  | .rigVerdictChanged .. => 7
  | .agreementChanged .. => 7
  | .windowReport .. => 8
  | .contextExhausted .. => 9
  | .poolExhausted .. => 10
  | .readerLate .. => 11
  | .ringFault .. => 12
  | .memoryFaultLoad .. => 13
  | .memoryFaultBlend .. => 13
  | .memoryFaultMap .. => 13

/-- Words 3 to 7 of a notice, without the zero words at the end. The block words of a MemoryFault of a map read are 0 (DESIGN
CHOICE, log 49: R181 lists them for the kind, and R84 names no block). -/
def NoticeBody.words : NoticeBody → List Word
  | .commandDone e k g r => [word e, word k, word g, word r.code]
  | .showStarted b n => [blockLow b, blockHigh b, word n]
  | .clockChange o n r nominal => [word o.code, word n.code, word r, word nominal]
  | .switchStarted f t c l x ls n =>
    [packBytes f.code t.code c.code l, blockLow x, packBytes (x / 4294967296) (x / 1099511627776) ls 0, word n]
  | .switchFinished r e c x => [packBytes r.code e.code c.code 0, blockLow x, blockHigh x]
  | .switchWithheld ls r why m => [packBytes ls r.code why.code m]
  | .rigVerdictChanged r o n trip b g => [packBytes r.code o.code n.code (if trip then 2 else 1), packHalves b g]
  | .agreementChanged o n b g => [packBytes 3 o.code n.code 1, packHalves b g]
  | .windowReport c d o r m cd lead trip oob cmp dis =>
    [packHalves c d, packHalves o r, packHalves m cd, packBytes (lead.getD 255) (flag trip + 2 * flag oob) 0 0,
     packHalves cmp dis]
  | .contextExhausted c l v st => [word c, word l, word v, word st]
  | .poolExhausted c l r q f => [packHalves c l, word r.code, word q, word f]
  | .readerLate b => [blockLow b, blockHigh b]
  | .ringFault r v => [word r, word v]
  | .memoryFaultLoad c => [word 1, word c]
  | .memoryFaultBlend c i b => [word 2, word c, word (inputCode i), blockLow b, blockHigh b]
  | .memoryFaultMap c k => [word 3, word c, word k]

/-- Word 0 of a notice entry, with OWN clear (R175, R181). -/
def Notice.ownWord (n : Notice) : Word :=
  packBytes n.body.kind (n.group.getD 255) (match n.source with | none => 0 | some r => rigCode r) 0

/-- Words 1 to 7 of a notice entry. -/
def Notice.restWords (n : Notice) : List Word :=
  ([blockLow n.period, blockHigh n.period] ++ n.body.words ++ List.replicate 5 0).take 7

/-- The writes of a notice entry at byte address `a`, in the order sent: the OWN word last (R175). -/
def Notice.writes (n : Notice) (a : Nat) : List (Nat × List Word) := [(a + 4, n.restWords), (a, [n.ownWord])]

/-! ## Slot records (R82, R181) -/

/-- The 16 header words of a slot record, with the release word 0xFFFF_FFFF (R82). -/
def headerWords (state block : Nat) (role : Role) (switchMark fadeMark : Bool) (c : Counts) : List Word :=
  [word state, blockLow block, blockHigh block, 0xFFFFFFFF, word role.code, word (flag switchMark + 2 * flag fadeMark),
   word c.main, word c.backup, word c.blend, word c.fill, word c.patched, 0, 0, 0, 0, 0]

/-- A map entry's word: bucket in bits 0 to 16, source code in bits 24 to 26. -/
def MapEntry.word (e : MapEntry) : Word := packHalves e.bucket (e.bucket / 65536 % 2 + 256 * e.source.code)

/-- The header of a slot with the given State code, sent upward from word 0 (DESIGN CHOICE, log 50). -/
def Slot.header (sl : Slot) (state : Nat) : List Word :=
  headerWords state sl.block sl.servedRole sl.switchMark sl.fadeMark sl.counts

/-- The whole record of a slot: header and 768 map entries, in the order its words are sent: header word 0 first, then upward,
the map entries last, by channel (DESIGN CHOICE, log 50: R98 and R99 name the last word alone). -/
def Slot.record (sl : Slot) (state : Nat) : List Word :=
  sl.header state ++ (List.range 768).map (fun c => (Table.get MapEntry.idle sl.map c).word)

/-- The header of a record EMPTY since anchor take or End Show: BlockNumber all ones, MAIN, zeros (R82). -/
def emptyHeader : List Word := headerWords 0 281474976710655 .main false false .zero

/-- The byte address of the record of slot `k` of group `g` (R82). -/
def recordAddr (base g k : Nat) : Nat := base + (g * 16 + k) * 4096

/-- Writes those header words of the first `n` EMPTY records that are among words `lo` to `hi` − 1 of the Live Directory; a
record has 1,024 words. -/
def writeEmptyHeaders (m : Memory) (base lo hi : Nat) : Nat → Memory
  | 0 => m
  | n + 1 => writeWords (writeEmptyHeaders m base lo hi n) (base + n * 4096 + 4 * (lo - n * 1024))
      ((emptyHeader.take (hi - n * 1024)).drop (lo - n * 1024))

/-- Words `lo` to `hi` − 1 of the 128 slot records, EMPTY with every map entry bucket 0, code 0 (R82). -/
def writeEmptyRange (m : Memory) (base lo hi : Nat) : Memory :=
  writeEmptyHeaders (zeroFill m (base + 4 * lo) (4 * (hi - lo))) base lo hi 128

/-- All 128 slot records EMPTY (R82). -/
def writeEmptyRecords (m : Memory) (base : Nat) : Memory := writeEmptyRange m base 0 131072

/-! ## Channel Directory entries (R52, R181) -/

/-- The byte address of directory entry `c` (chapter 4, 4.1). -/
def dirAddr (base c : Nat) : Nat := base + c * 32

/-- Word 0 of a directory entry. -/
def DirEntry.word0 (d : DirEntry) : Word := packBytes (flag d.defined + 2 * flag d.cached + 4 * d.kind.code) (d.group % 8) 0 0

/-- The 8 words of a directory entry. -/
def DirEntry.words (d : DirEntry) : List Word :=
  [d.word0, packHalves d.accepted.rig1 d.accepted.rig2, packHalves d.damaged.rig1 d.damaged.rig2, 0, 0, 0, 0, 0]

/-- The low and the high half of a word, as numbers per rig port. -/
def halves (w : Word) : PerRig Nat := ⟨w.toNat % 65536, w.toNat / 65536⟩

/-- The directory entry that stands at byte address `a`. -/
def readDirEntry (m : Memory) (a : Nat) : DirEntry :=
  { defined := (readWord m a).getLsbD 0
    cached := (readWord m a).getLsbD 1
    kind := if (readWord m a).getLsbD 2 then .data else .audio
    group := (readWord m a).toNat / 256 % 8
    accepted := halves (readWord m (a + 4))
    damaged := halves (readWord m (a + 8)) }

/-- The entry of an undefined channel (R52, anchor take and Undefine Channel). -/
def DirEntry.undefined : DirEntry :=
  { defined := false, cached := false, kind := .audio, group := 0, accepted := ⟨0, 0⟩, damaged := ⟨0, 0⟩ }

/-- The entry a write-back of a context writes (R52). -/
def Context.dirEntry (x : Context) : DirEntry :=
  { defined := true, cached := false, kind := x.kind, group := x.group, accepted := x.accepted, damaged := x.damaged }

/-! ## The Bridge Status record (R177, R181) -/

/-- The four words of group `g` in the Bridge Status record; an undefined group's are 0 (R177). -/
def State.statusGroup (s : State) (g : Nat) : List Word :=
  if (s.group g).defined then
    [blockLow (s.ring g).playBase, blockHigh (s.ring g).playBase,
     packBytes (s.group g).selectState.code (s.group g).targetRole.code (flag (s.group g).hold) 0,
     packBytes (s.healthOf g).main.verdict.code (s.healthOf g).backup.verdict.code (s.healthOf g).agreement.verdict.code 1]
  else [0, 0, 0, 0]

/-- The 128 words of the Bridge Status record with sequence value `q`: one snapshot of every figure (R177). -/
def State.statusWords (s : State) (q : Word) : List Word :=
  [q, packBytes s.part.state.code s.clock.state.code (flag s.notices.lost + 2 * flag s.sup.locked) 0,
   blockLow s.part.period, blockHigh s.part.period,
   blockLow s.resolver.resolveFront, blockHigh s.resolver.resolveFront,
   word s.cache.validContexts.length,
   packHalves s.resolver.readerEarly s.resolver.readerFault,
   word (s.pool.inUse (.quota .rig1)), word (s.pool.inUse (.quota .rig2)),
   word (s.pool.inUse (.common .rig1)), word (s.pool.inUse (.common .rig2)),
   word s.pool.commonFree, word (s.pool.inUse .blend),
   packHalves s.cache.strayWrites.rig1 s.cache.strayWrites.rig2, 0]
  ++ s.statusGroup 0 ++ s.statusGroup 1 ++ s.statusGroup 2 ++ s.statusGroup 3
  ++ s.statusGroup 4 ++ s.statusGroup 5 ++ s.statusGroup 6 ++ s.statusGroup 7
  ++ List.replicate 79 0 ++ [q]

end Sys2Proof.Machine
end

