-- ==== Sys2Proof/Machine/Operands.lean ====
section
/-! DEFINITION. Operand forms: what an address, an anchor, a command entry and a block header mean. -/

namespace Sys2Proof.Machine

/-! ## Rig-port addresses (R35, R157) -/

/-- What a word of a rig port's address space is. -/
inductive RigPlace where
  | payload (channel lane w : Nat)
  | header (channel lane h : Nat)
  | commit (channel lane : Nat)
  | unused
  | outside
  deriving DecidableEq, Repr

/-- The lane word at offset `o` of lane `l` of channel `c` (R35). -/
def lanePlace (c l o : Nat) : RigPlace :=
  if o < 512 then .payload c l (o / 4)
  else if o < 536 then .header c l ((o - 512) / 4)
  else if o < 540 then .commit c l
  else .unused

/-- Decodes a rig-port address: the Source Window fills the first 3 MiB (R35, R157). -/
def rigPlace (a : Word) : RigPlace :=
  if a.toNat < 3145728 then lanePlace (a.toNat / 4096) (a.toNat % 4096 / 1024) (a.toNat % 1024) else .outside

/-- The answer to a read on a rig port: zeros, with Error when a word lies above the Source Window (R157). -/
def rigPortRead (a words : Nat) : ReadAnswer :=
  { data := List.replicate words 0
    error := (List.range words).any (fun i => 3145728 ≤ a + 4 * i) }

/-! ## Anchor (R165, R180) -/

/-- Reads anchor words 2 to 10. -/
def readAnchor (m : Memory) : Anchor :=
  { commandRingBase := (readWord m 8).toNat
    commandRingEntries := (readWord m 12).toNat
    noticeRingBase := (readWord m 16).toNat
    noticeRingEntries := (readWord m 20).toNat
    statusBase := (readWord m 24).toNat
    channelDirectoryBase := (readWord m 28).toNat
    liveDirectoryBase := (readWord m 32).toNat
    poolBase := (readWord m 36).toNat
    poolBuckets := (readWord m 40).toNat }

/-- The DRAM size by the straps sampled at reset (R161). -/
def Lines.dramSize (l : Lines) : Nat :=
  match l.sizeB, l.sizeA with
  | false, false => 536870912
  | false, true => 1073741824
  | true, false => 2147483648
  | true, true => 4294967296

/-- A region of DRAM: its base and its extent in bytes. -/
structure Region where
  base : Nat
  extent : Nat
  deriving DecidableEq, Repr

/-- The byte address lies in the region. -/
def Region.holds (r : Region) (a : Nat) : Bool := r.base ≤ a && a < r.base + r.extent

/-- Two regions share no byte. -/
def Region.apart (r q : Region) : Bool := r.base + r.extent ≤ q.base || q.base + q.extent ≤ r.base

def Anchor.commandRing (a : Anchor) : Region := ⟨a.commandRingBase, a.commandRingEntries * 64⟩
def Anchor.noticeRing (a : Anchor) : Region := ⟨a.noticeRingBase, a.noticeRingEntries * 32⟩
def Anchor.statusRegion (a : Anchor) : Region := ⟨a.statusBase, 512⟩
def Anchor.channelDirectory (a : Anchor) : Region := ⟨a.channelDirectoryBase, 24576⟩
def Anchor.liveDirectory (a : Anchor) : Region := ⟨a.liveDirectoryBase, 524288⟩
def Anchor.poolRegion (a : Anchor) : Region := ⟨a.poolBase, a.poolBuckets * 512⟩

/-- The six regions (R165). -/
def Anchor.regions (a : Anchor) : List Region :=
  [a.commandRing, a.noticeRing, a.statusRegion, a.channelDirectory, a.liveDirectory, a.poolRegion]

/-- Check Ranges of R165. -/
def Anchor.rangesOk (a : Anchor) : Bool :=
  16 ≤ a.commandRingEntries && a.commandRingEntries ≤ 256 && 64 ≤ a.noticeRingEntries && a.noticeRingEntries ≤ 4096
    && 2048 ≤ a.poolBuckets && a.poolBuckets ≤ 65536

/-- Check Alignment of R165. -/
def Anchor.alignmentOk (a : Anchor) : Bool :=
  a.commandRingBase % 64 == 0 && a.noticeRingBase % 32 == 0 && a.statusBase % 64 == 0
    && a.channelDirectoryBase % 32 == 0 && a.liveDirectoryBase % 4096 == 0 && a.poolBase % 512 == 0

/-- Check Inside DRAM of R165. -/
def Anchor.insideDram (a : Anchor) (dramSize : Nat) : Bool := a.regions.all (fun r => r.base + r.extent ≤ dramSize)

/-- No region of the list shares a byte with a later one. -/
def regionsApart : List Region → Bool
  | [] => true
  | r :: rs => rs.all (Region.apart r) && regionsApart rs

/-- Check Apart of R165: no two regions share a byte, and none includes any of bytes 0 to 63. -/
def Anchor.apartOk (a : Anchor) : Bool := regionsApart a.regions && a.regions.all (Region.apart ⟨0, 64⟩)

/-- All the checks of R165. -/
def Anchor.ok (a : Anchor) (dramSize : Nat) : Bool :=
  a.rangesOk && a.alignmentOk && a.insideDram dramSize && a.apartOk

/-! ## Local Port addresses (R158 to R160) -/

/-- The class of a Local Port word; the watched words by name. -/
inductive LocalClass where
  | liveWindow
  | go
  | commandKick
  | noticeReturn
  | release (group slot : Nat)
  | guarded
  | passThrough
  | unmapped
  deriving DecidableEq, Repr

/-- The byte address of the release word of slot `k` of group `g`: header word 3 of the record (R181). -/
def releaseAddr (base g k : Nat) : Nat := recordAddr base g k + 12

/-- The class of a word inside DRAM after an anchor take (R158, R159, R160). The OWN word of a notice entry passes. -/
def Anchor.classOf (a : Anchor) (addr : Nat) : LocalClass :=
  if addr / 4 = 11 then .commandKick
  else if addr / 4 = 12 then .noticeReturn
  else if a.liveDirectory.holds addr then
    if (addr - a.liveDirectoryBase) % 4096 / 4 = 3 then
      .release ((addr - a.liveDirectoryBase) / 65536) ((addr - a.liveDirectoryBase) / 4096 % 16)
    else .guarded
  else if a.noticeRing.holds addr then
    if (addr - a.noticeRingBase) % 32 / 4 = 0 then .passThrough else .guarded
  else if a.channelDirectory.holds addr || a.poolRegion.holds addr || a.statusRegion.holds addr then .guarded
  else .passThrough

/-- The class of the Local Port word at `addr` (R158). In QUIET the Go word is the only watched word and no region is
guarded (R158, R160). -/
def State.localClass (s : State) (addr : Nat) : LocalClass :=
  if 4294967296 ≤ addr ∧ addr < 4294967296 + 67108864 then .liveWindow
  else if s.lines.dramSize ≤ addr then .unmapped
  else if addr / 4 = 0 then .go
  else
    match s.sup.anchor with
    | none => .passThrough
    | some a => a.classOf addr

/-! ## Live Window places (R83) -/

/-- Group, slot, place within the slot of a Live Window address. -/
structure LivePlace where
  group : Nat
  slot : Nat
  place : Nat
  deriving DecidableEq, Repr

/-- Decodes a Live Window address (R83). -/
def livePlace (addr : Nat) : LivePlace :=
  { group := (addr - 4294967296) / 8388608
    slot := (addr - 4294967296) % 8388608 / 524288
    place := (addr - 4294967296) % 524288 }

/-! ## Command entries (R169, R180) -/

/-- Word `i` of the entry in hand. -/
def CommandUnit.word (u : CommandUnit) (i : Nat) : Word := u.entry.getD i 0

/-- Byte `i` of a word, as a number. -/
def byteOf (w : Word) (i : Nat) : Nat := w.toNat / 256 ^ i % 256

/-- The low half of a word, as a number. -/
def lowHalf (w : Word) : Nat := w.toNat % 65536

/-- The high half of a word, as a number. -/
def highHalf (w : Word) : Nat := w.toNat / 65536

/-- Kind: bits 0 to 7 of word 0. -/
def CommandUnit.kind (u : CommandUnit) : Nat := byteOf (u.word 0) 0

/-- Group: bits 16 to 23 of word 0. -/
def CommandUnit.groupField (u : CommandUnit) : Nat := byteOf (u.word 0) 2

/-- Notify: bit 30 of word 0. -/
def CommandUnit.notify (u : CommandUnit) : Bool := (u.word 0).getLsbD 30

/-- OWN: bit 31 of an entry's word 0. -/
def ownSet (w : Word) : Bool := w.getLsbD 31

/-- Word 0 as the part writes it back: OWN clear, Kind, Notify and Group as fetched, other bits 0 (R170, R179). -/
def CommandUnit.word0Back (u : CommandUnit) : Word :=
  packBytes u.kind 0 u.groupField (64 * flag u.notify)

/-- The byte address of command entry `i`. -/
def Anchor.entryAddr (a : Anchor) (i : Nat) : Nat := a.commandRingBase + i * 64

/-- The five result data words, 11 to 15: those the rule gives, the rest 0 (R180). -/
def resultWords (data : List Word) : List Word := (data ++ List.replicate 5 0).take 5

/-- The owner answers the command in hand: Phase becomes WRITING (R170). -/
def CommandUnit.answered (u : CommandUnit) (r : ResultCode) (data : List Word) : CommandUnit :=
  { u with phase := .writing, result := r, resultData := resultWords data, directoryWait := .none }

/-- The Command Unit changed. -/
def State.modifyCommand (s : State) (f : CommandUnit → CommandUnit) : State :=
  { s with sup := { s.sup with command := f s.sup.command } }

/-- The command in hand is answered with a result and its data (R170). -/
def State.answerCommand (s : State) (r : ResultCode) (data : List Word) : State :=
  s.modifyCommand (fun u => u.answered r data)

/-! ## Block headers (R43, R180) -/

/-- Word `h` of a lane's header buffer; a word never written since lane open reads as 0 (R43). -/
def Lane.headerWord (l : Lane) (h : Nat) : Word := Table.get 0 l.header h

/-- The BlockNumber of a header (R43). -/
def Lane.blockNumber (l : Lane) : Nat := (l.headerWord 2).toNat + 4294967296 * lowHalf (l.headerWord 3)

/-- The Last flag of a header: bit 16 of word 0 (R180). -/
def Lane.lastFlag (l : Lane) : Bool := (l.headerWord 0).getLsbD 16

/-- The Malformed checks (R43). -/
def Lane.malformed (l : Lane) (channel : Nat) : Bool :=
  lowHalf (l.headerWord 0) != 1 || (l.headerWord 1).toNat != channel || highHalf (l.headerWord 3) != 0

/-! ## CRC (R39) -/

/-- One right shift of the CRC register with its conditional XOR. -/
def crcShift (c : Word) : Word := if c.getLsbD 0 then (c >>> 1) ^^^ 0xEDB88320 else c >>> 1

/-- One byte enters the CRC register: XOR into the low 8 bits, then eight shifts. -/
def crcByte (c : Word) (b : Byte) : Word :=
  crcShift (crcShift (crcShift (crcShift (crcShift (crcShift (crcShift (crcShift (c ^^^ b.setWidth 32))))))))

/-- One payload word enters as four bytes in address order. -/
def crcWord (c w : Word) : Word :=
  crcByte (crcByte (crcByte (crcByte c (wordByte w 0)) (wordByte w 1)) (wordByte w 2)) (wordByte w 3)

/-- The computed CRC at the commit. -/
def Lane.computedCrc (l : Lane) : Word := l.crc ^^^ 0xFFFFFFFF

end Sys2Proof.Machine
end

