-- ==== Sys2Proof/Machine/Flags.lean ====
section
/-! DEFINITION. The output lines and the record of status: tallies, interrupt line, Status Writer. -/

namespace Sys2Proof.Machine

/-! ## Tally lines (R153) -/

/-- At least one defined group has TargetRole `r` (R153). -/
def State.tallyOf (s : State) (r : Role) : Bool := s.definedGroups.any (fun g => (s.group g).targetRole == r)

/-- The tally lines follow the TargetRoles of the defined groups (R153). -/
def State.setTallies (s : State) : State :=
  { s with lines := { s.lines with tallyMain := s.tallyOf .main, tallyBackup := s.tallyOf .backup } }

/-! ## Interrupt line (R176) -/

/-- NoticeRingEntries of the anchor taken last; 0 while there is no ring. -/
def State.noticeEntries (s : State) : Nat :=
  match s.sup.anchor with
  | none => 0
  | some a => a.noticeRingEntries

/-- Entries written and not handed back (R174). -/
def State.unreturned (s : State) : Nat := s.notices.unreturned s.noticeEntries

/-- First test of R176: Unreturned is CoalesceCount or more. -/
def State.countDue (s : State) : Bool := s.notices.coalesceCount ≤ s.unreturned

/-- The write time of the oldest unreturned entry, the one after LastHanded (R176). -/
def State.oldestWriteTime (s : State) : Nat :=
  Table.get 0 s.notices.writeTimes ((s.notices.lastHanded + 1) % s.noticeEntries)

/-- Second test of R176: the oldest unreturned entry is more than CoalesceTime milliseconds behind the local timer. -/
def State.timeDue (s : State) : Bool :=
  s.notices.coalesceTime != 0 && 0 < s.unreturned && s.oldestWriteTime + s.notices.coalesceTime < s.milliseconds

/-- The interrupt line is asserted when `due` holds; once asserted it stays (R176). -/
def State.assertInterrupt (s : State) (due : Bool) : State :=
  { s with lines := { s.lines with interrupt := s.lines.interrupt || due } }

/-- The line is deasserted when Unreturned is 0 (R176). -/
def State.deassertIfReturned (s : State) : State :=
  { s with lines := { s.lines with interrupt := s.lines.interrupt && s.unreturned != 0 } }

/-! ## Status Writer (R177) -/

/-- A write of the Bridge Status record to `base` begins: the sequence value rises by 1 and the body is one snapshot. -/
def State.beginStatus (s : State) (base : Nat) : State :=
  { s with sup := { s.sup with status :=
      { sequence := s.sup.status.sequence + 1
        writing := some { base := base, words := s.statusWords (s.sup.status.sequence + 1) }
        followUp := false } } }

/-- A request is kept as one follow-up (R177). -/
def State.keepStatusRequest (s : State) : State :=
  { s with sup := { s.sup with status := { s.sup.status with followUp := true } } }

/-- The Status Writer is asked for a write: none before the first take, none begins while a write or a take runs (R177). -/
def State.requestStatus (s : State) : State :=
  match s.sup.anchor with
  | none => s
  | some a =>
    if s.sup.status.writing.isSome || s.sup.take.isSome then s.keepStatusRequest else s.beginStatus a.statusBase

end Sys2Proof.Machine
end

