-- ==== Sys2Proof/Machine/Switching.lean ====
section
/-! DEFINITION. The Switchover Controller (chapter 9): switches, cuts, fade ends, evaluation, the Takeover line. -/

namespace Sys2Proof.Machine

/-! ## Link sets (R136) -/

/-- The link set of a defined group: the defined groups of the same LinkSet 1 to 4, or the group alone (R136). -/
def State.members (s : State) (g : Nat) : List Nat :=
  if (s.group g).linkSet = 0 then [g]
  else s.definedGroups.filter (fun m => (s.group m).linkSet = (s.group g).linkSet)

/-- The lowest group of each link set that contains a defined group, ascending. -/
def State.setLeaders (s : State) : List Nat := s.definedGroups.filter (fun g => (s.members g).head? = some g)

/-- The groups whose sets a Group field names: the group's own, or every set for 255 (R136). -/
def State.namedLeaders (s : State) (field : Nat) : List Nat := if field = 255 then s.setLeaders else [field]

/-- The select state ON_r. -/
def SelectState.on : Role → SelectState
  | .main => .onMain
  | .backup => .onBackup

/-- The select state TO_r. -/
def SelectState.to : Role → SelectState
  | .main => .toMain
  | .backup => .toBackup

/-- TO_MAIN or TO_BACKUP. -/
def SelectState.fading : SelectState → Bool
  | .toMain => true
  | .toBackup => true
  | .onMain => false
  | .onBackup => false

/-- Any member of the set is fading. -/
def State.anyFading (s : State) (ms : List Nat) : Bool := ms.any (fun m => (s.group m).selectState.fading)

/-- Every member of the set is in the select state. -/
def State.allIn (s : State) (ms : List Nat) (st : SelectState) : Bool := ms.all (fun m => (s.group m).selectState == st)

/-! ## The switch of a member (R137) -/

/-- The Group Record after a switch to role `r` with length `l` at switch point `x` (R137). -/
def GroupRecord.switched (gr : GroupRecord) (r : Role) (l : Nat) (cause : SwitchCause) (x : Nat) : GroupRecord :=
  { gr with
    switchPoint := x
    targetRole := r
    selectState := if l = 0 then .on r else .to r
    fadeEnd := x + l
    lastSwitchPoint := if l = 0 then some x else gr.lastSwitchPoint
    lastSwitchCause := cause
    switchCount := sat16 gr.switchCount }

/-- SwitchStarted of member `g`, whose TargetRole was `old` (R154). -/
def State.postSwitchStarted (s : State) (g : Nat) (old : Role) (l : Nat) : State :=
  s.post (some g) (some (s.rigOf (s.group g).targetRole))
    (.switchStarted old (s.group g).targetRole (s.group g).lastSwitchCause l (s.group g).switchPoint (s.group g).linkSet
      (s.group g).switchCount)

/-- SwitchFinished of member `g` (R154). -/
def State.postSwitchFinished (s : State) (g : Nat) (ending : SwitchEnding) : State :=
  s.post (some g) (some (s.rigOf (s.group g).targetRole))
    (.switchFinished (s.group g).targetRole ending (s.group g).lastSwitchCause ((s.group g).lastSwitchPoint.getD 0))

/-- The length a switch of a member takes: its own FadeLength for a fade, 0 for a cut and in ARMED (R137). -/
def State.switchLength (s : State) (g : Nat) (fade : Bool) : Nat :=
  if fade && s.part.state != .armed then (s.group g).fadeLength else 0

/-- The switch of one member (R137). SwitchStarted joins the queue before SwitchFinished (DESIGN CHOICE, log 47). -/
def State.switchMember (s : State) (r : Role) (fade : Bool) (cause : SwitchCause) (g : Nat) : State :=
  let l := s.switchLength g fade
  let started := (s.modifyGroup g (fun gr => gr.switched r l cause s.resolver.resolveFront)).postSwitchStarted g
    (s.group g).targetRole l
  if l = 0 then started.postSwitchFinished g .immediate else started

/-- WithheldReported in every member of the set (R144). -/
def State.setWithheld (s : State) (ms : List Nat) (v : Bool) : State :=
  ms.foldl (fun t m => t.modifyGroup m (fun gr => { gr with withheldReported := v })) s

/-- The switch of a set: every member together, then WithheldReported cleared and the tallies follow (R137). The members post
their notices in ascending group number (DESIGN CHOICE, logs 10 and 47). -/
def State.switchSet (s : State) (ms : List Nat) (r : Role) (fade : Bool) (cause : SwitchCause) : State :=
  ((ms.foldl (fun t m => t.switchMember r fade cause m) s).setWithheld ms false).setTallies

/-! ## Evaluation (R140 to R144) -/

/-- Rig verdict of a role in group `g`. -/
def State.verdict (s : State) (g : Nat) (r : Role) : RigVerdict := ((s.healthOf g).record r).verdict

/-- The first condition of R141 or R142 that some member fails, with the lowest member that fails it; `r` is the role the
switch would take. -/
def State.failingCondition (s : State) (ms : List Nat) (r : Role) : Option (WithheldReason × Nat) :=
  match ms.find? (fun m => (s.group m).hold) with
  | some m => some (.held, m)
  | none =>
    match ms.find? (fun m => (s.healthOf m).agreement.verdict == .diverged) with
    | some m => some (.diverged, m)
    | none =>
      match ms.find? (fun m => s.verdict m r != .sound) with
      | some m => some (if r = .backup then .backupNotSound else .mainNotSound, m)
      | none => none

/-- The switch of a set is withheld: one SwitchWithheld unless one stands for the set (R144). `trigger` is the lowest
member whose verdict raised the trigger. -/
def State.withhold (s : State) (ms : List Nat) (trigger : Nat) (r : Role) (why : WithheldReason) (failing : Nat) : State :=
  if ms.any (fun m => (s.group m).withheldReported) then s
  else
    (s.post (some trigger) (some (s.rigOf r)) (.switchWithheld (s.group trigger).linkSet r why failing)).setWithheld ms true

/-- A trigger holds for the set with the member `trigger`: switch to `r`, or withhold (R141, R142). -/
def State.automaticSwitch (s : State) (ms : List Nat) (trigger : Nat) (r : Role) (cause : SwitchCause) : State :=
  match s.failingCondition ms r with
  | none => s.switchSet ms r true cause
  | some (why, m) => s.withhold ms trigger r why m

/-- The conditions of auto return (R143). -/
def State.autoReturnDue (s : State) (ms : List Nat) : Bool :=
  ms.all (fun m => (s.group m).autoReturn && !(s.group m).hold && s.verdict m .main == .sound
    && (s.healthOf m).agreement.verdict == .agreed)

/-- The evaluation of the link set of group `g` (R140 to R144). -/
def State.evaluate (s : State) (g : Nat) : State :=
  let ms := s.members g
  if s.anyFading ms then s
  else if s.allIn ms .onMain then
    match ms.find? (fun m => s.verdict m .main == .failed) with
    | some t => s.automaticSwitch ms t .backup .verdict
    | none => s.setWithheld ms false
  else
    match ms.find? (fun m => s.verdict m .backup == .failed) with
    | some t => s.automaticSwitch ms t .main .return
    | none =>
      if s.autoReturnDue ms then (s.setWithheld ms false).switchSet ms .main true .return else s.setWithheld ms false

/-! ## Fade end (R138) -/

/-- The Slot Resolver's report that block `n`, the last of group `g`'s fade, is resolved (R138). -/
def State.fadeEndReport (s : State) (g n : Nat) : State :=
  if (s.group g).selectState.fading ∧ n + 1 = (s.group g).fadeEnd then
    ((s.modifyGroup g (fun gr =>
        { gr with selectState := .on gr.targetRole, lastSwitchPoint := some gr.fadeEnd })).postSwitchFinished g .faded).evaluate g
  else s

/-! ## Cuts (R139) -/

/-- A cut to role `r` ends the fade of a member that is TO_r (R139). -/
def State.cutShort (s : State) (r : Role) (g : Nat) : State :=
  (s.modifyGroup g (fun gr =>
    { gr with selectState := .on r, lastSwitchPoint := some s.resolver.resolveFront })).postSwitchFinished g .cutShort

/-- A cut to role `r` on one member (R139). -/
def State.cutMember (s : State) (r : Role) (cause : SwitchCause) (g : Nat) : State :=
  if (s.group g).selectState = .on r then s
  else if (s.group g).selectState = .to r then s.cutShort r g
  else s.switchMember r false cause g

/-- The member stands ON_other or TO_other: a cut to `r` switches it under R137. -/
def GroupRecord.switchesTo (gr : GroupRecord) (r : Role) : Bool :=
  gr.selectState != .on r && gr.selectState != .to r

/-- A cut to role `r` on the link set of group `g`, with the evaluation of R140 when it found a member fading. The notices of
the cut join the queue before those of the evaluation (DESIGN CHOICE, log 47). -/
def State.cutSet (s : State) (r : Role) (cause : SwitchCause) (g : Nat) : State :=
  let ms := s.members g
  let cut := (ms.foldl (fun t m => t.cutMember r cause m) s)
  let cleared := if ms.any (fun m => (s.group m).switchesTo r) then cut.setWithheld ms false else cut
  if s.anyFading ms then cleared.setTallies.evaluate g else cleared.setTallies

/-- A Switch of form Fade on the link set of group `g` (R148). -/
def State.fadeSet (s : State) (r : Role) (g : Nat) : State :=
  if s.allIn (s.members g) (.on r) then s else s.switchSet (s.members g) r true .command

/-! ## The Takeover line (R151, R152) -/

/-- A qualifying rising edge on the link set of group `g` (R152). -/
def State.takeoverSet (s : State) (g : Nat) : State :=
  if s.allIn (s.members g) .onMain then s.switchSet (s.members g) .backup true .line else s

/-- The sets a qualifying edge acts on: those with a defined group whose FollowLine is set (R152). -/
def State.followLeaders (s : State) : List Nat :=
  s.setLeaders.filter (fun g => (s.members g).any (fun m => (s.group m).followLine))

/-- The line has stayed low for at least 10 ms of the local timer since the low period began (R151; in 40 ns steps, log 20). -/
def State.takeoverQualifies (s : State) : Bool :=
  match s.lines.takeoverLowSince with
  | none => false
  | some t => t + 250000 ≤ s.timer.now

/-- A low period begins now (R151). -/
def State.takeoverFalls (s : State) : State := { s with lines := { s.lines with takeoverLowSince := some s.timer.now } }

/-- TAKEOVER_FALLING_EDGE (R151): not taken while the part is held in reset (R182). -/
def execTakeoverFallingEdge (dt : Nat) (s : State) : Host.Outcome State Fault Refusal :=
  .next ((s.advance dt).unlessHeld (s.advance dt).takeoverFalls)

/-- The line is high: no low period runs. -/
def State.takeoverHigh (s : State) : State := { s with lines := { s.lines with takeoverLowSince := none } }

/-- A qualifying edge in RUNNING switches the sets that follow the line; any rising edge ends the low period (R151, R152). -/
def State.takeoverRises (s : State) : State :=
  if s.takeoverQualifies && s.part.state == .running then
    s.followLeaders.foldl (fun u g => u.takeoverSet g) s.takeoverHigh
  else s.takeoverHigh

/-- TAKEOVER_RISING_EDGE (R151, R152): not taken while the part is held in reset (R182). -/
def execTakeoverRisingEdge (dt : Nat) (s : State) : Host.Outcome State Fault Refusal :=
  .next ((s.advance dt).unlessHeld (s.advance dt).takeoverRises)

end Sys2Proof.Machine
end

