-- ==== Sys2Proof/Machine/Health.lean ====
section
/-! DEFINITION. The Health Monitor (chapter 8): samples, the fast trip, window closes, reports, settings. -/

namespace Sys2Proof.Machine

/-! ## Samples (R117, R118) -/

/-- A sample changes the record of role `r` in group `g`; only while RUNNING is it taken (R118). -/
def State.sample (s : State) (r : Role) (g : Nat) (f : HealthRecord → HealthRecord) : State :=
  if s.part.state = .running then s.modifyHealth g (fun h => h.modifyRecord f r) else s

def HealthRecord.addCommit (h : HealthRecord) : HealthRecord := { h with commits := sat16 h.commits }
def HealthRecord.addDamaged (h : HealthRecord) : HealthRecord := { h with damaged := sat16 h.damaged }
def HealthRecord.addOffTime (h : HealthRecord) : HealthRecord := { h with offTime := sat16 h.offTime }
def HealthRecord.addRepeat (h : HealthRecord) : HealthRecord := { h with repeats := sat16 h.repeats }
def HealthRecord.addCommonDraw (h : HealthRecord) : HealthRecord := { h with commonDraws := sat16 h.commonDraws }
def HealthRecord.addMiss (h : HealthRecord) : HealthRecord := { h with misses := sat16 h.misses }

/-- A lead sample: LeadMin keeps the smaller (R119). -/
def HealthRecord.addLead (h : HealthRecord) (lead : Nat) : HealthRecord :=
  { h with leadMin := some (match h.leadMin with | none => lead | some m => min m lead) }

/-- A number of comparisons of one resolution enter the Agreement Record (R118). -/
def AgreementRecord.addComparisons (a : AgreementRecord) (compared disagreed : Nat) : AgreementRecord :=
  { a with compared := satAdd16 a.compared compared, disagreed := satAdd16 a.disagreed disagreed }

/-- Comparison samples for group `g` (R96, R118). -/
def State.sampleComparisons (s : State) (g compared disagreed : Nat) : State :=
  if s.part.state = .running then
    s.modifyHealth g (fun h => { h with agreement := h.agreement.addComparisons compared disagreed })
  else s

/-! ## Verdict changes (R128) -/

/-- VerdictChanged for the record of role `r` in group `g`, whose verdict was `old`; nothing if it did not change. -/
def State.postRigVerdict (s : State) (g : Nat) (r : Role) (old : RigVerdict) (trip : Bool) : State :=
  let h := (s.healthOf g).record r
  if h.verdict = old then s
  else s.post (some g) (some (s.rigOf r)) (.rigVerdictChanged r old h.verdict trip h.badRun h.goodRun)

/-- VerdictChanged for the Agreement Record of group `g`; the Source is 0. -/
def State.postAgreement (s : State) (g : Nat) (old : AgreementVerdict) : State :=
  let a := (s.healthOf g).agreement
  if a.verdict = old then s else s.post (some g) none (.agreementChanged old a.verdict a.badRun a.goodRun)

/-! ## Fast trip (R124, R125) -/

/-- The Miss raises Misses to exactly MissTrip, and MissTrip is not 0 (R125). -/
def HealthRecord.tripFires (h : HealthRecord) (st : HealthSettings) : Bool :=
  st.missTrip != 0 && h.misses < 65535 && h.misses + 1 == st.missTrip

/-- The record after the fast trip (R125). -/
def HealthRecord.tripped (h : HealthRecord) (st : HealthSettings) : HealthRecord :=
  { h with tripReported := true, badRun := st.failAfter, goodRun := 0, verdict := .failed }

/-- A Miss sample for role `r` in group `g`, then the fast trip test; a changed verdict is posted and told to the
Switchover Controller in the same step (R118, R125, R128). VerdictChanged joins the queue before the notices of the evaluation
it brings (DESIGN CHOICE, log 47: R154 and R175 leave the order of notices posted together open). -/
def State.sampleMiss (s : State) (r : Role) (g : Nat) : State :=
  let h := (s.healthOf g).record r
  let st := (s.healthOf g).settings
  if s.part.state = .running ∧ h.tripFires st then
    let tripped := (s.modifyHealth g (fun x => x.modifyRecord (fun y => y.addMiss.tripped st) r)).postRigVerdict g r
      h.verdict true
    if h.verdict = .failed then tripped else tripped.evaluate g
  else s.sample r g HealthRecord.addMiss

/-! ## Judging (R122, R123, R126) -/

/-- The record is out of bounds for the window that closes (R122). -/
def HealthRecord.outOfBounds (h : HealthRecord) (st : HealthSettings) : Bool :=
  st.maxDamaged < h.damaged || st.maxOffTime < h.offTime || st.maxRepeats < h.repeats || st.maxMisses < h.misses
    || st.maxCommonDraws < h.commonDraws
    || h.commits == 65535 || h.damaged == 65535 || h.offTime == 65535 || h.repeats == 65535 || h.misses == 65535
    || h.commonDraws == 65535
    || (match h.leadMin with | none => false | some m => m < st.leadFloor)
    || h.tripReported

/-- The verdict after an out-of-bounds window (R123). -/
def RigVerdict.afterBad (v : RigVerdict) (failed : Bool) : RigVerdict :=
  if failed then .failed
  else match v with
    | .unknown => .suspect
    | .sound => .suspect
    | .suspect => .suspect
    | .failed => .failed

/-- The record judged at a window close (R123). -/
def HealthRecord.judged (h : HealthRecord) (st : HealthSettings) : HealthRecord :=
  if h.outOfBounds st then
    { h with goodRun := 0, badRun := sat15 h.badRun, verdict := h.verdict.afterBad (st.failAfter ≤ sat15 h.badRun) }
  else
    { h with badRun := 0, goodRun := sat15 h.goodRun,
             verdict := if st.soundAfter ≤ sat15 h.goodRun then .sound else h.verdict }

/-- The Agreement Record judged at a window close (R126). -/
def AgreementRecord.judged (a : AgreementRecord) (st : HealthSettings) : AgreementRecord :=
  if a.compared = 0 then a
  else if st.maxDisagree < a.disagreed then
    { a with goodRun := 0, badRun := sat15 a.badRun,
             verdict := if st.divergeAfter ≤ sat15 a.badRun then .diverged else a.verdict }
  else
    { a with badRun := 0, goodRun := sat15 a.goodRun,
             verdict := if st.agreeAfter ≤ sat15 a.goodRun then .agreed else a.verdict }

/-- The three records of a group judged (R120 step 1). -/
def GroupHealth.judged (h : GroupHealth) : GroupHealth :=
  { h with main := h.main.judged h.settings, backup := h.backup.judged h.settings,
           agreement := h.agreement.judged h.settings }

/-- The window counts cleared, LeadMin none, TripReported clear (R120 step 3). -/
def HealthRecord.cleared (h : HealthRecord) : HealthRecord :=
  { h with commits := 0, damaged := 0, offTime := 0, repeats := 0, misses := 0, commonDraws := 0, leadMin := none,
           tripReported := false }

/-- The window counts of the Agreement Record cleared (R120 step 3). -/
def AgreementRecord.cleared (a : AgreementRecord) : AgreementRecord := { a with compared := 0, disagreed := 0 }

/-- Any pending settings are adopted (R120 step 4, R130). -/
def GroupHealth.adopted (h : GroupHealth) : GroupHealth :=
  match h.pendingSettings with
  | none => h
  | some st => { h with settings := st, pendingSettings := none }

/-- Steps 3 to 5 of R120: counts cleared, pending settings adopted, the next WindowEnd set. -/
def GroupHealth.nextWindow (h : GroupHealth) (period : Nat) : GroupHealth :=
  let a := { h with main := h.main.cleared, backup := h.backup.cleared, agreement := h.agreement.cleared }.adopted
  { a with windowEnd := period + a.settings.windowLength }

/-- The WindowReport of role `r` in group `g` with the counts of the window that closes; `h` is the group's health before
the close (R127). -/
def State.postWindowReport (s : State) (g : Nat) (h : GroupHealth) (r : Role) : State :=
  let x := h.record r
  s.post (some g) (some (s.rigOf r))
    (.windowReport x.commits x.damaged x.offTime x.repeats x.misses x.commonDraws x.leadMin x.tripReported
      (x.outOfBounds h.settings) h.agreement.compared h.agreement.disagreed)

/-- The two WindowReports of a close, when the Report flag is set (R127): MAIN, then BACKUP (DESIGN CHOICE, log 42: they have
no order). -/
def State.postWindowReports (s : State) (g : Nat) (h : GroupHealth) : State :=
  if h.settings.report then (s.postWindowReport g h .main).postWindowReport g h .backup else s

/-- Some verdict of the group changes when its records are judged. -/
def GroupHealth.verdictChanges (h : GroupHealth) : Bool :=
  h.judged.main.verdict != h.main.verdict || h.judged.backup.verdict != h.backup.verdict
    || h.judged.agreement.verdict != h.agreement.verdict

/-- The three judged verdicts are posted where they changed (R128): MAIN, BACKUP, Agreement (DESIGN CHOICE, log 42: they have
no order). -/
def State.postVerdicts (s : State) (g : Nat) (h : GroupHealth) : State :=
  ((s.postRigVerdict g .main h.main.verdict false).postRigVerdict g .backup h.backup.verdict false).postAgreement g
    h.agreement.verdict

/-- The close of group `g`'s window (R120, R128). The WindowReports stand after the VerdictChanged and switch notices of the
same close (DESIGN CHOICE, log 42). -/
def State.closeWindow (s : State) (g : Nat) : State :=
  let h := s.healthOf g
  let judged := (s.modifyHealth g GroupHealth.judged).postVerdicts g h
  let told := if h.verdictChanges then judged.evaluate g else judged
  (told.postWindowReports g h).modifyHealth g (fun x => x.nextWindow s.part.period)

/-- The close is due: RUNNING, the window of a defined group open, and WindowEnd reached (R120, log 11). -/
def State.windowCloseDue (s : State) (g : Nat) : Bool :=
  s.part.state == .running && (s.group g).defined && (s.healthOf g).windowOpen && (s.healthOf g).windowEnd ≤ s.part.period

/-- The window close of group `g`, if due. -/
def State.healthWindowClose (s : State) (g : Nat) : State := if s.windowCloseDue g then s.closeWindow g else s

/-- HEALTH_WINDOW_CLOSE (R120). -/
def execHealthWindowClose (g : Nat) (s : State) : Host.Outcome State Fault Refusal := .next (s.healthWindowClose g)

/-! ## Values at show events (R131 to R134) -/

/-- The start values of a group's records with every WindowOpen clear; the settings stay (R132). WindowEnd, undefined until the
start event (R134), keeps the value it had (DESIGN CHOICE, log 4). -/
def GroupHealth.started (h : GroupHealth) : GroupHealth :=
  { h with main := .start, backup := .start, agreement := .start, windowOpen := false }

/-- The default settings (R128). -/
def HealthSettings.defaults : HealthSettings :=
  { windowLength := 64, maxDamaged := 0, maxOffTime := 2, maxRepeats := 4, maxMisses := 0, maxCommonDraws := 65535,
    leadFloor := 2, missTrip := 3, failAfter := 2, soundAfter := 3, maxDisagree := 0, divergeAfter := 2, agreeAfter := 2,
    report := false }

/-- The first window of a group begins (R120). -/
def GroupHealth.firstWindow (h : GroupHealth) (startBlock : Nat) : GroupHealth :=
  { h with windowOpen := true, windowEnd := startBlock + h.settings.windowLength }

end Sys2Proof.Machine
end

