-- ==== Sys2Proof/Machine/Ring.lean ====
section
/-! DEFINITION. The Slot Resolver (chapter 6): slots, releases, resolution, Live Window reads. -/

namespace Sys2Proof.Machine

/-! ## Live Directory writes (R82, R99) -/

/-- LiveDirectoryBase of the anchor taken last. -/
def State.liveBase (s : State) : Nat :=
  match s.sup.anchor with
  | none => 0
  | some a => a.liveDirectoryBase

/-- The byte address of the record of slot `k` of group `g`. -/
def State.recordAddr (s : State) (g k : Nat) : Nat := Sys2Proof.Machine.recordAddr s.liveBase g k

/-- The Slot Resolver sends a Live Directory write of slot `k` of group `g`, `offset` bytes into its record. -/
def State.sendSlotWrite (s : State) (kind : SlotWriteKind) (g k offset : Nat) (words : List Word) : State :=
  { s with resolver := { s.resolver with writes := s.resolver.writes ++
      [{ kind := kind, group := g, slot := k, block := (s.slot g k).block, addr := s.recordAddr g k + offset,
         words := words }] } }

/-- The group's slot record for its resolution is sent: BLENDING while jobs are outstanding, else READY (R98). -/
def State.sendRecord (s : State) (g k : Nat) : State :=
  s.sendSlotWrite .record g k 0
    ((s.slot g k).record (if 0 < (s.slot g k).outstanding then SlotState.blending.code else SlotState.ready.code))

/-! ## Recycle and PlayBase (R103) -/

/-- The pins a slot's map names are dropped: one per entry whose bucket is not the Zero Bucket (R81), in ascending channel
number (DESIGN CHOICE, log 10: R103 gives the claims of one recycle no order). -/
def Pool.unpinMap (p : Pool) (m : Table MapEntry) : Pool :=
  m.foldl (fun q e => if e.2.bucket = 0 then q else q.unpin e.2.bucket) p

/-- A slot just recycled for block `n` (R103); the map entries of the record are left from earlier use (R82). -/
def Slot.recycled (sl : Slot) (n : Nat) : Slot :=
  { sl with state := .empty, block := n, outstanding := 0, counts := .zero, servedRole := .main, switchMark := false,
            fadeMark := false, awaitingRecord := false, awaitingHeader := false }

/-- The slot that carries PlayBase(g) is recycled: pins dropped, EMPTY for the number 16 higher, its header written,
PlayBase raised (R103). -/
def State.recycle (s : State) (g : Nat) : State :=
  let base := (s.ring g).playBase
  let k := base % 16
  let unpinned := s.claim (fun p => p.unpinMap (s.slot g k).map)
  let emptied := unpinned.modifySlot g k (fun sl => sl.recycled (base + 16))
  let sent := emptied.sendSlotWrite .other g k 0 ((emptied.slot g k).header SlotState.empty.code)
  sent.modifyRing g (fun r => { r with playBase := base + 1 })

/-- PlayBase(g) advances while the slot that carries it is RELEASED; at most `fuel` slots, 16 being the ring (R103). -/
def State.advancePlayBase (s : State) (g : Nat) : Nat → State
  | 0 => s
  | fuel + 1 =>
    if (s.slot g ((s.ring g).playBase % 16)).state = .released then (s.recycle g).advancePlayBase g fuel else s

/-- A slot becomes RELEASED and PlayBase advances as far as it can. -/
def State.releaseSlot (s : State) (g k : Nat) : State :=
  (s.modifySlot g k (fun sl => { sl with state := .released })).advancePlayBase g 16

/-- ReaderLate is posted once until a reader release of the group succeeds (R102). -/
def State.reportLate (s : State) (g k : Nat) : State :=
  if (s.ring g).readerLateReported then s
  else (s.post (some g) none (.readerLate (s.slot g k).block)).modifyRing g (fun r => { r with readerLateReported := true })

/-- The part releases a slot (R102). -/
def State.partRelease (s : State) (g k : Nat) : State := (s.reportLate g k).releaseSlot g k

/-- A READY slot of a defined group whose ReleaseGrace has run out, while RUNNING (R102). -/
def State.releaseDue (s : State) (g k : Nat) : Bool :=
  s.part.state == .running && (s.group g).defined && (s.slot g k).state == .ready
    && (s.slot g k).block + s.resolver.releaseGrace ≤ s.part.period

/-- The forced release of a slot, if due (R102). -/
def State.forcedRelease (s : State) (g k : Nat) : State := if s.releaseDue g k then s.partRelease g k else s

/-- FORCED_RELEASE (R102). -/
def execForcedRelease (g k : Nat) (s : State) : Host.Outcome State Fault Refusal := .next (s.forcedRelease g k)

/-! ## From EMPTY to READY (R99, R100) -/

/-- The slot becomes READY; a slot whose release is already due is released at that moment (R102). -/
def State.becomeReady (s : State) (g k : Nat) : State :=
  (s.modifySlot g k (fun sl => { sl with state := .ready, awaitingRecord := false, awaitingHeader := false })).forcedRelease
    g k

/-- The Memory Port has taken the record of slot `k` for block `n` (R99). A slot whose jobs have all ended waits as
BLENDING for its READY header (log 21). -/
def State.recordTaken (s : State) (g k n : Nat) : State :=
  let sl := s.slot g k
  if sl.awaitingRecord ∧ sl.block = n then
    if 0 < sl.outstanding ∨ sl.awaitingHeader then
      s.modifySlot g k (fun x => { x with state := .blending, awaitingRecord := false })
    else s.becomeReady g k
  else s

/-- The Memory Port has taken the READY header of slot `k` for block `n` (R100). -/
def State.headerTaken (s : State) (g k n : Nat) : State :=
  if (s.slot g k).awaitingHeader ∧ (s.slot g k).block = n then s.becomeReady g k else s

/-- The Live Directory writes taken when the next record or READY header write in order is the one named: the writes
before it with it, that write's block, and what stays in flight (R99, R162). -/
def takeThrough (kind : SlotWriteKind) (g k : Nat) :
    List SlotWrite → Option (List (Nat × List Word) × Nat × List SlotWrite)
  | [] => none
  | w :: ws =>
    if w.kind = .other then
      match takeThrough kind g k ws with
      | none => none
      | some (taken, n, rest) => some ((w.addr, w.words) :: taken, n, rest)
    else if w.kind = kind ∧ w.group = g ∧ w.slot = k then some ([(w.addr, w.words)], w.block, ws)
    else none

/-- Writes of the Live Directory reach DRAM; `rest` stays in flight. -/
def State.landSlotWrites (s : State) (taken : List (Nat × List Word)) (rest : List SlotWrite) : State :=
  { s with mem := takeWrites s.mem taken, resolver := { s.resolver with writes := rest } }

/-- SLOT_RECORD_WRITTEN: the Memory Port takes a slot record write (R99). -/
def execSlotRecordWritten (g k : Nat) (s : State) : Host.Outcome State Fault Refusal :=
  .next (match takeThrough .record g k s.resolver.writes with
    | none => s
    | some (taken, n, rest) => (s.landSlotWrites taken rest).recordTaken g k n)

/-- The READY header of a slot is taken, with the other writes sent before it (R100, R162). -/
def State.readyHeaderWritten (s : State) (g k : Nat) : State :=
  match takeThrough .readyHeader g k s.resolver.writes with
  | none => s
  | some (taken, n, rest) => (s.landSlotWrites taken rest).headerTaken g k n

/-- The first write in flight is one no event waits for, of slot `k` of group `g` (a recycled header, a cancelled job's map
entry or counts), and is taken alone (R82, R162). -/
def State.otherWritten (s : State) (g k : Nat) : State :=
  match s.resolver.writes with
  | [] => s
  | w :: rest => if w.kind = .other ∧ w.group = g ∧ w.slot = k then s.landSlotWrites [(w.addr, w.words)] rest else s

/-- SLOT_HEADER_WRITTEN: the Memory Port takes the READY header write of a slot (R100), or a write of its record that no
event waits for (log 9). -/
def execSlotHeaderWritten (g : Nat) (h : SlotHeader) (s : State) : Host.Outcome State Fault Refusal :=
  .next (match h with
    | .ready k => s.readyHeaderWritten g k
    | .other k => s.otherWritten g k)

/-! ## The end of a slot's blend jobs (R100) -/

/-- Outstanding falls by 1; at 0 the READY header is sent (R100). -/
def State.jobLeaves (s : State) (g k : Nat) : State :=
  let fewer := s.modifySlot g k (fun sl => { sl with outstanding := sl.outstanding - 1 })
  if (fewer.slot g k).outstanding = 0 then
    (fewer.sendSlotWrite .readyHeader g k 0 ((fewer.slot g k).header SlotState.ready.code)).modifySlot g k
      (fun sl => { sl with awaitingHeader := true })
  else fewer

/-- The code of a map entry served from a role (R92). -/
def Source.ofRole : Role → Source
  | .main => .main
  | .backup => .backup

/-- The counts with one more entry of a source (R98). -/
def Counts.add (c : Counts) : Source → Counts
  | .idle => c
  | .main => { c with main := c.main + 1 }
  | .backup => { c with backup := c.backup + 1 }
  | .blend => { c with blend := c.blend + 1 }
  | .silence => { c with fill := c.fill + 1 }
  | .repeatFill => { c with fill := c.fill + 1 }

/-- The map entry of channel `c` rewritten to bucket `b` of the target, and the counts with it (R100). -/
def Slot.cutTo (sl : Slot) (c b : Nat) : Slot :=
  { sl with
    map := Table.set MapEntry.idle sl.map c { bucket := b, source := .ofRole sl.servedRole }
    counts := { sl.counts with blend := sl.counts.blend - 1 }.add (.ofRole sl.servedRole) }

/-- The slot still carries block `n`, so a report about a job of `n` concerns it. -/
def State.slotCarries (s : State) (g n : Nat) : Bool := (s.slot g (n % 16)).block == n

/-- The report "completed" of a job of block `n` (R100). -/
def State.jobCompleted (s : State) (g n : Nat) : State := if s.slotCarries g n then s.jobLeaves g (n % 16) else s

/-- The report "cancelled" of a job of block `n`, channel `c`, with T's input `b`: the map entry and the header counts are
rewritten (R100). R100 gives the two writes no order: the map entry is sent first, then words 6 to 8 of the header, each a
write of its own (DESIGN CHOICE, log 46). -/
def State.jobCancelled (s : State) (g n c b : Nat) : State :=
  if s.slotCarries g n then
    let k := n % 16
    let cut := s.modifySlot g k (fun sl => sl.cutTo c b)
    let entrySent := cut.sendSlotWrite .other g k (64 + 4 * c) [(Table.get MapEntry.idle (cut.slot g k).map c).word]
    let countsSent := entrySent.sendSlotWrite .other g k 24
      [word (cut.slot g k).counts.main, word (cut.slot g k).counts.backup, word (cut.slot g k).counts.blend]
    countsSent.jobLeaves g k
  else s

/-! ## Choosing a source (R89 to R94) -/

/-- The source of one channel at a resolution, with the list entries it uses and those it leaves. -/
inductive Choice where
  | idle
  | blend (target other : Entry)
  | target (used : Entry) (unused : Option Entry)
  | other (used : Entry)
  | repeatFill (bucket : Nat) (unused : Option Entry)
  | silence (unused : Option Entry)
  deriving DecidableEq, Repr

/-- The group is in a fade for block `n` (R88). -/
def GroupRecord.inFade (gr : GroupRecord) (n : Nat) : Bool :=
  gr.selectState.fading && gr.switchPoint ≤ n && n < gr.fadeEnd

/-- The fill of a channel given no block (R94). -/
def fillChoice (x : Context) (gr : GroupRecord) (unused : Option Entry) : Choice :=
  if x.kind = .data ∨ gr.fillMode = .silence then .silence unused
  else if x.repeatRun < gr.repeatLimit then
    match x.lastServed with
    | some b => .repeatFill b unused
    | none => .silence unused
  else .silence unused

/-- Whether the other role's block covers a block the target lacks: patch or rescue, never while DIVERGED (R93). -/
def coverAllowed (gr : GroupRecord) (target : RigVerdict) (agreement : AgreementVerdict) : Bool :=
  agreement != .diverged && (gr.patch || target == .failed)

/-- The source of channel context `x` for block `n` (R90 to R94). `et` and `eo` are the entries T's and O's lists hold for
`n`; `room` says that the Blend Job Queue has room and a Blend Allocate would be answered with a bucket. -/
def chooseSource (x : Context) (gr : GroupRecord) (target : RigVerdict) (agreement : AgreementVerdict) (n : Nat)
    (et eo : Option Entry) (room : Bool) : Choice :=
  match et, eo with
  | none, none => if x.streaming then fillChoice x gr none else .idle
  | some t, some o =>
    if gr.inFade n && x.kind == .audio && room then .blend t o else .target t (some o)
  | some t, none => .target t none
  | none, some o => if coverAllowed gr target agreement then .other o else fillChoice x gr (some o)

/-! ## After the choice (R97) -/

/-- LastServed follows a used block: AUDIO, FillMode REPEAT, Streaming set (R97). -/
def Context.followsServed (x : Context) (gr : GroupRecord) : Bool :=
  x.kind == .audio && gr.fillMode == .repeatLast && x.streaming

/-- The lists without block `n` (R71). -/
def Context.passed (x : Context) (n : Nat) : Context :=
  { x with lists := ⟨x.lists.rig1.filter (fun e => e.block != n), x.lists.rig2.filter (fun e => e.block != n)⟩ }

/-- The context after entry `e` was used (R97 steps 2 to 5). -/
def Context.served (x : Context) (gr : GroupRecord) (n : Nat) (e : Entry) : Context :=
  { x.passed n with
    repeatRun := 0
    streaming := x.streaming && !e.last
    lastServed := if e.last then none else if x.followsServed gr then some e.bucket else x.lastServed }

/-- The LastServed claims after entry `e` was used (R97 steps 4 and 5). -/
def Pool.servedClaims (p : Pool) (x : Context) (gr : GroupRecord) (e : Entry) : Pool :=
  if e.last then p.unpinOpt x.lastServed
  else if x.followsServed gr then (p.pin e.bucket).unpinOpt x.lastServed
  else p

/-- The head of the Blend Job Queue starts at once (R107, R108). -/
def startHead : List BlendJob → List BlendJob
  | [] => []
  | j :: js => { j with phase := if j.phase = .queued then .reading else j.phase } :: js

/-- A job joins the tail of the queue (R106, R107). -/
def State.addJob (s : State) (j : BlendJob) : State := { s with blend := startHead (s.blend ++ [j]) }

/-- The map entry of channel `c` and the counts of its source enter the slot. -/
def Slot.enter (sl : Slot) (c : Nat) (e : MapEntry) : Slot :=
  { sl with map := Table.set MapEntry.idle sl.map c e, counts := sl.counts.add e.source }

/-- One more channel served under R93. -/
def Slot.addPatched (sl : Slot) : Slot := { sl with counts := { sl.counts with patched := sl.counts.patched + 1 } }

/-- A blend is begun for the channel of context `k` (R91): output allocated, both inputs pinned, the job queued. -/
def State.beginBlend (s : State) (g n k : Nat) (t o : Entry) : State :=
  let x := s.context k
  let gr := s.group g
  match s.pool.blendAllocate with
  | (none, _) => s
  | (some out, p) =>
    let claimed := s.claim (fun _ => (((p.pin t.bucket).pin o.bucket)).servedClaims x gr t)
    let queued := claimed.addJob
      { group := g, block := n, channel := x.channel, old := o.bucket, new := t.bucket, output := out,
        fadeIndex := n - gr.switchPoint, fadeLength := gr.fadeLength, phase := .queued, samples := none }
    (queued.modifySlot g (n % 16) (fun sl =>
      { sl.enter x.channel { bucket := out, source := .blend } with outstanding := sl.outstanding + 1 })).modifyContext k
      (fun y => y.served gr n t)

/-- The channel of context `k` is served from entry `e` of role `r` (R92, R93); `unused` is freed (R97). -/
def State.serveEntry (s : State) (g n k : Nat) (r : Role) (e : Entry) (unused : Option Entry) : State :=
  let x := s.context k
  let gr := s.group g
  ((s.claim (fun p => ((p.pin e.bucket).freeOpt (unused.map (·.bucket))).servedClaims x gr e)).modifySlot g (n % 16)
    (fun sl => sl.enter x.channel { bucket := e.bucket, source := .ofRole r })).modifyContext k (fun y => y.served gr n e)

/-- The choice for the channel of context `k` is carried out in the slot for `n` (R91 to R94, R97). -/
def State.applyChoice (s : State) (g n k : Nat) : Choice → State
  | .idle => s
  | .blend t o => s.beginBlend g n k t o
  | .target t unused => s.serveEntry g n k (s.group g).targetRole t unused
  | .other o => (s.serveEntry g n k (s.group g).targetRole.other o none).modifySlot g (n % 16) Slot.addPatched
  | .repeatFill b unused =>
    ((s.claim (fun p => (p.pin b).freeOpt (unused.map (·.bucket)))).modifySlot g (n % 16)
      (fun sl => sl.enter (s.context k).channel { bucket := b, source := .repeatFill })).modifyContext k
      (fun y => { y.passed n with repeatRun := y.repeatRun + 1 })
  | .silence unused =>
    ((s.claim (fun p => p.freeOpt (unused.map (·.bucket)))).modifySlot g (n % 16)
      (fun sl => sl.enter (s.context k).channel { bucket := 0, source := .silence })).modifyContext k (fun y => y.passed n)

/-- The entry the list of role `r` of a context holds for `n`. -/
def State.roleEntry (s : State) (x : Context) (r : Role) (n : Nat) : Option Entry :=
  findEntry n (x.lists.get (s.rigOf r))

/-- The Blend Job Queue has room and a Blend Allocate would be answered with a bucket (R91, R107). -/
def State.blendRoom (s : State) : Bool := s.blend.length < 48 && s.pool.blendRoom

/-- The source of the channel of context `k` of group `g` for block `n` as the state stands (R88). -/
def State.choice (s : State) (g n k : Nat) : Choice :=
  let gr := s.group g
  chooseSource (s.context k) gr (s.verdict g gr.targetRole) (s.healthOf g).agreement.verdict n
    (s.roleEntry (s.context k) gr.targetRole n) (s.roleEntry (s.context k) gr.targetRole.other n) s.blendRoom

/-- The channel of context `k` of group `g` is resolved for block `n`. -/
def State.resolveChannel (s : State) (g n k : Nat) : State := s.applyChoice g n k (s.choice g n k)

/-! ## Resolution (R86 to R98) -/

/-- The VALID contexts of group `g`, ascending (log 10). -/
def State.contextsOf (s : State) (g : Nat) : List Nat :=
  s.cache.validContexts.filter (fun k => (s.context k).group = g)

/-- A slot of group `g` still held for a number 16 or more below `n` is released as if READY (R87). -/
def State.releaseOverdue (s : State) (g n k : Nat) : State :=
  if (s.slot g k).block + 16 ≤ n ∧ (s.slot g k).state ≠ .released then s.partRelease g k else s

/-- Every such slot of the ring (R87), from the one that carries PlayBase on (DESIGN CHOICE, log 56: R87 gives the slots of
one ring no order). -/
def State.clearRing (s : State) (g n : Nat) : State :=
  (List.range 16).foldl (fun t i => t.releaseOverdue g n (((s.ring g).playBase + i) % 16)) s

/-- SwitchMark: `n` is the switch point of the group's last switch taken (R98). -/
def GroupRecord.marksSwitch (gr : GroupRecord) (n : Nat) : Bool := gr.switchPoint == n && gr.lastSwitchCause != .none

/-- The slot of a resolution of block `n` before its channels enter it. -/
def Slot.opened (sl : Slot) (gr : GroupRecord) (n : Nat) : Slot :=
  { sl with block := n, outstanding := 0, map := [], counts := .zero, servedRole := gr.targetRole,
            switchMark := gr.marksSwitch n, fadeMark := gr.inFade n, awaitingRecord := true, awaitingHeader := false }

/-- Group `g`'s slot for block `n` is resolved and its record sent (R88 to R98), behind the release and recycle of the
group's own overdue slots (R87). Those of a later group are not released yet (DESIGN CHOICE, log 56: R86 and R87 do not say
whether the overdue slots of all groups go first). -/
def State.resolveGroup (s : State) (g n : Nat) : State :=
  let cleared := s.clearRing g n
  let opened := cleared.modifySlot g (n % 16) (fun sl => sl.opened (s.group g) n)
  ((opened.contextsOf g).foldl (fun t k => t.resolveChannel g n k) opened).sendRecord g (n % 16)

/-! ### Samples of a resolution (R75, R95, R96) -/

/-- The contexts of group `g` whose Streaming is set. -/
def State.streamingOf (s : State) (g : Nat) : List Context :=
  ((s.contextsOf g).map s.context).filter (·.streaming)

/-- Role `r` is charged a Miss for block `n` in group `g` (R95). -/
def State.misses (s : State) (g n : Nat) (r : Role) : Bool :=
  (s.streamingOf g).any (fun x => (s.roleEntry x r n).isNone)

/-- The lead sample of rig port `r` in group `g` at the resolution of `n` (R75). -/
def State.lead (s : State) (g n : Nat) (r : Rig) : Option Nat :=
  ((s.streamingOf g).map (fun x => coverageFrom (n + 1) (x.lists.get r))).min?

/-- The SceneTag pairs of the channels of group `g` whose two lists both hold `n` (R96). -/
def State.tagPairs (s : State) (g n : Nat) : List (Word × Word) :=
  ((s.contextsOf g).map s.context).filterMap (fun x =>
    match findEntry n x.lists.rig1, findEntry n x.lists.rig2 with
    | some a, some b => some (a.sceneTag, b.sceneTag)
    | _, _ => none)

/-- A lead sample for rig port `r`, if one is taken (R75, R119). -/
def State.sampleLead (s : State) (g : Nat) (r : Rig) : Option Nat → State
  | none => s
  | some l => s.sample (s.roleOf r) g (fun h => h.addLead l)

/-- A Miss sample for role `r`, if it is charged one. -/
def State.sampleMissIf (s : State) (g : Nat) (r : Role) (missed : Bool) : State :=
  if missed then s.sampleMiss r g else s

/-- The samples group `g` sends at the resolution of `n`; `before` is the state the resolution read (R75, R95, R96). The Miss
of MAIN is taken before that of BACKUP (DESIGN CHOICE, log 37: where both fire the fast trip, the order decides between a
failover and a withheld one). -/
def State.sendSamples (s before : State) (g n : Nat) : State :=
  let pairs := before.tagPairs g n
  ((((s.sampleComparisons g pairs.length (pairs.countP (fun p => p.1 != p.2))).sampleLead g .rig1
    (before.lead g n .rig1)).sampleLead g .rig2 (before.lead g n .rig2)).sampleMissIf g .main
    (before.misses g n .main)).sampleMissIf g .backup (before.misses g n .backup)

/-- The fade's last block is reported when the group was in a fade and `n` = FadeEnd − 1 (R98). -/
def State.reportFadeEnd (s before : State) (g n : Nat) : State :=
  if (before.group g).inFade n && n + 1 == (before.group g).fadeEnd then s.fadeEndReport g n else s

/-- ResolveFront becomes `n` (R98). -/
def State.setFront (s : State) (n : Nat) : State := { s with resolver := { s.resolver with resolveFront := n } }

/-- The resolution of the block number that equals ResolveFront, in every defined group (R86): every group's sources are
chosen on the values read before any sample of the resolution is taken (R88, R125), ResolveFront rises, then the samples
and the fade ends are sent (log 12). The report of a fade's last block is taken here, before any cut that meets it (DESIGN
CHOICE, log 52: R138 lets either be taken first). -/
def State.resolve (s : State) : State :=
  let n := s.resolver.resolveFront
  let gs := s.definedGroups
  let chosen := (gs.foldl (fun t g => t.resolveGroup g n) s).setFront (n + 1)
  let sampled := gs.foldl (fun t g => t.sendSamples s g n) chosen
  gs.foldl (fun t g => t.reportFadeEnd s g n) sampled

/-- `count` resolutions one after another, in ascending block number (R86). -/
def State.resolveMany (s : State) : Nat → State
  | 0 => s
  | count + 1 => s.resolve.resolveMany count

/-! ## Reader release (R101) -/

/-- ReaderFault rises by 1, saturating (R101). -/
def State.countReaderFault (s : State) : State :=
  { s with resolver := { s.resolver with readerFault := sat16 s.resolver.readerFault } }

/-- The releases of a slot that count: ARMED or RUNNING, a defined group (R101). -/
def State.releaseCounts (s : State) (g : Nat) : Bool :=
  (s.part.state == .armed || s.part.state == .running) && (s.group g).defined

/-- A reader release with value `v` handed to the Slot Resolver (R101). -/
def State.readerRelease (s : State) (g k : Nat) (v : Word) : State :=
  if s.releaseCounts g then
    if (s.slot g k).state = .ready ∧ v = blockLow (s.slot g k).block then
      (s.modifyRing g (fun r => { r with readerLateReported := false })).releaseSlot g k
    else s.countReaderFault
  else s

/-- A sub-word write to a release word (R101). -/
def State.subWordRelease (s : State) (g : Nat) : State := if s.releaseCounts g then s.countReaderFault else s

/-! ## Local Port reads (R83, R84, R85, R156, R159, R161) -/

/-- A Local Port read of `words` words from `addr` of which none is taken (R156). -/
def ReadBurst.new (addr words : Nat) : ReadBurst :=
  { addr := addr, left := words, data := [], error := false, early := false, entry := none, waiting := [] }

/-- The read with its next word answered by `w`. -/
def ReadBurst.give (b : ReadBurst) (w : Word) : ReadBurst :=
  { b with addr := b.addr + 4, left := b.left - 1, data := b.data ++ [w], entry := none }

/-- The read with its next word answered Error: the word returns zeros (R156). -/
def ReadBurst.fail (b : ReadBurst) : ReadBurst := { b.give 0 with error := true }

/-- A read of one word of DRAM is answered (R159, R162). -/
def ReadBurst.readAt (b : ReadBurst) (m : Memory) (a : Nat) : ReadStatus → ReadBurst
  | .ok => b.give (readWord m a)
  | .entryRead => b.give (readWord m a)
  | .firstError => b.fail
  | .secondError => b.fail

/-- ReaderEarly rises by 1, saturating (R83). -/
def State.countReaderEarly (s : State) : State :=
  { s with resolver := { s.resolver with readerEarly := sat16 s.resolver.readerEarly } }

/-- A word of a slot not ready: zero, and ReaderEarly counts once per read request (R83). -/
def State.readEarly (s : State) (b : ReadBurst) : State × ReadBurst :=
  (if b.early then s else s.countReaderEarly, { b.give 0 with early := true })

/-- MapFaultReported of group `g` (R84). -/
def State.setMapFault (s : State) (g : Nat) (v : Bool) : State := s.modifyRing g (fun r => { r with mapFaultReported := v })

/-- A map entry read answered Error: one MemoryFault until the next OK of the group (R84). -/
def State.mapFault (s : State) (g k c : Nat) : State :=
  if (s.ring g).mapFaultReported then s
  else (s.post (some g) none (.memoryFaultMap c k)).setMapFault g true

/-- The bucket a slot record in DRAM names for channel `c` (R83, R181). -/
def State.recordBucket (s : State) (g k c : Nat) : Nat := (readWord s.mem (s.recordAddr g k + 64 + 4 * c)).toNat % 131072

/-- The byte address of the bucket word that byte `o` of channel `c` of a slot reads (R83). -/
def State.liveAddr (s : State) (g k c o : Nat) : Nat := s.pool.byteAddr (s.recordBucket g k c) o

/-- A Live Window word of a READY or RELEASED slot: the map entry, then the bucket word. With the map entry read alone the
word stays under way, and its bucket word is the one that stands when that read is taken (R83, R84, R85). -/
def State.translate (s : State) (b : ReadBurst) (g k c o : Nat) : ReadStatus → State × ReadBurst
  | .ok => (s.setMapFault g false, b.give (readWord s.mem (s.liveAddr g k c o)))
  | .firstError => (s.mapFault g k c, b.fail)
  | .secondError => (s.setMapFault g false, b.fail)
  | .entryRead => (s.setMapFault g false, { b with entry := some (s.liveAddr g k c o) })

/-- A Live Window word (R83). -/
def State.liveWord (s : State) (b : ReadBurst) (st : ReadStatus) : State × ReadBurst :=
  let p := livePlace b.addr
  if s.part.state = .quiet ∨ s.part.state = .standby then (s, b.give 0)
  else if (s.group p.group).defined = false ∨ 393216 ≤ p.place then (s, b.give 0)
  else
    match (s.slot p.group p.slot).state with
    | .empty => s.readEarly b
    | .blending => s.readEarly b
    | .ready => s.translate b p.group p.slot (p.place / 512) (p.place % 512) st
    | .released => s.translate b p.group p.slot (p.place / 512) (p.place % 512) st

/-- The Memory Port's answer to the next word of read `b`, which is decoded by its own address (R156, R158). A word that
reads no DRAM takes an answer of any kind. -/
def State.readWordOf (s : State) (b : ReadBurst) (st : ReadStatus) : State × ReadBurst :=
  match b.entry with
  | some a => (s, b.readAt s.mem a st)
  | none =>
    match s.localClass b.addr with
    | .liveWindow => s.liveWord b st
    | .unmapped => (s, b.fail)
    | _ => (s, b.readAt s.mem b.addr st)

end Sys2Proof.Machine
end

