-- ==== Sys2Proof/Machine/Blend.lean ====
section
/-! DEFINITION. The Blend Engine (chapter 7): crossfade arithmetic, the running job, the deadline, read errors. The steps of
the End Show teardown that wait for the engine are in Machine/Teardown.lean. -/

namespace Sys2Proof.Machine

/-! ## Crossfade arithmetic (R109, R110) -/

/-- The weight of sample `i` of a job with FadeIndex `f` and FadeLength `l` (R109). -/
def fadeWeight (f l i : Nat) : Nat := 65536 * (f * 128 + i + 1) / (128 * l + 1)

/-- One output sample: 32-bit signed inputs, the floor of the exact weighted sum (R110). -/
def crossfade (a b : Word) (w : Nat) : Word :=
  BitVec.ofInt 32 ((a.toInt * (65536 - (w : Int)) + b.toInt * (w : Int)) / 65536)

/-- The output samples from sample `i` on (R110). -/
def crossfadeFrom (f l : Nat) : Nat → List Word → List Word → List Word
  | i, a :: as, b :: bs => crossfade a b (fadeWeight f l i) :: crossfadeFrom f l (i + 1) as bs
  | _, _, _ => []

/-- The 128 output samples of a job from DRAM as it stands (R108, R110): all 256 input words are taken at the row of the
answer (DESIGN CHOICE, log 57: R162 leaves open how the words of one read fall among the writes of other requesters). -/
def State.jobSamples (s : State) (j : BlendJob) : List Word :=
  crossfadeFrom j.fadeIndex j.fadeLength 0 (readWords s.mem (s.pool.byteAddr j.old 0) 128)
    (readWords s.mem (s.pool.byteAddr j.new 0) 128)

/-! ## Claims at the end of a job -/

/-- Completion: Pin Move on Output, Unpin on New and Old (R111). -/
def Pool.completeJob (p : Pool) (j : BlendJob) : Pool := ((p.pinMove j.output).unpin j.new).unpin j.old

/-- A cancellation that drops the job's pins at once: Unpin on Output, Pin Move on New, Unpin on Old (R112, R114). -/
def Pool.cancelJob (p : Pool) (j : BlendJob) : Pool := ((p.unpin j.output).pinMove j.new).unpin j.old

/-- The end of a DRAINING job: Unpin on Output and on Old (R112, R114). -/
def Pool.drainJob (p : Pool) (j : BlendJob) : Pool := (p.unpin j.output).unpin j.old

/-- The End Show flush drops every pin the job still holds: a DRAINING job's New pin belongs to a slot (R115). -/
def Pool.flushJob (p : Pool) (j : BlendJob) : Pool :=
  if j.phase = .draining then p.drainJob j else ((p.unpin j.output).unpin j.new).unpin j.old

/-- The head job leaves the queue and the next starts at once (R108). -/
def State.dropHead (s : State) : State := { s with blend := startHead s.blend.tail }

/-- The output samples in hand reach the bucket: the Memory Port has taken the words it had not (R108, R162). -/
def State.landOutput (s : State) (j : BlendJob) : State :=
  { s with
    mem := takeWrites s.mem (afterWords s.landed.blend [(s.pool.byteAddr j.output 0, j.samples.getD [])])
    landed := { s.landed with blend := 0 } }

/-! ## The deadline (R112) -/

/-- The job is of a block whose deadline has come and is not yet cancelled (R112, log 23). -/
def BlendJob.overdue (j : BlendJob) (period : Nat) : Bool := j.block ≤ period && j.phase != .draining

/-- A job at its deadline: a QUEUED job leaves the queue, a running one stays as DRAINING (R112). -/
def BlendJob.atDeadline (period : Nat) (j : BlendJob) : Option BlendJob :=
  if j.overdue period then (if j.phase = .queued then none else some { j with phase := .draining }) else some j

/-- The claims and the report of one job cancelled at its deadline (R112). -/
def State.deadlineJob (s : State) (j : BlendJob) : State :=
  (s.claim (fun p => if j.phase = .queued then p.cancelJob j else p.pinMove j.new)).jobCancelled j.group j.block j.channel
    j.new

/-- The deadline of the current Period while RUNNING: every job of its block still in the queue is cancelled (R112). The jobs
send their claims and reports from the head of the queue on (DESIGN CHOICE, log 38). -/
def State.blendDeadline (s : State) : State :=
  if s.part.state = .running then
    (s.blend.filter (fun j => j.overdue s.part.period)).foldl (fun t j => t.deadlineJob j)
      { s with blend := startHead (s.blend.filterMap (BlendJob.atDeadline s.part.period)) }
  else s

/-- BLEND_DEADLINE (R112). -/
def execBlendDeadline (s : State) : Host.Outcome State Fault Refusal := .next s.blendDeadline

/-- The job still reads its inputs: READING, or DRAINING since before its samples were in hand (R108, R112). -/
def BlendJob.reads (j : BlendJob) : Bool := j.phase == .reading || (j.phase == .draining && j.samples.isNone)

/-- The job with its 256 input words in hand: READING becomes WRITING, DRAINING stays (R108, R112). -/
def BlendJob.computed (j : BlendJob) (out : List Word) : BlendJob :=
  { j with phase := if j.phase = .reading then .writing else j.phase, samples := some out }

/-- BLEND_READING_DONE: all 256 input words are answered; the running job computes its output and writes it (R108, R112). -/
def execBlendReadingDone (s : State) : Host.Outcome State Fault Refusal :=
  .next (match s.blend with
    | [] => s
    | j :: js => if j.reads then { s with blend := j.computed (s.jobSamples j) :: js } else s)

/-- The rig port of a failing input's role: New is the served role's, Old the other's (R114). -/
def State.inputSource (s : State) (j : BlendJob) (input : BlendInput) : Rig :=
  match input with
  | .new => s.rigOf (s.slot j.group (j.block % 16)).servedRole
  | .old => s.rigOf (s.slot j.group (j.block % 16)).servedRole.other

/-- A read error of a job READING and not cancelled: a cut, and one MemoryFault (R114). -/
def State.failJob (s : State) (j : BlendJob) (input : BlendInput) : State :=
  ((s.dropHead.claim (fun p => p.cancelJob j)).jobCancelled j.group j.block j.channel j.new).post (some j.group)
    (some (s.inputSource j input)) (.memoryFaultBlend j.channel input j.block)

end Sys2Proof.Machine
end

