-- ==== Sys2Proof/Machine/Capture.lean ====
section
/-! DEFINITION. The Capture Units (chapter 3) and the period checks of the Channel Cache (R47, R63). -/

namespace Sys2Proof.Machine

/-! ## Opening a lane (R25 to R28, R37) -/

/-- Rig `r`'s role is the TargetRole of group `g` at this moment (R25). -/
def State.isTarget (s : State) (r : Rig) (g : Nat) : Bool := s.roleOf r == (s.group g).targetRole

/-- ExhaustReported of rig port `r` (R28). -/
def Pool.setExhausted (p : Pool) (r : Rig) (v : Bool) : Pool := { p with exhaustReported := p.exhaustReported.set r v }

/-- A Lane Allocate answered with no bucket: one PoolExhausted until the rig again gets a bucket (R28). -/
def State.reportExhausted (s : State) (r : Rig) (g channel lane : Nat) : State :=
  if s.pool.exhaustReported.get r then s
  else
    (s.post (some g) (some r) (.poolExhausted channel lane (s.roleOf r) (s.pool.inUse (.quota r)) s.pool.commonFree)).claim
      (fun p => p.setExhausted r true)

/-- A charge to common sends one CommonDraws sample, a charge to a quota none (R26). -/
def State.sampleDraw (s : State) (r : Rig) (g : Nat) (c : Charge) : State :=
  if c = .common r then s.sample (s.roleOf r) g HealthRecord.addCommonDraw else s

/-- A Lane Allocate of rig `r` for group `g` with its answer and its reports (R25, R26, R28). -/
def State.laneAllocate (s : State) (r : Rig) (g channel lane : Nat) : Option Nat × State :=
  match s.pool.laneAllocate r (s.isTarget r g) with
  | (none, _) => (none, s.reportExhausted r g channel lane)
  | (some (b, c), p) => (some b, (s.claim (fun _ => p.setExhausted r false)).sampleDraw r g c)

/-- A lane just opened with the answer of its Lane Allocate, at Period `period` (R37). -/
def Lane.opened (bucket : Option Nat) (period : Nat) : Lane :=
  { state := if bucket.isSome then .filling else .starved, bucket := bucket, nextWord := 0, crc := 0xFFFFFFFF,
    header := [], openPeriod := period }

/-- The state with lane `l` of rig port `r` in context `k` replaced. -/
def State.setLane (s : State) (k : Nat) (r : Rig) (l : Nat) (v : Lane) : State :=
  s.modifyContext k (fun x => x.setLane r l v)

/-- The lane `l` of rig port `r` in context `k`. -/
def State.lane (s : State) (k : Nat) (r : Rig) (l : Nat) : Lane := (s.context k).lane r l

/-- The lane-open event (R37). -/
def State.openLane (s : State) (k : Nat) (r : Rig) (l : Nat) : State :=
  let a := s.laneAllocate r (s.context k).group (s.context k).channel l
  let opened := a.2.setLane k r l (Lane.opened a.1 s.part.period)
  { opened with cache := opened.cache.refresh k }

/-- A payload or header write to an IDLE lane opens it first (R37). -/
def State.openIfIdle (s : State) (k : Nat) (r : Rig) (l : Nat) : State :=
  if (s.lane k r l).state = .idle then s.openLane k r l else s

/-! ## Filling (R38 to R41) -/

/-- All four byte enables are set (R36, R156). -/
def wholeWord (en : Enables) : Bool := en == 0xF

/-- The lane broke order (R38, R40). -/
def Lane.spoiled (l : Lane) : Lane := { l with state := .spoiled }

/-- The lane after payload word NextWord is taken (R38, R39). -/
def Lane.taken (l : Lane) (v : Word) : Lane := { l with nextWord := l.nextWord + 1, crc := crcWord l.crc v }

/-- The payload word is written to DRAM at PoolBase + Bucket × 512 + 4 × NextWord (R38). -/
def State.storePayload (s : State) (ln : Lane) (v : Word) : State :=
  { s with mem := writeWord s.mem (s.pool.byteAddr (ln.bucket.getD 0) (4 * ln.nextWord)) v }

/-- The payload write is the one a FILLING lane expects: a whole word to payload word NextWord (R38). -/
def Lane.expects (ln : Lane) (w : Nat) (en : Enables) : Bool := wholeWord en && w == ln.nextWord && ln.nextWord < 128

/-- A payload write to a lane that is not IDLE (R38, R41). -/
def State.fillPayload (s : State) (k : Nat) (r : Rig) (l w : Nat) (v : Word) (en : Enables) : State :=
  let ln := s.lane k r l
  if ln.state = .filling then
    if ln.expects w en then (s.storePayload ln v).setLane k r l (ln.taken v) else s.setLane k r l ln.spoiled
  else s

/-- A header write to a lane that is not IDLE (R40, R41). -/
def State.fillHeader (s : State) (k : Nat) (r : Rig) (l h : Nat) (v : Word) (en : Enables) : State :=
  let ln := s.lane k r l
  if ln.state = .filling then
    if wholeWord en then s.setLane k r l { ln with header := Table.set 0 ln.header h v } else s.setLane k r l ln.spoiled
  else s

/-! ## The commit (R42 to R46, R48) -/

/-- The outcomes of a lane closure, and the stray commit (R42, R46, R47). -/
inductive LaneOutcome where
  | abandoned
  | starved
  | spoiled
  | incomplete
  | malformed
  | crcMismatch
  | late
  | tooEarly
  | replaced
  | accepted
  | stale
  | stray
  deriving DecidableEq, Repr

/-- A commit request: a whole-word write of 1; any other write is an abandon (R42). -/
def commitRequest (v : Word) (en : Enables) : Bool := wholeWord en && v == 1

/-- The outcome of a commit to a lane that is not IDLE: the checks of R42 in order. `front` is ResolveFront and `limit` is
PlayBase(g) + Horizon; `es` is the rig's retained list. -/
def Lane.commitOutcome (ln : Lane) (channel front limit : Nat) (es : List Entry) (v : Word) (en : Enables) : LaneOutcome :=
  if !commitRequest v en then .abandoned
  else if ln.state = .starved then .starved
  else if ln.state = .spoiled then .spoiled
  else if ln.nextWord < 128 then .incomplete
  else if ln.malformed channel then .malformed
  else if ln.computedCrc != ln.headerWord 4 then .crcMismatch
  else if ln.blockNumber < front then .late
  else if limit ≤ ln.blockNumber then .tooEarly
  else if (findEntry ln.blockNumber es).isSome then .replaced
  else .accepted

/-- The retained entry a commit makes of its lane (R45). -/
def Lane.entry (ln : Lane) : Entry :=
  { block := ln.blockNumber, bucket := ln.bucket.getD 0, sceneTag := ln.headerWord 5, last := ln.lastFlag }

/-- An entry takes its place in increasing BlockNumber order (R70). -/
def insertEntry (e : Entry) : List Entry → List Entry
  | [] => [e]
  | x :: xs => if e.block < x.block then e :: x :: xs else x :: insertEntry e xs

/-- The entry of the same block takes the new bucket, SceneTag and Last in its place (R45). -/
def replaceEntry (e : Entry) (es : List Entry) : List Entry := es.map (fun x => if x.block = e.block then e else x)

/-- The lane closed: IDLE, no bucket; its other fields keep their values (R42). -/
def Lane.closed (ln : Lane) : Lane := { ln with state := .idle, bucket := none }

/-- The context with list `r` replaced. -/
def Context.setList (x : Context) (r : Rig) (es : List Entry) : Context := { x with lists := x.lists.set r es }

/-- Streaming set and LastCommitPeriod at an Accepted or Replaced commit (R45). -/
def Context.committed (x : Context) (period : Nat) : Context := { x with streaming := true, lastCommit := period }

/-- An Accepted block enters the list of rig `r` in context `k` (R45). -/
def State.acceptBlock (s : State) (k : Nat) (r : Rig) (e : Entry) : State :=
  let t := (s.claim (fun p => p.retain e.bucket)).modifyContext k
    (fun x => (x.setList r (insertEntry e (x.lists.get r))).committed s.part.period)
  { t with cache := t.cache.refresh k }

/-- A Replaced block takes the place of the entry of its block number, whose bucket is freed (R45). -/
def State.replaceBlock (s : State) (k : Nat) (r : Rig) (e : Entry) : State :=
  let old := (findEntry e.block ((s.context k).lists.get r)).map (·.bucket)
  let t := (s.claim (fun p => (p.retain e.bucket).freeOpt old)).modifyContext k
    (fun x => (x.setList r (replaceEntry e (x.lists.get r))).committed s.part.period)
  { t with cache := t.cache.refresh k }

/-- What the outcome does with the block of lane record `ln` (R42, R45). -/
def State.settleBlock (s : State) (k : Nat) (r : Rig) (ln : Lane) : LaneOutcome → State
  | .accepted => s.acceptBlock k r ln.entry
  | .replaced => s.replaceBlock k r ln.entry
  | _ => s.claim (fun p => p.freeOpt ln.bucket)

/-- The outcomes counted as Damaged (R48). -/
def LaneOutcome.isDamaged : LaneOutcome → Bool
  | .starved => true
  | .spoiled => true
  | .incomplete => true
  | .malformed => true
  | .crcMismatch => true
  | .stale => true
  | .stray => true
  | .abandoned => false
  | .late => false
  | .tooEarly => false
  | .replaced => false
  | .accepted => false

/-- The outcomes counted as Accepted (R48). -/
def LaneOutcome.isAccepted : LaneOutcome → Bool
  | .accepted => true
  | .replaced => true
  | _ => false

/-- The health accumulators an outcome raises (R48). -/
def LaneOutcome.enter (o : LaneOutcome) (h : HealthRecord) : HealthRecord :=
  match o with
  | .abandoned => h
  | .late => h.addOffTime
  | .tooEarly => h.addOffTime
  | .replaced => h.addRepeat.addCommit
  | .accepted => h.addCommit
  | _ => h.addDamaged

/-- The lifetime counters of rig `r` an outcome raises (R48). -/
def Context.count (x : Context) (r : Rig) (o : LaneOutcome) : Context :=
  if o.isDamaged then { x with damaged := x.damaged.set r (sat16 (x.damaged.get r)) }
  else if o.isAccepted then { x with accepted := x.accepted.set r (sat16 (x.accepted.get r)) }
  else x

/-- An outcome is reported to the Health Monitor, while RUNNING, and in the lifetime counters (R48). -/
def State.reportOutcome (s : State) (k : Nat) (r : Rig) (o : LaneOutcome) : State :=
  (s.sample (s.roleOf r) (s.context k).group o.enter).modifyContext k (fun x => x.count r o)

/-- A lane closes with an outcome: it becomes IDLE, its block is settled, the outcome is reported (R42, R45, R47, R48). -/
def State.closeLane (s : State) (k : Nat) (r : Rig) (l : Nat) (o : LaneOutcome) : State :=
  ((s.setLane k r l (s.lane k r l).closed).settleBlock k r (s.lane k r l) o).reportOutcome k r o

/-- The outcome of a commit write to lane `l` of rig port `r` in context `k` (R42, R46). -/
def State.commitOutcome (s : State) (k : Nat) (r : Rig) (l : Nat) (v : Word) (en : Enables) : LaneOutcome :=
  let x := s.context k
  (s.lane k r l).commitOutcome x.channel s.resolver.resolveFront ((s.ring x.group).playBase + s.cache.horizon)
    (x.lists.get r) v en

/-- A commit to a lane in context `k` (R42); to an IDLE lane it is a stray commit (R46). -/
def State.commitLane (s : State) (k : Nat) (r : Rig) (l : Nat) (v : Word) (en : Enables) : State :=
  if (s.lane k r l).state = .idle then s.reportOutcome k r .stray
  else s.closeLane k r l (s.commitOutcome k r l v en)

/-! ## Staleness and streaming expiry (R47, R63) -/

/-- The lane is open and more than 8 periods behind the Period, while RUNNING (R47, log 11). -/
def State.staleDue (s : State) (k : Nat) (r : Rig) (l : Nat) : Bool :=
  s.part.state == .running && (s.lane k r l).state != .idle && (s.lane k r l).openPeriod + 8 < s.part.period

/-- The stale check of one lane of a channel (R47). -/
def State.laneStale (s : State) (channel : Nat) (r : Rig) (l : Nat) : State :=
  match s.cache.mapEntry channel with
  | none => s
  | some k => if s.staleDue k r l then s.closeLane k r l .stale else s

/-- LANE_STALE (R47). -/
def execLaneStale (channel : Nat) (r : Rig) (l : Nat) (s : State) : Host.Outcome State Fault Refusal :=
  .next (s.laneStale channel r l)

/-- The context's streaming expires: RUNNING, Streaming set, more than ExpectSpan since its last commit (R63). -/
def State.expiryDue (s : State) (k : Nat) : Bool :=
  s.part.state == .running && (s.context k).streaming && (s.context k).lastCommit + s.cache.expectSpan < s.part.period

/-- The context after its streaming expired (R63). -/
def Context.expired (x : Context) : Context := { x with streaming := false, lastServed := none, repeatRun := 0 }

/-- The streaming check of one channel (R63). -/
def State.streamingExpiry (s : State) (channel : Nat) : State :=
  match s.cache.mapEntry channel with
  | none => s
  | some k =>
    if s.expiryDue k then
      (s.claim (fun p => p.unpinOpt (s.context k).lastServed)).modifyContext k Context.expired
    else s

/-- STREAMING_EXPIRY (R63). -/
def execStreamingExpiry (channel : Nat) (s : State) : Host.Outcome State Fault Refusal := .next (s.streamingExpiry channel)

end Sys2Proof.Machine
end

