-- ==== Sys2Proof/Machine/Cache.lean ====
section
/-! DEFINITION. The Channel Cache (chapter 4) and the rig ports (chapter 10, 10.2): held writes, loads, evictions. -/

namespace Sys2Proof.Machine

/-- ChannelDirectoryBase of the anchor taken last. -/
def State.dirBase (s : State) : Nat :=
  match s.sup.anchor with
  | none => 0
  | some a => a.channelDirectoryBase

/-- The byte address of directory entry `c`. -/
def State.dirEntryAddr (s : State) (c : Nat) : Nat := dirAddr s.dirBase c

/-- The directory entry of channel `c` as it stands in DRAM. -/
def State.dirEntry (s : State) (c : Nat) : DirEntry := readDirEntry s.mem (s.dirEntryAddr c)

/-- The whole entry of channel `c` is rewritten (R52). -/
def State.writeDirEntry (s : State) (c : Nat) (d : DirEntry) : State :=
  { s with mem := writeWords s.mem (s.dirEntryAddr c) d.words }

/-! ## Rig ports: handling a lane write whose context is at hand (R36) -/

/-- The queue of rig port `r`: its held write and the requests behind it. -/
def State.setPort (s : State) (r : Rig) (q : List RigRequest) : State :=
  { s with cache := { s.cache with ports := s.cache.ports.set r q } }

/-- A read on rig port `r` is taken and answered behind the answers given before; it reaches no block (R157). -/
def State.answerRig (s : State) (r : Rig) (a n : Nat) : State :=
  { s with rigAnswers := s.rigAnswers.set r (s.rigAnswers.get r ++ [rigPortRead a n]) }

/-- Lane writes are handled in ARMED and RUNNING (R49). -/
def State.capturing (s : State) : Bool := s.part.state == .armed || s.part.state == .running

/-- The channel and lane a lane write needs (R35, R36); none for a word dropped at the port (R157). -/
def RigPlace.lane : RigPlace → Option (Nat × Nat)
  | .payload c l _ => some (c, l)
  | .header c l _ => some (c, l)
  | .commit c l => some (c, l)
  | .unused => none
  | .outside => none

/-- A lane write is handled with context `k` (R37 to R46). -/
def State.handleLaneWrite (s : State) (k : Nat) (r : Rig) (w : RigWrite) : State :=
  match rigPlace w.addr with
  | .payload _ l i => (s.openIfIdle k r l).fillPayload k r l i w.value w.enables
  | .header _ l h => (s.openIfIdle k r l).fillHeader k r l h w.value w.enables
  | .commit _ l => s.commitLane k r l w.value w.enables
  | .unused => s
  | .outside => s

/-! ## Asking for a load (R55, R56) -/

/-- A context is EVICTING that held channel `c` (R56). -/
def Cache.evicting (x : Cache) (c : Nat) : Bool :=
  x.contexts.any (fun e => e.2.residence == .evicting && e.2.channel == c)

/-- A load request for channel `c` exists. -/
def Cache.loading (x : Cache) (c : Nat) : Bool := x.loads.any (fun q => q.channel == c)

/-- The request waits for rig port `r` too (R55). -/
def LoadRequest.join (q : LoadRequest) (r : Rig) : LoadRequest := { q with waiting := q.waiting.set r true }

/-- A new request, with the write's port as starter and waiter (R55, R56). -/
def Cache.newRequest (x : Cache) (c : Nat) (r : Rig) (l : Nat) : LoadRequest :=
  { channel := c, starter := r, starterLane := l, waiting := (⟨false, false⟩ : PerRig Bool).set r true,
    stage := if x.evicting c then .waitWriteback else .reading }

/-- The directory read of a load of channel `c` is sent (R57). The Memory Port takes it behind the accesses sent before it: with
none in flight at once, and its answer may come from then on (R162, log 43). -/
def Cache.sendRead (x : Cache) (c : Nat) : Cache := if x.sends.isEmpty then x else { x with sends := x.sends ++ [.read c] }

/-- A load request of channel `c` opens; its read is sent unless it waits for the write-back of entry `c` (R55, R56). -/
def Cache.openRequest (x : Cache) (c : Nat) (r : Rig) (l : Nat) : Cache :=
  let opened := { x with loads := x.loads ++ [x.newRequest c r l] }
  if x.evicting c then opened else opened.sendRead c

/-- A lane write for a channel with no context opens or joins a load request (R55). -/
def Cache.askLoad (x : Cache) (c : Nat) (r : Rig) (l : Nat) : Cache :=
  if x.loading c then { x with loads := x.loads.map (fun q => if q.channel = c then q.join r else q) }
  else x.openRequest c r l

/-- The port takes its requests one at a time: reads, words dropped at the port and lane writes with a context go on, a lane
write whose channel has no context is held with all behind it (R36, R55, R157). -/
def State.serve (s : State) (r : Rig) : List RigRequest → State
  | [] => s.setPort r []
  | .read a n :: qs => (s.answerRig r a n).serve r qs
  | .write w :: qs =>
    match (rigPlace w.addr).lane with
    | none => s.serve r qs
    | some (c, l) =>
      match s.cache.mapEntry c with
      | some k => (s.handleLaneWrite k r w).serve r qs
      | none =>
        let held := s.setPort r (.write w :: qs)
        { held with cache := held.cache.askLoad c r l }

/-- A request arrives at rig port `r`: behind a held write it waits, else it is taken (R36, R157). -/
def State.rigRequest (s : State) (r : Rig) (q : RigRequest) : State :=
  if (s.cache.ports.get r).isEmpty then s.serve r [q] else s.setPort r (s.cache.ports.get r ++ [q])

/-- A write word arrives at rig port `r`: dropped in QUIET and STANDBY (R49, R157). -/
def State.rigWrite (s : State) (r : Rig) (w : RigWrite) : State := if s.capturing then s.rigRequest r (.write w) else s

/-- PAYLOAD_WRITE (R38). -/
def execPayloadWrite (r : Rig) (addr value : Word) (en : Enables) (s : State) : Host.Outcome State Fault Refusal :=
  .next (s.unlessHeld (s.rigWrite r { addr := addr, value := value, enables := en }))

/-- HEADER_WRITE (R40). -/
def execHeaderWrite (r : Rig) (addr value : Word) (en : Enables) (s : State) : Host.Outcome State Fault Refusal :=
  .next (s.unlessHeld (s.rigWrite r { addr := addr, value := value, enables := en }))

/-- COMMIT (R42). -/
def execCommit (r : Rig) (addr value : Word) (en : Enables) (s : State) : Host.Outcome State Fault Refusal :=
  .next (s.unlessHeld (s.rigWrite r { addr := addr, value := value, enables := en }))

/-- RIG_PORT_UNUSED_WRITE: dropped at the port (R35, R157). -/
def execRigPortUnusedWrite (r : Rig) (addr value : Word) (en : Enables) (s : State) : Host.Outcome State Fault Refusal :=
  .next (s.unlessHeld (s.rigWrite r { addr := addr, value := value, enables := en }))

/-! ## The end of a load request (R57 to R62) -/

/-- The request for channel `c` is closed. -/
def Cache.closeRequest (x : Cache) (c : Nat) : Cache := { x with loads := x.loads.filter (fun q => q.channel != c) }

/-- StrayWrites of rig port `r` rises by 1 if the dropped write is a commit to an undefined channel (R58). -/
def State.countStray (s : State) (r : Rig) : State :=
  match s.cache.ports.get r with
  | .write w :: _ =>
    match rigPlace w.addr with
    | .commit _ _ =>
      { s with cache := { s.cache with strayWrites := s.cache.strayWrites.set r (sat16 (s.cache.strayWrites.get r)) } }
    | _ => s
  | _ => s

/-- The held write of rig port `r` is dropped, if it waited on the request; `undefined` when the channel is (R58). -/
def State.dropHeld (s : State) (q : LoadRequest) (undefined : Bool) (r : Rig) : State :=
  if q.waiting.get r then
    let counted := if undefined then s.countStray r else s
    counted.setPort r (counted.cache.ports.get r).tail
  else s

/-- Rig port `r`, if it waited on the request, goes on with what its queue holds (R55). -/
def State.resumePort (s : State) (q : LoadRequest) (r : Rig) : State :=
  if q.waiting.get r then s.serve r (s.cache.ports.get r) else s

/-- Both waiting ports go on, Rig Port 1 and all its queue first (DESIGN CHOICE, log 35: the spec orders the two released
writes, and two loads asked for together, in no way). -/
def State.resumePorts (s : State) (q : LoadRequest) : State := (s.resumePort q .rig1).resumePort q .rig2

/-- A load ends without a context: its request closes and each waiting write is dropped (R58, R59 step 3). -/
def State.abandonLoad (s : State) (q : LoadRequest) (undefined : Bool) : State :=
  ((({ s with cache := s.cache.closeRequest q.channel }.dropHeld q undefined .rig1).dropHeld q undefined .rig2).resumePorts q)

/-- The context stage 3 fills (R61). -/
def Context.loaded (c : Nat) (d : DirEntry) (period : Nat) : Context :=
  { Context.initial with
    residence := .valid, channel := c, group := d.group, kind := d.kind, lastCommit := period,
    accepted := d.accepted, damaged := d.damaged }

/-- The Memory Port takes the accesses up to the first write-back: a Cached write reaches DRAM, a read may be answered from then
on. The first write-back and what is behind it stay in flight (R162, logs 8 and 43). -/
def State.takeSends (s : State) : List CacheSend → State
  | .cached c d :: rest =>
    { s with mem := writeWord s.mem (s.dirEntryAddr c) { d with cached := true }.word0 }.takeSends rest
  | .read _ :: rest => s.takeSends rest
  | sends => { s with cache := { s.cache with sends := sends } }

/-- Stage 3 fills context `k`, which becomes VALID, mapped, and last in the LRU order, and the request closes (R61). -/
def Cache.filled (x : Cache) (q : LoadRequest) (k : Nat) (d : DirEntry) (period : Nat) : Cache :=
  let mapped := (x.modifyContext k (fun _ => Context.loaded q.channel d period)).setMapEntry q.channel (some k)
  { mapped with lru := mapped.lru ++ [k] }.closeRequest q.channel

/-- Stage 3: the context is filled, Cached is sent, and the held writes are released (R61). -/
def State.completeLoad (s : State) (q : LoadRequest) (k : Nat) (d : DirEntry) : State :=
  ({ s with cache := s.cache.filled q k d s.part.period }.takeSends
    (s.cache.sends ++ [CacheSend.cached q.channel d])).resumePorts q

/-- A VALID context that holds nothing of value (R60). -/
def Context.evictable (x : Context) : Bool :=
  x.residence == .valid && x.lanes.rig1.all (fun e => e.2.state == .idle) && x.lanes.rig2.all (fun e => e.2.state == .idle)
    && x.lists.rig1.isEmpty && x.lists.rig2.isEmpty && !x.streaming && x.lastServed.isNone

/-- The lowest-numbered FREE context (R59). -/
def Cache.lowestFree (x : Cache) : Option Nat := (List.range 96).find? (fun k => (x.context k).residence == .free)

/-- The first evictable context from the head of the LRU order (R59). -/
def Cache.victim (x : Cache) : Option Nat := x.lru.find? (fun k => (x.context k).evictable)

/-- Context `k` becomes EVICTING for the request of channel `c`: it leaves the LRU order and the Channel Map, and its
write-back is sent (R60). -/
def Cache.evict (x : Cache) (k c : Nat) (d : DirEntry) : Cache :=
  let unmapped := (x.setMapEntry (x.context k).channel none).modifyContext k (fun y => { y with residence := .evicting })
  { unmapped with
    lru := unmapped.lru.filter (fun j => j != k)
    loads := unmapped.loads.map (fun q => if q.channel = c then { q with stage := .evicting k d } else q)
    sends := unmapped.sends ++ [CacheSend.writeback k] }

/-- ContextExhaustReported (R62). -/
def State.setContextExhausted (s : State) (v : Bool) : State := { s with cache := { s.cache with exhaustReported := v } }

/-- The number of VALID contexts with Streaming set. -/
def Cache.streamingCount (x : Cache) : Nat := x.validContexts.countP (fun k => (x.context k).streaming)

/-- A load finds no context: one ContextExhausted until a context is again obtained (R62). Its third word
is the number of contexts that are VALID then, 96 but where one is EVICTING (the model's choice, log 53). -/
def State.reportContextExhausted (s : State) (q : LoadRequest) (d : DirEntry) : State :=
  if s.cache.exhaustReported then s
  else
    (s.post (some d.group) (some q.starter)
      (.contextExhausted q.channel q.starterLane s.cache.validContexts.length s.cache.streamingCount)).setContextExhausted true

/-- Stage 2: a FREE context, a victim, or none (R59, R62). -/
def State.stage2 (s : State) (q : LoadRequest) (d : DirEntry) : State :=
  match s.cache.lowestFree with
  | some k => (s.setContextExhausted false).completeLoad q k d
  | none =>
    match s.cache.victim with
    | some k => { s with cache := { s.cache.evict k q.channel d with exhaustReported := false } }
    | none => (s.reportContextExhausted q d).abandonLoad q false

/-- A read error on the directory read of a load (R58). -/
def State.loadReadError (s : State) (q : LoadRequest) : State :=
  (s.post none (some q.starter) (.memoryFaultLoad q.channel)).abandonLoad q false

/-- The load request for channel `c` that reads the directory. -/
def Cache.readingRequest (x : Cache) (c : Nat) : Option LoadRequest :=
  x.loads.find? (fun q => q.channel == c && q.stage == .reading)

/-- The load request for channel `c` whose read the Memory Port has taken, so that its answer may come (R57, R162). -/
def Cache.answerable (x : Cache) (c : Nat) : Option LoadRequest :=
  if CacheSend.read c ∈ x.sends then none else x.readingRequest c

/-- The directory read of a load is answered (R57), with the whole entry as it stands at the row of the answer (DESIGN
CHOICE, log 57; log 43 says why no write falls between its words). -/
def State.loadReadDone (s : State) (q : LoadRequest) (error : Bool) : State :=
  if error then s.loadReadError q
  else if (s.dirEntry q.channel).defined then s.stage2 q (s.dirEntry q.channel)
  else s.abandonLoad q true

/-- The load request that evicts context `k`, with the directory values it read. -/
def Cache.evictingRequest (x : Cache) (k : Nat) : Option (LoadRequest × DirEntry) :=
  x.loads.findSome? (fun q => match q.stage with | .evicting j d => if j = k then some (q, d) else none | _ => none)

/-- The load request waits for the write-back of channel `d`, its own (R56). -/
def LoadRequest.awaits (q : LoadRequest) (d : Nat) : Bool := q.channel == d && q.stage == .waitWriteback

/-- A load that waits on the write-back of channel `d` sends its directory read (R56, R57). -/
def Cache.startRead (x : Cache) (d : Nat) : Cache :=
  let started := { x with loads := x.loads.map (fun q => if q.awaits d then { q with stage := .reading } else q) }
  if x.loads.any (fun q => q.awaits d) then started.sendRead d else started

/-- A load and a command that wait on the write-back of channel `d` start their directory reads (R56, R66). -/
def State.writebackDone (s : State) (d : Nat) : State :=
  { s with
    cache := s.cache.startRead d
    sup := { s.sup with command := { s.sup.command with directoryWait :=
      if s.sup.command.directoryWait = .writeback ∧ (s.sup.command.word 1).toNat = d then .read
      else s.sup.command.directoryWait } } }

/-- What an access of the Channel Cache writes: the entry of an EVICTING context's channel, or word 0 with Cached set (R52); a
read writes no word. -/
def State.cacheWrite (s : State) : CacheSend → Nat × List Word
  | .writeback k => (s.dirEntryAddr (s.context k).channel, (s.context k).dirEntry.words)
  | .cached c d => (s.dirEntryAddr c, [{ d with cached := true }.word0])
  | .read c => (s.dirEntryAddr c, [])

/-- The words of the first write-back in flight (R60, R162). -/
def State.writebackInFlight (s : State) : List (Nat × List Word) :=
  match s.cache.sends with
  | [] => []
  | w :: _ => afterWords s.landed.writeback [s.cacheWrite w]

/-- The first access in flight of the Channel Cache, a write-back, is taken to its end (R162). -/
def State.writebackTaken (s : State) : State :=
  { s with
    mem := takeWrites s.mem s.writebackInFlight
    landed := { s.landed with writeback := 0 }
    cache := { s.cache with sends := s.cache.sends.tail } }

/-- The write-back of EVICTING context `k` ends: entry d is in DRAM, waiting reads start, the context fills for its new
channel (R52, R56, R60, R61). -/
def State.evictionEnds (s : State) (k : Nat) : State :=
  let written := s.writebackTaken.writebackDone (s.context k).channel
  match s.cache.evictingRequest k with
  | none => (written.takeSends written.cache.sends).modifyContext k (fun _ => Context.initial)
  | some (q, dir) => written.completeLoad q k dir

end Sys2Proof.Machine
end

