-- ==== Sys2Proof/Machine/Teardown.lean ====
section
/-! DEFINITION. The End Show teardown (R15) with the events its steps wait for: the ends of blend jobs and of loads. -/

namespace Sys2Proof.Machine

/-! ## Steps 3 and 4 (R15, R34, R105) -/

/-- The FILLING buckets of a rig's lanes are freed. -/
def Pool.freeLanes (p : Pool) (t : Table Lane) : Pool := t.foldl (fun q e => q.freeOpt e.2.bucket) p

/-- The RETAINED buckets of a list are freed. -/
def Pool.freeEntries (p : Pool) (es : List Entry) : Pool := es.foldl (fun q e => q.free e.bucket) p

/-- Step 3 for one context: its lanes' buckets, then its lists' buckets. -/
def Pool.dropContext (p : Pool) (x : Context) : Pool :=
  (((p.freeLanes x.lanes.rig1).freeLanes x.lanes.rig2).freeEntries x.lists.rig1).freeEntries x.lists.rig2

/-- The context after steps 3 and 4: lanes IDLE, lists empty, LastServed none. -/
def Context.dropped (x : Context) : Context :=
  { x with
    lanes := ⟨Table.map Lane.initial Lane.closed x.lanes.rig1, Table.map Lane.initial Lane.closed x.lanes.rig2⟩
    lists := ⟨[], []⟩
    lastServed := none }

/-- The slot holds its own pins: it is not EMPTY, or it is EMPTY awaiting its record (R81, R99). -/
def Slot.holdsPins (sl : Slot) : Bool := sl.state != .empty || sl.awaitingRecord

/-- The pins of every slot of a ring are dropped. -/
def Pool.unpinRing (p : Pool) (r : Ring) : Pool :=
  r.slots.foldl (fun q e => if e.2.holdsPins then q.unpinMap e.2.map else q) p

/-- The slot after step 4: EMPTY, Outstanding 0, the record as at anchor take (R82, R105). It keeps its block number on chip
(DESIGN CHOICE, log 40: R81 gives a number in ARMED and RUNNING alone). -/
def Slot.emptied (sl : Slot) : Slot := { Slot.initial with block := sl.block }

/-- The ring after step 4: PlayBase keeps its value (R105). -/
def Ring.emptied (r : Ring) : Ring :=
  { playBase := r.playBase, slots := Table.map Slot.initial Slot.emptied r.slots, readerLateReported := false,
    mapFaultReported := false }

/-- The claims of steps 3 and 4: per context the lanes of rig 1, of rig 2 and then its lists, after all contexts every slot,
then LastServed (DESIGN CHOICE, log 36: the spec gives the frees of one step no order); contexts and groups ascending
(log 10). -/
def Pool.dropShow (p : Pool) (contexts : Table Context) (rings : Table Ring) : Pool :=
  let lanesAndLists := contexts.foldl (fun q e => q.dropContext e.2) p
  let slots := rings.foldl (fun q e => q.unpinRing e.2) lanesAndLists
  contexts.foldl (fun q e => q.unpinOpt e.2.lastServed) slots

/-- Steps 3 and 4: lanes, lists, slots and LastServed are dropped, and the slot records rewritten after the Live Directory
writes in flight have landed (R82, R99). -/
def State.dropShow (s : State) : State :=
  { s with
    pool := s.pool.dropShow s.cache.contexts s.resolver.rings
    cache := { s.cache with contexts := Table.map Context.initial Context.dropped s.cache.contexts }
    resolver := { s.resolver with rings := Table.map Ring.initial Ring.emptied s.resolver.rings, writes := [] }
    mem := writeEmptyRecords (takeWrites s.mem (s.resolver.writes.map (fun w => (w.addr, w.words)))) s.liveBase }

/-! ## Step 5 (R15, R67) -/

/-- The teardown's stage. -/
def State.setTeardown (s : State) (t : Option Teardown) : State := { s with sup := { s.sup with teardown := t } }

/-- The write-backs of every VALID context, in ascending context number (R67). -/
def State.writebacks (s : State) : List (Nat × List Word) :=
  s.cache.validContexts.map (fun k => (s.dirEntryAddr (s.context k).channel, (s.context k).dirEntry.words))

/-- Step 5, once no load is in flight: the write-backs are sent, every context is FREE, map and LRU order are empty. R67 does
not say when within step 5 a context becomes FREE: all do as the write-backs are sent (DESIGN CHOICE, log 45). -/
def State.invalidateContexts (s : State) : State :=
  if s.cache.loads.isEmpty then
    { s with cache := { s.cache with contexts := [], channelMap := [], lru := [] } }.setTeardown
      (some (.writingBack s.writebacks))
  else s

/-- The teardown goes on as far as it can: step 2 ends with an empty queue, step 5 begins when no load is in flight. -/
def State.advanceTeardown (s : State) : State :=
  match s.sup.teardown with
  | none => s
  | some .flushing => if s.blend.isEmpty then (s.dropShow.setTeardown (some .waitingLoads)).invalidateContexts else s
  | some .waitingLoads => s.invalidateContexts
  | some (.writingBack _) => s

/-! ## Blend jobs that end (R111, R112, R114, R115) -/

/-- The running job ends during the End Show flush: every pin it still holds is dropped, nothing is reported (R115). -/
def State.flushHead (s : State) (j : BlendJob) : State := (s.dropHead.claim (fun p => p.flushJob j)).advanceTeardown

/-- The last output word of the running job is taken (R111, R115). -/
def State.completeHead (s : State) (j : BlendJob) : State :=
  if s.sup.teardown.isSome then (s.landOutput j).flushHead j
  else (((s.landOutput j).claim (fun p => p.completeJob j)).dropHead).jobCompleted j.group j.block

/-- BLEND_JOB_COMPLETE (R111): the running job is WRITING. -/
def execBlendJobComplete (s : State) : Host.Outcome State Fault Refusal :=
  .next (match s.blend with
    | [] => s
    | j :: _ => if j.phase = .writing then s.completeHead j else s)

/-- A DRAINING job's traffic ends: Unpin on Output and Old, the job leaves the queue (R112, R115). -/
def State.drainHead (s : State) (j : BlendJob) : State := (s.dropHead.claim (fun p => p.drainJob j)).advanceTeardown

/-- BLEND_DRAIN_END (R112): the running job is DRAINING with its inputs read; its discarded output is written to the end
(R108, log 23). -/
def execBlendDrainEnd (s : State) : Host.Outcome State Fault Refusal :=
  .next (match s.blend with
    | [] => s
    | j :: _ => if j.phase = .draining ∧ j.samples.isSome then (s.landOutput j).drainHead j else s)

/-- A read of the running job is answered Error (R114, R115). A job with its samples in hand reads no more. -/
def State.readError (s : State) (j : BlendJob) (input : BlendInput) : State :=
  if j.phase = .reading then
    if s.sup.teardown.isSome then s.flushHead j else s.failJob j input
  else if j.phase = .draining ∧ j.samples.isNone then s.drainHead j
  else s

/-- BLEND_READ_ERROR (R114). -/
def execBlendReadError (input : BlendInput) (s : State) : Host.Outcome State Fault Refusal :=
  .next (match s.blend with
    | [] => s
    | j :: _ => s.readError j input)

/-! ## Loads that end (R57 to R61) -/

/-- CONTEXT_LOAD_READ_DONE: the directory read of a load is answered, not before the Memory Port has taken the write-backs that
the Channel Cache sent ahead of it (R57, R162). -/
def execContextLoadReadDone (channel : Nat) (error : Bool) (s : State) : Host.Outcome State Fault Refusal :=
  .next (match s.cache.answerable channel with
    | none => s
    | some q => (s.loadReadDone q error).advanceTeardown)

/-- EVICTION_WRITEBACK_END: the write-back of an EVICTING context ends, the first in flight (R60, R61, R162). -/
def execEvictionWritebackEnd (context : Nat) (s : State) : Host.Outcome State Fault Refusal :=
  .next (if s.cache.sends.head? = some (.writeback context) then (s.evictionEnds context).advanceTeardown else s)

/-! ## The start of the teardown: End Show is taken (R15, R16, R34, R67, R115) -/

/-- Every QUEUED job leaves the queue and drops its pins, from the head on (DESIGN CHOICE, log 38); the running job stays
(R115). -/
def State.flushQueued (s : State) : State :=
  { s.claim (fun p => (s.blend.filter (fun j => j.phase == .queued)).foldl (fun q j => q.flushJob j) p) with
    blend := s.blend.filter (fun j => j.phase != .queued) }

/-- Rig port `r` goes on in STANDBY with what its queue holds: writes are dropped, reads are answered (R16, R157, R164). -/
def State.drainPort (s : State) (r : Rig) : List RigRequest → State
  | [] => s.setPort r []
  | .read a n :: qs => (s.answerRig r a n).drainPort r qs
  | .write _ :: qs => s.drainPort r qs

/-- No load has a waiting port (R16), and ContextExhaustReported is cleared (R62). -/
def Cache.unwaited (x : Cache) : Cache :=
  { x with loads := x.loads.map (fun q => { q with waiting := ⟨false, false⟩ }), exhaustReported := false }

/-- The writes held for a load and behind one are dropped (R16, R50, log 16). -/
def State.dropHeldWrites (s : State) : State :=
  let t := (s.drainPort .rig1 s.cache.ports.rig1).drainPort .rig2 s.cache.ports.rig2
  { t with cache := t.cache.unwaited }

/-- Steps 1 and 2 and what follows at once (R15). -/
def State.beginTeardown (s : State) : State :=
  ((({ s with part := { s.part with state := .standby, startGuard := false } }.dropHeldWrites).flushQueued).setTeardown
    (some .flushing)).advanceTeardown

/-! ## Steps 6 and 7 (R15, R34, R133, R155) -/

/-- The Group Record after step 7 (R155). -/
def GroupRecord.ended (gr : GroupRecord) : GroupRecord :=
  { gr with hold := false, selectState := .onMain, targetRole := .main, withheldReported := false }

/-- The Health Monitor's state of a group after step 7 (R133). -/
def GroupHealth.ended (h : GroupHealth) : GroupHealth := h.started.adopted

/-- Step 7 for one group. -/
def State.endGroup (s : State) (g : Nat) : State := (s.modifyGroup g GroupRecord.ended).modifyHealth g GroupHealth.ended

/-- The last write-back is taken, the pool is rebuilt, every defined group returns to MAIN, the result is DONE (R15). -/
def State.endTeardown (s : State) (writes : List (Nat × List Word)) : State :=
  let landed := { s with mem := takeWrites s.mem writes }.setTeardown none
  ((s.definedGroups.foldl State.endGroup (landed.claim Pool.rebuild)).setTallies).answerCommand .done []

/-- TEARDOWN_END (R15). -/
def execTeardownEnd (s : State) : Host.Outcome State Fault Refusal :=
  .next (match s.sup.teardown with
    | some (.writingBack ws) => s.endTeardown ws
    | _ => s)

end Sys2Proof.Machine
end

