-- ==== Sys2Proof/Machine/Clock.lean ====
section
/-! DEFINITION. The Clock Monitor and Period Timer (chapter 1): edges, loss, flywheel, period events, the start event. -/

namespace Sys2Proof.Machine

/-! ## Period events (R9, R14) -/

/-- One act of a block at a period event (R9). -/
def State.doWork (s : State) : PeriodWork → State
  | .laneStale c r l => s.laneStale c r l
  | .streamingExpiry c => s.streamingExpiry c
  | .forcedRelease g k => s.forcedRelease g k
  | .blendDeadline => s.blendDeadline
  | .healthWindowClose g => s.healthWindowClose g

/-- The acts the world takes before the resolution of a period event, in their order (log 11). -/
def State.doWorks (s : State) (works : List PeriodWork) : State := works.foldl State.doWork s

/-- Period rises by 1 and the start guard is cleared (R9, R14). -/
def State.raisePeriod (s : State) : State :=
  { s with part := { s.part with period := s.part.period + 1, startGuard := false } }

/-- A period event: the Period rises, the block now due is resolved, the status record is asked for (R9, R86, R177). -/
def State.periodEvent (s : State) (early : List PeriodWork) : State :=
  ((s.raisePeriod.doWorks early).resolve).requestStatus

/-- The start guard withholds a beat less than 0.5 × N after the start event (R14). `n` is N as the beat falls (log 19). -/
def State.withholds (s : State) (n : Nat) : Bool :=
  s.part.startGuard && 2 * (s.timer.now - s.part.startInstant) < n

/-- A beat is delivered: a period event while RUNNING, unless the start guard withholds it (R9, R14). -/
def State.deliverBeat (s : State) (n : Nat) (early : List PeriodWork) : State :=
  if s.part.state = .running then
    if s.withholds n then s else s.periodEvent early
  else s

/-! ## Clock states and notices (R8) -/

/-- The reasons of ClockChange (R181). -/
inductive ClockReason where
  | locked
  | lost
  | relocked
  | stale
  | syncRefused
  deriving DecidableEq, Repr

/-- The code of a reason (R181). -/
def ClockReason.code : ClockReason → Nat
  | .locked => 1
  | .lost => 2
  | .relocked => 3
  | .stale => 4
  | .syncRefused => 5

/-- The Clock Monitor replaced. -/
def State.setClock (s : State) (c : Clock) : State := { s with clock := c }

/-- A ClockChange notice, with N as it stands after the change, 0 when undefined (R8). -/
def State.postClockChange (s : State) (old : ClockState) (why : ClockReason) : State :=
  s.post none none (.clockChange old s.clock.state why.code (s.clock.nominal.getD 0))

/-- The Clock Monitor takes a new state and posts it (R8). -/
def State.changeClock (s : State) (c : Clock) (why : ClockReason) : State :=
  (s.setClock c).postClockChange s.clock.state why

/-- N, 0 while undefined. -/
def Clock.n (c : Clock) : Nat := c.nominal.getD 0

/-! ## Gaining lock (R2) -/

/-- An interval of 500 to 10,000 µs (R2). -/
def intervalOk (i : Nat) : Bool := 12500 ≤ i && i ≤ 250000

/-- The average of 16 intervals, truncated (R2). -/
def average (h : List Nat) : Nat := h.sum / 16

/-- The history complete: LOCKED, with the edge as reference instant (R2). -/
def Clock.lock (c : Clock) (now : Nat) (h : List Nat) : Clock :=
  { c with state := .locked, history := h, nominal := some (average h), reference := some now }

/-- An edge in NO_CLOCK after the first: the interval from `r` ends (R2). -/
def State.collect (s : State) (r : Nat) : State :=
  let now := s.timer.now
  if intervalOk (now - r) then
    let h := s.clock.history ++ [now - r]
    if 16 ≤ h.length then s.changeClock (s.clock.lock now h) .locked
    else s.setClock { s.clock with history := h, reference := some now }
  else s.setClock { s.clock with history := [], reference := some now }

/-- An edge in NO_CLOCK (R2). -/
def State.collectEdge (s : State) : State :=
  match s.clock.reference with
  | none => s.setClock { s.clock with reference := some s.timer.now }
  | some r => s.collect r

/-! ## Flywheel (R5, R6, R7) -/

/-- An acceptance window closes with no accepted edge (R5); outside RUNNING the 16th in a row gives up the schedule (R7). -/
def State.windowClosed (s : State) : State :=
  let empty := if s.clock.emptyWindows < 16 then s.clock.emptyWindows + 1 else 16
  if s.part.state ≠ .running ∧ 16 ≤ empty then s.changeClock Clock.initial .stale
  else s.setClock { s.clock with relock := 0, emptyWindows := empty, openWindow := none }

/-- An accepted edge: the next scheduled beat is N after it (R5); the fourth in a row makes the clock LOCKED (R6). -/
def Clock.accept (c : Clock) (now : Nat) : Clock :=
  if 4 ≤ c.relock + 1 then
    { c with state := .locked, reference := some now, nextBeat := none, openWindow := none, relock := 4, emptyWindows := 0 }
  else { c with nextBeat := some (now + c.n), openWindow := none, relock := c.relock + 1, emptyWindows := 0 }

/-- The Clock Monitor accepts an edge (R5, R6). -/
def State.acceptEdge (s : State) : State :=
  let c := s.clock.accept s.timer.now
  if c.state = .locked then s.changeClock c .relocked else s.setClock c

/-- An edge outside every window: the relock count returns to 0 (R5). -/
def State.rejectEdge (s : State) : State := s.setClock { s.clock with relock := 0 }

/-- The synthesized beat of instant `sb` is delivered; its window stays open and the next beat is scheduled N later (R5). -/
def State.synthesize (s : State) (sb : Nat) (early : List PeriodWork) : State :=
  (s.setClock { s.clock with nextBeat := some (sb + s.clock.n), openWindow := some sb }).deliverBeat s.clock.n early

/-- The window of the beat at `sb` has passed its end, `sb` + 0.25 × N (R5). -/
def State.pastWindow (s : State) (sb : Nat) : Bool := 4 * sb + s.clock.n < 4 * s.timer.now

/-- In FLYWHEEL an open window that is past its end, and whose close was not taken, closes first (log 3). -/
def State.closeOverdueWindow (s : State) : State :=
  match s.clock.openWindow with
  | none => s
  | some sb =>
    if s.timer.refclkStopped = false ∧ s.clock.state = .flywheel ∧ s.pastWindow sb then s.windowClosed else s

/-- An edge measured against the scheduled beat `sb`, which is not yet delivered (R5; a beat overdue is delivered first,
log 3). The edge that locks and is itself the beat posts its Relocked notice before Period rises (DESIGN CHOICE, log 39). -/
def State.edgeAtBeat (s : State) (sb : Nat) (early : List PeriodWork) : State :=
  if 4 * s.timer.now + s.clock.n < 4 * sb then s.rejectEdge
  else if s.timer.now < sb then s.acceptEdge.deliverBeat s.clock.n early
  else if s.pastWindow sb then (s.synthesize sb early).rejectEdge
  else (s.synthesize sb early).acceptEdge

/-- An edge in FLYWHEEL (R5): in the open window it makes no beat, else it is measured against the next scheduled beat. -/
def State.flywheelEdge (s : State) (early : List PeriodWork) : State :=
  match s.clock.openWindow, s.clock.nextBeat with
  | some _, _ => s.acceptEdge
  | none, some sb => s.edgeAtBeat sb early
  | none, none => s.rejectEdge

/-! ## Following the clock (R3, R4) -/

/-- The beat of an edge in LOCKED: the new reference instant, and an interval in range refreshes the history (R3). -/
def Clock.follow (c : Clock) (now interval : Nat) : Clock :=
  if intervalOk interval then
    { c with reference := some now, history := c.history.tail ++ [interval],
             nominal := some (average (c.history.tail ++ [interval])) }
  else { c with reference := some now }

/-- The time since the reference instant. -/
def State.sinceReference (s : State) : Nat := s.timer.now - s.clock.reference.getD 0

/-- The Clock Monitor after a loss of clock (R4). -/
def Clock.lose (c : Clock) : Clock :=
  { c with state := .flywheel, nextBeat := some (c.reference.getD 0 + 2 * c.n), openWindow := none, relock := 0,
           emptyWindows := 0 }

/-- The loss event (R4). -/
def State.loseClock (s : State) (early : List PeriodWork) : State :=
  (s.changeClock s.clock.lose .lost).deliverBeat s.clock.n early

/-- An edge in LOCKED (R3). Later than 1.5 × N the loss is overdue and taken first (R4, log 3). -/
def State.lockedEdge (s : State) (early : List PeriodWork) : State :=
  if 2 * s.sinceReference < s.clock.n then s
  else if 2 * s.sinceReference ≤ 3 * s.clock.n then
    (s.setClock (s.clock.follow s.timer.now s.sinceReference)).deliverBeat s.clock.n early
  else (s.loseClock early).flywheelEdge []

/-! ## The commands of the clock -/

/-- An edge of the block clock that is taken (R2, R3, R5). -/
def State.clockEdge (s : State) (early : List PeriodWork) : State :=
  let t := s.closeOverdueWindow
  match t.clock.state with
  | .noClock => t.collectEdge
  | .locked => t.lockedEdge early
  | .flywheel => t.flywheelEdge early

/-- Local time passes, and a pulse below its minimum width draws a free value (R183, log 6). -/
def State.pulse (s : State) (dt : Nat) (wide : Bool) : State := if wide then s.advance dt else (s.advance dt).drawn

/-- BLOCK_CLOCK_EDGE (R2, R3, R5): not taken while REFCLK is stopped (R183) or the part is held in reset (R182). -/
def execBlockClockEdge (dt : Nat) (wide : Bool) (early : List PeriodWork) (s : State) : Host.Outcome State Fault Refusal :=
  .next (if !s.timer.refclkStopped && s.pulseTaken wide then (s.pulse dt wide).unlessHeld ((s.pulse dt wide).clockEdge early)
    else s.pulse dt wide)

/-- The loss of clock is due (R4). -/
def State.lossDue (s : State) : Bool :=
  !s.timer.refclkStopped && s.clock.state == .locked && 3 * s.clock.n ≤ 2 * s.sinceReference

/-- CLOCK_LOSS (R4). -/
def execClockLoss (dt : Nat) (early : List PeriodWork) (s : State) : Host.Outcome State Fault Refusal :=
  let t := s.advance dt
  .next (if t.lossDue then t.loseClock early else t)

/-- The scheduled beat that is due and not delivered (R5). -/
def State.beatDue (s : State) : Option Nat :=
  if !s.timer.refclkStopped && s.clock.state == .flywheel then
    match s.clock.nextBeat with
    | none => none
    | some sb => if sb ≤ s.timer.now then some sb else none
  else none

/-- SYNTHESIZED_BEAT (R5). -/
def execSynthesizedBeat (dt : Nat) (early : List PeriodWork) (s : State) : Host.Outcome State Fault Refusal :=
  let t := (s.advance dt).closeOverdueWindow
  .next (match t.beatDue with
    | none => t
    | some sb => t.synthesize sb early)

/-- The open window's close is due: S + 0.25 × N, which the window includes (R1), has passed (R5, log 41). -/
def State.windowCloseDueNow (s : State) : Bool :=
  !s.timer.refclkStopped && s.clock.state == .flywheel &&
    (match s.clock.openWindow with | none => false | some sb => s.pastWindow sb)

/-- ACCEPTANCE_WINDOW_CLOSE (R5, R7). -/
def execAcceptanceWindowClose (dt : Nat) (s : State) : Host.Outcome State Fault Refusal :=
  let t := s.advance dt
  .next (if t.windowCloseDueNow then t.windowClosed else t)

/-! ## The start of the show (R13) -/

/-- The part state, the guard and the instant of the start event (R13, R14). -/
def State.startRunning (s : State) : State :=
  { s with part := { s.part with state := .running, startGuard := true, startInstant := s.timer.now } }

/-- The first window of every defined group begins (R120). -/
def State.beginWindows (s : State) : State :=
  s.definedGroups.foldl (fun t g => t.modifyHealth g (fun h => h.firstWindow s.part.startBlock)) s

/-- The start event (R13): the first windows, ResolveLead + 1 resolutions, ShowStarted, the status record. R13 gives these
acts no order: ShowStarted joins the queue behind the notices the resolutions bring, and the status snapshot is taken last
(DESIGN CHOICE, log 44). -/
def State.startShow (s : State) : State :=
  let resolved := s.startRunning.beginWindows.resolveMany (s.resolver.resolveLead + 1)
  (resolved.post none none (.showStarted s.part.startBlock s.clock.n)).requestStatus

/-- A rising edge of Show Sync that is taken (R13). -/
def State.syncEdge (s : State) : State :=
  if s.part.state = .armed then
    if s.clock.state = .locked then s.startShow else s.postClockChange s.clock.state .syncRefused
  else s

/-- SHOW_SYNC (R13): not taken while the part is held in reset (R182). -/
def execShowSync (dt : Nat) (wide : Bool) (s : State) : Host.Outcome State Fault Refusal :=
  .next (if s.pulseTaken wide then (s.pulse dt wide).unlessHeld (s.pulse dt wide).syncEdge else s.pulse dt wide)

/-! ## The reference clock (R183) -/

/-- REFCLK_STOP (R183): the steps made before the stop are held for the next timed command; in a stop nothing changes. -/
def execRefclkStop (s : State) : Host.Outcome State Fault Refusal :=
  .next (if s.timer.refclkStopped then s
    else { s with timer := { s.timer with refclkStopped := true, heldCounted := false } })

/-- REFCLK_RESUME (R183): every count goes on from where it was held. -/
def execRefclkResume (s : State) : Host.Outcome State Fault Refusal :=
  .next { s with timer := { s.timer with refclkStopped := false, heldCounted := false } }

end Sys2Proof.Machine
end

