-- ==== Sys2Proof/Machine/Supervisor.lean ====
section
/-! DEFINITION. The Supervisor Interface (chapter 11) without the commands it executes: Go, anchor take, Command Unit,
Notice Unit, Status Writer. -/

namespace Sys2Proof.Machine

/-! ## The Go event (R11, R167) -/

/-- The Supervisor Interface changed. -/
def State.modifySup (s : State) (f : Supervisor → Supervisor) : State := { s with sup := f s.sup }

/-- A word of the anchor is written by the part: Anchor Result, word 1 (R11, R165, R166). -/
def State.writeAnchorResult (s : State) (r : ResultCode) : State := { s with mem := writeWord s.mem 4 (word r.code) }

/-- An anchor take may not start yet: a command in hand or a teardown (R11, R167), a status write (R177) or a notice write
(R167) runs (log 13). -/
def State.takeBlocked (s : State) : Bool :=
  s.sup.command.phase != .idle || s.sup.teardown.isSome || s.sup.status.writing.isSome || s.notices.writing

/-- An anchor take starts: the anchor words are read (R165). -/
def State.startTake (s : State) : State := s.modifySup (fun u => { u with take := some .reading, goPending := false })

/-- The Go event (R11): started, left waiting, or answered WRONG_STATE. -/
def State.goEvent (s : State) : State :=
  if s.part.state = .armed ∨ s.part.state = .running then s.writeAnchorResult .wrongState
  else if s.sup.take.isSome ∨ s.sup.goPending then s
  else if s.takeBlocked then s.modifySup (fun u => { u with goPending := true })
  else s.startTake

/-- The Command Unit begins to fetch entry Next if Target stands and the unit is IDLE (R167, R168). -/
def CommandUnit.resumed (u : CommandUnit) : CommandUnit :=
  if u.phase = .idle ∧ u.target.isSome then { u with phase := .fetching } else u

/-- A Go event that waited is taken by the part state as it now stands (R11, log 13). -/
def State.deferredGo (s : State) : State :=
  if s.part.state = .armed ∨ s.part.state = .running then
    ((s.modifySup (fun u => { u with goPending := false })).writeAnchorResult .wrongState).modifyCommand CommandUnit.resumed
  else s.startTake

/-- DEFERRED_GO (R11, R167). -/
def execDeferredGo (s : State) : Host.Outcome State Fault Refusal :=
  .next (if s.sup.goPending && !s.takeBlocked then s.deferredGo else s)

/-! ## The anchor take (R165, R166) -/

/-- The follow-up of the Status Writer begins, to the StatusBase of the anchor copy (R177). -/
def State.beginFollowUp (s : State) : State :=
  match s.sup.anchor with
  | none => s
  | some a => if s.sup.status.followUp then s.beginStatus a.statusBase else s

/-- A failed take: Anchor Result BAD_ANCHOR and nothing else changes; a kick that stands is fetched (R165, R167), a
follow-up begins (R177). -/
def State.failTake (s : State) : State :=
  (((s.writeAnchorResult .badAnchor).modifySup (fun u => { u with take := none })).modifyCommand
    CommandUnit.resumed).beginFollowUp

/-- The new pool (R33). -/
def Pool.build (a : Anchor) : Pool :=
  { base := a.poolBase, buckets := a.poolBuckets, table := [], freeList := List.range' 1 (a.poolBuckets - 1),
    quota := ⟨defaultQuota a.poolBuckets, defaultQuota a.poolBuckets⟩, commonGuard := 128,
    exhaustReported := ⟨false, false⟩ }

/-- The Channel Cache at anchor take, with Horizon 32 (R67, R172). -/
def Cache.taken : Cache := { Cache.initial with expectSpan := 32, horizon := 32 }

/-- The Slot Resolver at anchor take (R105). -/
def Resolver.taken : Resolver := { Resolver.initial with resolveLead := 4, releaseGrace := 2 }

/-- A take whose checks pass initialises the part: steps 1 to 5 of R166. The writes it sends are taken by the time the take
ends (log 9). CoalesceCount and CoalesceTime take their defaults in this step, and the count test is not made on the ring of
before (DESIGN CHOICE, log 48: R176 and R172 give no instant within the take). -/
def State.initialise (s : State) (a : Anchor) : State :=
  { s with
    pool := Pool.build a
    cache := Cache.taken
    resolver := Resolver.taken
    blend := []
    health := []
    groups := []
    lines := { s.lines with tallyMain := false, tallyBackup := false }
    landed := .none
    sup := { s.sup with take := some (.initialising a), locked := false, port1Role := .main }
    notices := { s.notices with coalesceCount := 8, coalesceTime := 20 } }

/-- The anchor words are read and checked (R165): all nine as DRAM holds them at the row of the answer (DESIGN CHOICE,
log 57: R162 leaves open how the words of one read fall among the writes of other requesters). -/
def State.anchorRead (s : State) (error : Bool) : State :=
  if error || !(readAnchor s.mem).ok s.lines.dramSize then s.failTake else s.initialise (readAnchor s.mem)

/-- ANCHOR_READ_DONE (R165). -/
def execAnchorReadDone (error : Bool) (s : State) : Host.Outcome State Fault Refusal :=
  .next (if s.sup.take = some .reading then s.anchorRead error else s)

/-- Of the writes of an anchor take, the Zero Bucket (R18), the 768 directory entries, whose words are all 0 (R52), and the
128 slot records (R82), the next `z`, `d` and `l` words are taken after those that `x` counts, upward from each base (DESIGN
CHOICE, log 51: the rules give the words of a region no order). -/
def landTake (m : Memory) (a : Anchor) (x : Landed) (z d l : Nat) : Memory :=
  writeEmptyRange
    (zeroFill (zeroFill m (a.poolBase + 4 * x.zeroBucket) (4 * min z (128 - x.zeroBucket)))
      (a.channelDirectoryBase + 4 * x.directory) (4 * min d (6144 - x.directory)))
    a.liveDirectoryBase x.liveDirectory (min (x.liveDirectory + l) 131072)

/-- The words taken of the three regions of an anchor take. -/
def Landed.withTake (x : Landed) (z d l : Nat) : Landed := { x with zeroBucket := z, directory := d, liveDirectory := l }

/-- The Notice Unit at the end of a take: the whole ring of `n` entries is handed (R174, R175). -/
def NoticeUnit.taken (u : NoticeUnit) (n : Nat) : NoticeUnit :=
  { NoticeUnit.initial with
    lastHanded := n - 1, available := n, coalesceCount := u.coalesceCount, coalesceTime := u.coalesceTime }

/-- The take ends with DONE (R166). -/
def State.endTake (s : State) (a : Anchor) : State :=
  ({ s with
      mem := writeWord (landTake s.mem a s.landed 128 6144 131072) 4 (word ResultCode.done.code)
      landed := s.landed.withTake 0 0 0
      part := { s.part with state := .standby, period := 0, startBlock := 0, startGuard := false }
      lines := { s.lines with interrupt := false }
      notices := s.notices.taken a.noticeRingEntries
      sup := { s.sup with anchor := some a, take := none, command := CommandUnit.initial } }).requestStatus

/-- ANCHOR_TAKE_END (R166). -/
def execAnchorTakeEnd (s : State) : Host.Outcome State Fault Refusal :=
  .next (match s.sup.take with
    | some (.initialising a) => s.endTake a
    | _ => s)

/-! ## The Command Unit (R168 to R170) -/

/-- CommandRingEntries; 0 while there is no ring. -/
def State.commandEntries (s : State) : Nat :=
  match s.sup.anchor with
  | none => 0
  | some a => a.commandRingEntries

/-- The byte address of command entry `i`. -/
def State.entryAddr (s : State) (i : Nat) : Nat :=
  match s.sup.anchor with
  | none => 0
  | some a => a.entryAddr i

/-- The reasons of RingFault (R181). -/
inductive RingReason where
  | kickRange
  | fetchError
  | ownClear
  | returnRange
  | returnOverlap
  deriving DecidableEq, Repr

/-- The code of a reason (R181). -/
def RingReason.code : RingReason → Nat
  | .kickRange => 1
  | .fetchError => 2
  | .ownClear => 3
  | .returnRange => 4
  | .returnOverlap => 5

/-- One RingFault is posted (R168, R169, R174). -/
def State.postRingFault (s : State) (why : RingReason) (value : Nat) : State :=
  s.post none none (.ringFault why.code value)

/-- Target becomes `k`; from IDLE the unit begins to fetch, unless a take runs or a Go waits (R167, R168, log 13). -/
def CommandUnit.kicked (u : CommandUnit) (k : Nat) (mayFetch : Bool) : CommandUnit :=
  if u.phase = .idle ∧ mayFetch then { u with target := some k, phase := .fetching } else { u with target := some k }

/-- The kick names the entry just before Next with nothing to do (R168). -/
def CommandUnit.ignoresKick (u : CommandUnit) (k n : Nat) : Bool :=
  u.phase == .idle && u.target.isNone && k == (u.next + n - 1) % n

/-- A whole-word write of `k` to Command Kick (R168). -/
def State.kick (s : State) (k : Nat) : State :=
  if s.commandEntries ≤ k then s.postRingFault .kickRange k
  else if s.sup.command.ignoresKick k s.commandEntries then s
  else s.modifyCommand (fun u => u.kicked k (s.sup.take.isNone && !s.sup.goPending))

/-- Processing stops at the entry: Target none, Phase IDLE, Next stays (R169). -/
def CommandUnit.stopped (u : CommandUnit) : CommandUnit := { u with target := none, phase := .idle }

/-- Processing stops with a RingFault that carries the entry's index (R169). -/
def State.stopFetch (s : State) (why : RingReason) : State :=
  (s.postRingFault why s.sup.command.next).modifyCommand CommandUnit.stopped

/-- The ten entry words as DRAM holds them (R169), all at the row of the answer (DESIGN CHOICE, log 57: R162 leaves open
how the words of one read fall among the writes of other requesters). -/
def State.fetchedWords (s : State) : List Word := readWords s.mem (s.entryAddr s.sup.command.next) 10

/-- OWN set: the command is executed (R169). -/
def CommandUnit.beginEntry (u : CommandUnit) (words : List Word) : CommandUnit :=
  { u with phase := .executing, entry := words, directoryWait := .none }

/-- The fetch is answered (R169). -/
def State.fetchDone (s : State) (error : Bool) : State :=
  if error then s.stopFetch .fetchError
  else if ownSet (s.fetchedWords.getD 0 0) then s.modifyCommand (fun u => u.beginEntry s.fetchedWords)
  else s.stopFetch .ownClear

/-- COMMAND_FETCH_DONE (R169). -/
def execCommandFetchDone (error : Bool) (s : State) : Host.Outcome State Fault Refusal :=
  .next (if s.sup.command.phase = .fetching then s.fetchDone error else s)

/-- The writes of a result, in the order sent: Result, result data when DONE or NO_CONTEXT, word 0 (R170). -/
def CommandUnit.resultWrites (u : CommandUnit) (addr : Nat) : List (Nat × List Word) :=
  [(addr + 40, [Sys2Proof.Machine.word u.result.code])]
    ++ (if u.result = .done ∨ u.result = .noContext then [(addr + 44, u.resultData)] else [])
    ++ [(addr, [u.word0Back])]

/-- CommandDone, if Notify was set (R170). -/
def State.postCommandDone (s : State) : State :=
  let u := s.sup.command
  if u.notify then s.post none none (.commandDone u.next u.kind u.groupField u.result) else s

/-- Next, Target and Phase once the entry is finished: the unit stops at Target, else fetches the new Next, unless a Go waits
(R167, R170). -/
def CommandUnit.finished (u : CommandUnit) (n : Nat) (goPending : Bool) : CommandUnit :=
  if u.target = some u.next then { u with next := (u.next + 1) % n, target := none, phase := .idle }
  else { u with
    next := (u.next + 1) % n
    phase := if u.target.isSome && !goPending then .fetching else .idle }

/-- The words of the result in flight (R162, R170). -/
def State.resultInFlight (s : State) : List (Nat × List Word) :=
  if s.sup.command.phase = .writing then
    afterWords s.landed.result (s.sup.command.resultWrites (s.entryAddr s.sup.command.next))
  else []

/-- The Memory Port has taken word 0: the entry is finished (R170). -/
def State.resultWritten (s : State) : State :=
  let landed := { s with mem := takeWrites s.mem s.resultInFlight, landed := { s.landed with result := 0 } }
  (landed.postCommandDone.requestStatus).modifyCommand (fun u => u.finished s.commandEntries s.sup.goPending)

/-- COMMAND_RESULT_WRITTEN (R170). -/
def execCommandResultWritten (s : State) : Host.Outcome State Fault Refusal :=
  .next (if s.sup.command.phase = .writing then s.resultWritten else s)

/-! ## The Notice Unit (R174 to R176) -/

/-- The entries a return of `k` hands back, in a ring of `n` (R174). -/
def NoticeUnit.returnCount (u : NoticeUnit) (k n : Nat) : Nat := (k + n - u.lastHanded) % n

/-- A return that is taken (R174). -/
def NoticeUnit.returned (u : NoticeUnit) (k n : Nat) : NoticeUnit :=
  { u with available := u.available + u.returnCount k n, lastHanded := k }

/-- A whole-word write of `k` to Notice Return (R174, R176). -/
def State.noticeReturn (s : State) (k : Nat) : State :=
  if s.noticeEntries ≤ k then s.postRingFault .returnRange k
  else if s.notices.returnCount k s.noticeEntries = 0 then s
  else if s.unreturned < s.notices.returnCount k s.noticeEntries then s.postRingFault .returnOverlap k
  else { s with notices := s.notices.returned k s.noticeEntries }.deassertIfReturned

/-- The Notice Unit may begin a write: a notice waits, an entry is available, no take runs (R175). -/
def State.noticeReady (s : State) : Bool :=
  !s.notices.writing && !s.notices.queue.isEmpty && 0 < s.notices.available && s.sup.take.isNone && s.sup.anchor.isSome

/-- NOTICE_WRITE_BEGIN (R175). -/
def execNoticeWriteBegin (s : State) : Host.Outcome State Fault Refusal :=
  .next (if s.noticeReady then { s with notices := { s.notices with writing := true } } else s)

/-- The writes of the oldest pending notice into entry WriteIndex; none while no notice is being written (R175). -/
def State.noticeWrites (s : State) : List (Nat × List Word) :=
  match s.sup.anchor, s.notices.queue with
  | some a, n :: _ => if s.notices.writing then n.writes (a.noticeRingBase + s.notices.writeIndex * 32) else []
  | _, _ => []

/-- The words of the notice in flight (R162). -/
def State.noticeInFlight (s : State) : List (Nat × List Word) := afterWords s.landed.notice s.noticeWrites

/-- The notice leaves the queue: write time, WriteIndex, Available (R175). -/
def NoticeUnit.written (u : NoticeUnit) (n ms : Nat) : NoticeUnit :=
  { u with
    queue := u.queue.tail
    writing := false
    writeTimes := Table.set 0 u.writeTimes u.writeIndex ms
    writeIndex := (u.writeIndex + 1) % n
    available := u.available - 1 }

/-- The OWN word of a notice is taken (R175), and the count test of R176 is made. -/
def State.noticeWritten (s : State) : State :=
  let t := { s with
    mem := takeWrites s.mem s.noticeInFlight
    landed := { s.landed with notice := 0 }
    notices := s.notices.written s.noticeEntries s.milliseconds }
  t.assertInterrupt t.countDue

/-- NOTICE_WRITE_END (R175, R176). -/
def execNoticeWriteEnd (dt : Nat) (s : State) : Host.Outcome State Fault Refusal :=
  let t := s.advance dt
  .next (if t.notices.writing then t.noticeWritten else t)

/-- COALESCE_TIMEOUT: the time test of R176, made by the local timer while REFCLK runs (R183). -/
def execCoalesceTimeout (dt : Nat) (s : State) : Host.Outcome State Fault Refusal :=
  let t := s.advance dt
  .next (t.assertInterrupt (t.timeDue && !t.timer.refclkStopped))

/-! ## The Status Writer (R177) -/

/-- A Go waits, and only the status or the notice write in hand keeps its take from starting (R177, log 13). -/
def State.goReady (s : State) : Bool :=
  s.sup.goPending && s.sup.command.phase == .idle && s.sup.teardown.isNone && s.part.state != .armed
    && s.part.state != .running

/-- The status record is in DRAM; a follow-up begins unless a take runs or is to start (R177). -/
def State.statusWritten (s : State) (w : StatusWrite) : State :=
  let t := { s with mem := writeWords s.mem w.base w.words }.modifySup
    (fun u => { u with status := { u.status with writing := none } })
  if t.sup.take.isSome || t.goReady then t else t.beginFollowUp

/-- STATUS_WRITE_END (R177). -/
def execStatusWriteEnd (s : State) : Host.Outcome State Fault Refusal :=
  .next (match s.sup.status.writing with
    | none => s
    | some w => s.statusWritten w)

end Sys2Proof.Machine
end

