-- ==== Sys2Proof/Machine/Commands.lean ====
section
/-! DEFINITION. The commands of the command ring (R171), executed on the entry in hand. -/

namespace Sys2Proof.Machine

/-! ## The entry in hand -/

/-- The Command Unit executes an entry that has not been acted on yet: Phase EXECUTING, no directory read and no teardown
under way (log 17). -/
def State.executing (s : State) : Bool :=
  s.sup.command.phase == .executing && s.sup.command.directoryWait == .none && s.sup.teardown.isNone

/-- The entry in hand has Kind `k` (R179, log 17). -/
def State.hand (s : State) (k : Nat) : Bool := s.executing && s.sup.command.kind == k

/-- Word `i` of the entry in hand. -/
def State.cmdWord (s : State) (i : Nat) : Word := s.sup.command.word i

/-- The Group field of the entry in hand. -/
def State.cmdGroup (s : State) : Nat := s.sup.command.groupField

/-- The channel of the entry in hand: word 1. -/
def State.cmdChannel (s : State) : Nat := (s.cmdWord 1).toNat

/-- The command is refused: it changes nothing but its entry (R170). -/
def State.refuse (s : State) (r : ResultCode) : State := s.answerCommand r []

/-- A flag that is given a byte is 0 or 1 (R179). -/
def flagOk (n : Nat) : Bool := n ≤ 1

/-- UNKNOWN_COMMAND: a Kind that is not in the table of R179 (R171). -/
def execUnknownCommand (s : State) : Host.Outcome State Fault Refusal :=
  .next (if s.executing && (s.sup.command.kind == 0 || 14 < s.sup.command.kind) then s.refuse .unknownCommand else s)

/-! ## Configure Bridge (R172) -/

/-- The settings of Configure Bridge. -/
structure BridgeSettings where
  port1Role : Role
  quota1 : Nat
  quota2 : Nat
  commonGuard : Nat
  horizon : Nat
  resolveLead : Nat
  releaseGrace : Nat
  expectSpan : Nat
  coalesceCount : Nat
  coalesceTime : Nat
  deriving DecidableEq, Repr

/-- The Default column of R172. -/
def BridgeSettings.defaults (buckets : Nat) : BridgeSettings :=
  { port1Role := .main, quota1 := defaultQuota buckets, quota2 := defaultQuota buckets, commonGuard := 128, horizon := 32,
    resolveLead := 4, releaseGrace := 2, expectSpan := 32, coalesceCount := 8, coalesceTime := 20 }

/-- The settings the entry's words give (R180). -/
def CommandUnit.bridgeSettings (u : CommandUnit) : BridgeSettings :=
  { port1Role := if byteOf (u.word 2) 0 = 0 then .main else .backup
    quota1 := (u.word 3).toNat
    quota2 := (u.word 4).toNat
    commonGuard := (u.word 5).toNat
    horizon := byteOf (u.word 6) 0
    resolveLead := byteOf (u.word 6) 1
    releaseGrace := byteOf (u.word 6) 2
    expectSpan := (u.word 7).toNat
    coalesceCount := lowHalf (u.word 8)
    coalesceTime := highHalf (u.word 8) }

/-- Every value lies in its range, and the quotas leave room for the Blend Reserve (R172, R24). -/
def BridgeSettings.ok (b : BridgeSettings) (buckets : Nat) : Bool :=
  b.quota1 ≤ buckets - 65 && b.quota2 ≤ buckets - 65 && b.quota1 + b.quota2 ≤ buckets - 65 && b.commonGuard ≤ 65535
    && 20 ≤ b.horizon && b.horizon ≤ 48 && 1 ≤ b.resolveLead && b.resolveLead ≤ 12 && 1 ≤ b.releaseGrace
    && b.releaseGrace ≤ 3 && 4 ≤ b.expectSpan && b.expectSpan ≤ 255 && 1 ≤ b.coalesceCount && b.coalesceCount ≤ 64
    && b.coalesceTime ≤ 1000

/-- The Defaults byte of Configure Bridge. -/
def CommandUnit.bridgeDefaults (u : CommandUnit) : Nat := byteOf (u.word 2) 3

/-- Step 3 of R172's order: the parameters are in range. -/
def CommandUnit.bridgeOk (u : CommandUnit) (buckets : Nat) : Bool :=
  flagOk u.bridgeDefaults
    && (u.bridgeDefaults == 1 || (flagOk (byteOf (u.word 2) 0) && u.bridgeSettings.ok buckets))

/-- The settings a taken Configure Bridge sets. -/
def CommandUnit.bridgeChosen (u : CommandUnit) (buckets : Nat) : BridgeSettings :=
  if u.bridgeDefaults = 1 then BridgeSettings.defaults buckets else u.bridgeSettings

/-- Every setting is taken by its owner at once, and the interrupt tests are made with the new values (R172, R176). -/
def State.configure (s : State) (b : BridgeSettings) : State :=
  let t : State := { s with
    pool := { s.pool with quota := ⟨b.quota1, b.quota2⟩, commonGuard := b.commonGuard }
    cache := { s.cache with horizon := b.horizon, expectSpan := b.expectSpan }
    resolver := { s.resolver with resolveLead := b.resolveLead, releaseGrace := b.releaseGrace }
    sup := { s.sup with port1Role := b.port1Role }
    notices := { s.notices with coalesceCount := b.coalesceCount, coalesceTime := b.coalesceTime } }
  t.assertInterrupt (t.countDue || t.timeDue)

/-- Configure Bridge decided in the order of R172. -/
def State.configureBridge (s : State) : State :=
  let u := s.sup.command
  if s.sup.locked then s.refuse .locked
  else if s.part.state ≠ .standby then s.refuse .wrongState
  else if !u.bridgeOk s.pool.buckets then s.refuse .badParameter
  else
    let t := s.configure (u.bridgeChosen s.pool.buckets)
    t.answerCommand .done [word t.pool.quota.rig1, word t.pool.quota.rig2, word t.pool.commonSize]

/-- CONFIGURE_BRIDGE (R172). -/
def execConfigureBridge (s : State) : Host.Outcome State Fault Refusal := .next (if s.hand 1 then s.configureBridge else s)

/-! ## Define Group (R135) -/

/-- The Group Record Define Group writes from the entry's words, or from the Defaults column (R135, 9.1). -/
def CommandUnit.groupRecord (u : CommandUnit) : GroupRecord :=
  if byteOf (u.word 4) 3 = 1 then { GroupRecord.initial with defined := true, repeatLimit := 2 }
  else
    { GroupRecord.initial with
      defined := true
      linkSet := byteOf (u.word 2) 0
      fadeLength := byteOf (u.word 2) 1
      fillMode := if byteOf (u.word 3) 0 = 1 then .repeatLast else .silence
      repeatLimit := byteOf (u.word 3) 1
      patch := byteOf (u.word 4) 0 == 1
      autoReturn := byteOf (u.word 4) 1 == 1
      followLine := byteOf (u.word 4) 2 == 1 }

/-- Step 4 of R135: the fields are in range. -/
def CommandUnit.groupOk (u : CommandUnit) : Bool :=
  flagOk (byteOf (u.word 4) 3) && (byteOf (u.word 4) 3 == 1
    || (byteOf (u.word 2) 0 ≤ 4 && byteOf (u.word 2) 1 ≤ 16 && flagOk (byteOf (u.word 3) 0) && byteOf (u.word 3) 1 ≤ 8
        && flagOk (byteOf (u.word 4) 0) && flagOk (byteOf (u.word 4) 1) && flagOk (byteOf (u.word 4) 2)))

/-- A taken Define Group: record, health, ring, evaluation, tallies (R131, R135, R140, R153). Every slot carries block 0 until
Arm Show (DESIGN CHOICE, log 40: R81 gives a number in ARMED and RUNNING alone). -/
def State.defineGroup (s : State) (g : Nat) (gr : GroupRecord) : State :=
  ((((s.modifyGroup g (fun _ => gr)).modifyHealth g
    (fun _ => { GroupHealth.initial with settings := HealthSettings.defaults })).modifyRing g
    (fun _ => Ring.initial)).evaluate g).setTallies

/-- Define Group decided in the order of R135. -/
def State.defineGroupCommand (s : State) : State :=
  if s.sup.locked then s.refuse .locked
  else if s.part.state ≠ .standby then s.refuse .wrongState
  else if 7 < s.cmdGroup then s.refuse .badParameter
  else if !s.sup.command.groupOk then s.refuse .badParameter
  else
    (s.defineGroup s.cmdGroup s.sup.command.groupRecord).answerCommand .done [word (flag (s.group s.cmdGroup).defined)]

/-- DEFINE_GROUP (R135). -/
def execDefineGroup (s : State) : Host.Outcome State Fault Refusal := .next (if s.hand 2 then s.defineGroupCommand else s)

/-! ## Set Thresholds (R129, R130) -/

/-- The settings the entry's words give (R129, R180). -/
def CommandUnit.thresholds (u : CommandUnit) : HealthSettings :=
  { windowLength := lowHalf (u.word 2), report := highHalf (u.word 2) == 1
    maxDamaged := lowHalf (u.word 3), maxOffTime := highHalf (u.word 3)
    maxRepeats := lowHalf (u.word 4), maxMisses := highHalf (u.word 4)
    maxCommonDraws := lowHalf (u.word 5), maxDisagree := highHalf (u.word 5)
    leadFloor := byteOf (u.word 6) 0, missTrip := byteOf (u.word 6) 1
    failAfter := byteOf (u.word 7) 0, soundAfter := byteOf (u.word 7) 1
    divergeAfter := byteOf (u.word 7) 2, agreeAfter := byteOf (u.word 7) 3 }

/-- A persistence count of 1 to 15 (R128). -/
def persistenceOk (n : Nat) : Bool := 1 ≤ n && n ≤ 15

/-- Step 3 of R129: every value in the range of the table of R128. -/
def CommandUnit.thresholdsOk (u : CommandUnit) : Bool :=
  let t := u.thresholds
  8 ≤ t.windowLength && t.windowLength ≤ 1024 && flagOk (highHalf (u.word 2)) && t.leadFloor ≤ 48
    && persistenceOk t.failAfter && persistenceOk t.soundAfter && persistenceOk t.divergeAfter && persistenceOk t.agreeAfter

/-- The groups a Group field names: one, or every defined group for 255 (R129). -/
def State.namedGroups (s : State) (field : Nat) : List Nat := if field = 255 then s.definedGroups else [field]

/-- The Group field names a defined group, or 255 with some group defined (R129). -/
def State.groupsOk (s : State) (field : Nat) : Bool :=
  if field = 255 then !s.definedGroups.isEmpty else field ≤ 7 && (s.group field).defined

/-- A group adopts a set at once, or holds it pending while RUNNING (R130). -/
def GroupHealth.take (h : GroupHealth) (st : HealthSettings) (running : Bool) : GroupHealth :=
  if running then { h with pendingSettings := some st } else { h with settings := st }

/-- Set Thresholds decided in the order of R129. -/
def State.setThresholds (s : State) : State :=
  let u := s.sup.command
  let running := s.part.state == .running
  if s.sup.locked then s.refuse .locked
  else if !s.groupsOk s.cmdGroup then s.refuse .badParameter
  else if !u.thresholdsOk then s.refuse .badParameter
  else
    ((s.namedGroups s.cmdGroup).foldl (fun t g => t.modifyHealth g (fun h => h.take u.thresholds running)) s).answerCommand
      .done [word (s.namedGroups s.cmdGroup).length, word (flag running)]

/-- SET_THRESHOLDS (R129). -/
def execSetThresholds (s : State) : Host.Outcome State Fault Refusal := .next (if s.hand 3 then s.setThresholds else s)

/-! ## Commands on channels (R64 to R66) -/

/-- The command waits for a directory read (R64, R66). -/
def State.awaitDirectory (s : State) (w : DirectoryWait) : State := s.modifyCommand (fun u => { u with directoryWait := w })

/-- Define Channel decided in the order of R64, up to the directory read. -/
def State.defineChannel (s : State) : State :=
  if s.sup.locked then s.refuse .locked
  else if s.part.state ≠ .standby then s.refuse .wrongState
  else if 767 < s.cmdChannel ∨ 7 < s.cmdGroup ∨ 1 < (s.cmdWord 2).toNat then s.refuse .badParameter
  else if (s.group s.cmdGroup).defined = false then s.refuse .badParameter
  else s.awaitDirectory .read

/-- DEFINE_CHANNEL (R64). -/
def execDefineChannel (s : State) : Host.Outcome State Fault Refusal := .next (if s.hand 4 then s.defineChannel else s)

/-- Undefine Channel (R65). -/
def State.undefineChannel (s : State) : State :=
  if s.sup.locked then s.refuse .locked
  else if s.part.state ≠ .standby then s.refuse .wrongState
  else if 767 < s.cmdChannel then s.refuse .badParameter
  else (s.writeDirEntry s.cmdChannel DirEntry.undefined).answerCommand .done []

/-- UNDEFINE_CHANNEL (R65). -/
def execUndefineChannel (s : State) : Host.Outcome State Fault Refusal := .next (if s.hand 5 then s.undefineChannel else s)

/-- Result data word 11 of Read Context (R180). -/
def channelWord (channel group : Nat) (kind : ChannelKind) (streaming defined : Bool) : Word :=
  packHalves channel (group % 256 + 256 * (kind.code + 2 * flag streaming + 4 * flag defined))

/-- The states of a rig's four lanes, 2 bits each (R180). -/
def Context.laneBits (x : Context) (r : Rig) : Nat :=
  (x.lane r 0).state.code + 4 * (x.lane r 1).state.code + 16 * (x.lane r 2).state.code + 64 * (x.lane r 3).state.code

/-- The result data of Read Context from a VALID context (R66, R180). The channel of a VALID context is defined (log 25). -/
def Context.report (x : Context) : List Word :=
  [channelWord x.channel x.group x.kind x.streaming true,
   packBytes x.lists.rig1.length x.lists.rig2.length (x.laneBits .rig1) (x.laneBits .rig2),
   packHalves x.accepted.rig1 x.accepted.rig2, packHalves x.damaged.rig1 x.damaged.rig2, 0]

/-- The result data of Read Context from the directory (R66, R180). -/
def DirEntry.report (d : DirEntry) (channel : Nat) : List Word :=
  [channelWord channel d.group d.kind false d.defined, 0, packHalves d.accepted.rig1 d.accepted.rig2,
   packHalves d.damaged.rig1 d.damaged.rig2, 0]

/-- Read Context decided as R66 states, up to the directory read. -/
def State.readContext (s : State) : State :=
  if 767 < s.cmdChannel then s.refuse .badParameter
  else
    match s.cache.mapEntry s.cmdChannel with
    | some k => s.answerCommand .done (s.context k).report
    | none => s.awaitDirectory (if s.cache.evicting s.cmdChannel then .writeback else .read)

/-- READ_CONTEXT (R66). -/
def execReadContext (s : State) : Host.Outcome State Fault Refusal := .next (if s.hand 6 then s.readContext else s)

/-- The entry a taken Define Channel writes over `old` (R52, R64). -/
def DirEntry.redefined (old : DirEntry) (group : Nat) (kind : ChannelKind) : DirEntry :=
  { defined := true, cached := false, kind := kind, group := group,
    accepted := if old.defined then old.accepted else ⟨0, 0⟩
    damaged := if old.defined then old.damaged else ⟨0, 0⟩ }

/-- The kind the entry's word 2 names (R64). -/
def State.cmdKind (s : State) : ChannelKind := if s.cmdWord 2 = 1 then .data else .audio

/-- Define Channel after its directory read (R64). -/
def State.finishDefineChannel (s : State) : State :=
  let old := s.dirEntry s.cmdChannel
  (s.writeDirEntry s.cmdChannel (old.redefined s.cmdGroup s.cmdKind)).answerCommand .done [word (flag old.defined)]

/-- The directory read of the command in hand is answered (R64, R66), with the whole entry as it stands at the row of the
answer (DESIGN CHOICE, log 57: R162 leaves open how the words of one read fall among the writes of other requesters). -/
def State.commandDirectoryRead (s : State) (error : Bool) : State :=
  if error then s.refuse .memoryFault
  else if s.sup.command.kind = 4 then s.finishDefineChannel
  else s.answerCommand .noContext ((s.dirEntry s.cmdChannel).report s.cmdChannel)

/-- COMMAND_DIRECTORY_READ_DONE (R64, R66). -/
def execCommandDirectoryReadDone (error : Bool) (s : State) : Host.Outcome State Fault Refusal :=
  .next (if s.sup.command.phase = .executing ∧ s.sup.command.directoryWait = .read then s.commandDirectoryRead error else s)

/-! ## Arm Show (R12) -/

/-- StartBlock of the entry (R12). -/
def State.cmdStart (s : State) : Nat := (s.cmdWord 2).toNat + 4294967296 * (s.cmdWord 3).toNat

/-- The block number slot `k` carries in [b, b + 16) (R81, R105). -/
def carriedBlock (b k : Nat) : Nat := b + (k + 16 - b % 16) % 16

/-- The ring of a group at Arm Show: PlayBase StartBlock, every slot EMPTY with its number (R12, R105). -/
def Ring.armed (b : Nat) : Ring :=
  { playBase := b
    slots := (List.range 16).foldl (fun t k => Table.set Slot.initial t k { Slot.initial with block := carriedBlock b k }) []
    readerLateReported := false, mapFaultReported := false }

/-- The Group Record at Arm Show (R155). -/
def GroupRecord.armed (gr : GroupRecord) (b : Nat) : GroupRecord :=
  { gr with switchPoint := b, fadeEnd := b, lastSwitchPoint := none, lastSwitchCause := .none, switchCount := 0,
            withheldReported := false }

/-- The Arm Show values of one defined group (R105, R132, R155). -/
def State.armGroup (b : Nat) (s : State) (g : Nat) : State :=
  ((s.modifyGroup g (fun gr => gr.armed b)).modifyHealth g GroupHealth.started).modifyRing g (fun _ => Ring.armed b)

/-- A taken Arm Show (R12, R33, R67, R105, R178). -/
def State.arm (s : State) (b : Nat) : State :=
  let t : State := { s with
    part := { s.part with state := .armed, period := b, startBlock := b, startGuard := false }
    pool := { s.pool with exhaustReported := ⟨false, false⟩ }
    cache := { s.cache with exhaustReported := false, strayWrites := ⟨0, 0⟩ }
    resolver := { s.resolver with resolveFront := b, readerEarly := 0, readerFault := 0 }
    notices := { s.notices with lost := false } }
  s.definedGroups.foldl (State.armGroup b) t

/-- Arm Show decided in the order of R12. -/
def State.armShow (s : State) : State :=
  if s.sup.locked then s.refuse .locked
  else if s.part.state ≠ .standby then s.refuse .wrongState
  else if s.definedGroups.isEmpty then s.refuse .wrongState
  else if 281474976710656 - 1099511627776 ≤ s.cmdStart then s.refuse .badParameter
  else (s.arm s.cmdStart).answerCommand .done [word s.clock.state.code]

/-- ARM_SHOW (R12). -/
def execArmShow (s : State) : Host.Outcome State Fault Refusal := .next (if s.hand 7 then s.armShow else s)

/-! ## End Show (R15) -/

/-- End Show decided as R15 states; when taken, the teardown runs and its end answers. -/
def State.endShow (s : State) : State :=
  if s.sup.locked then s.refuse .locked
  else if s.part.state ≠ .armed ∧ s.part.state ≠ .running then s.refuse .wrongState
  else s.beginTeardown

/-- END_SHOW (R15). -/
def execEndShow (s : State) : Host.Outcome State Fault Refusal := .next (if s.hand 8 then s.endShow else s)

/-! ## Switch, Hold, Release Hold (R147 to R150) -/

/-- ARMED or RUNNING. -/
def State.showing (s : State) : Bool := s.part.state == .armed || s.part.state == .running

/-- The Group field names a defined group, or is 255 (step 2 of R147). -/
def State.setsOk (s : State) (field : Nat) : Bool := field == 255 || (field ≤ 7 && (s.group field).defined)

/-- Steps 1 and 2 of R147: the result that refuses the command, or none. -/
def State.setRefusal (s : State) : Option ResultCode :=
  if !s.showing then some .wrongState
  else if !s.setsOk s.cmdGroup then some .badParameter
  else none

/-- The members of every set the entry names. -/
def State.namedMembers (s : State) : List Nat := (s.namedLeaders s.cmdGroup).flatMap s.members

/-- The role word 1 names: 1 MAIN, 2 BACKUP (9.5). -/
def State.cmdRole (s : State) : Role := if s.cmdWord 1 = 1 then .main else .backup

/-- The form is Cut, or the part is ARMED, where a Fade is taken as a Cut (R148). -/
def State.cutForm (s : State) : Bool := s.cmdWord 2 == 1 || s.part.state == .armed

/-- Step 3 of R147: role 1 or 2, form 0 or 1. -/
def State.switchFieldsOk (s : State) : Bool :=
  (s.cmdWord 1 == 1 || s.cmdWord 1 == 2) && (s.cmdWord 2 == 0 || s.cmdWord 2 == 1)

/-- Step 4 of R147: a Fade while RUNNING meets a member that fades. -/
def State.switchBusy (s : State) : Bool := !s.cutForm && s.anyFading s.namedMembers

/-- Result word 11 of R147: the number of members the Switch itself switches under R137. A switch that the evaluation
behind a Cut brings is not counted (the model's choice, log 54). -/
def State.switchedCount (s : State) : Nat := s.namedMembers.countP (fun m => (s.group m).switchesTo s.cmdRole)

/-- Result word 12 of R147: the number of fades the Switch cuts short (R139). -/
def State.cutShortCount (s : State) : Nat :=
  if s.cutForm then s.namedMembers.countP (fun m => (s.group m).selectState == .to s.cmdRole) else 0

/-- The Switch acts on one named set (R148, R149). -/
def State.commandSwitchSet (r : Role) (cut : Bool) (s : State) (g : Nat) : State :=
  if cut then s.cutSet r .command g else s.fadeSet r g

/-- Switch decided in the order of R147. -/
def State.switchCommand (s : State) : State :=
  match s.setRefusal with
  | some r => s.refuse r
  | none =>
    if !s.switchFieldsOk then s.refuse .badParameter
    else if s.switchBusy then s.refuse .busy
    else
      ((s.namedLeaders s.cmdGroup).foldl (State.commandSwitchSet s.cmdRole s.cutForm) s).answerCommand .done
        [word s.switchedCount, word s.cutShortCount, blockLow s.resolver.resolveFront, blockHigh s.resolver.resolveFront]

/-- SWITCH (R147). -/
def execSwitch (s : State) : Host.Outcome State Fault Refusal := .next (if s.hand 9 then s.switchCommand else s)

/-- Hold of a member (R150). -/
def State.setHold (v : Bool) (s : State) (m : Nat) : State := s.modifyGroup m (fun gr => { gr with hold := v })

/-- The number of named groups whose Hold changes to `v` (R150). -/
def State.holdChanges (s : State) (v : Bool) : Nat := s.namedMembers.countP (fun m => (s.group m).hold != v)

/-- Hold (R150). -/
def State.holdCommand (s : State) : State :=
  match s.setRefusal with
  | some r => s.refuse r
  | none => (s.namedMembers.foldl (State.setHold true) s).answerCommand .done [word (s.holdChanges true)]

/-- HOLD (R150). -/
def execHold (s : State) : Host.Outcome State Fault Refusal := .next (if s.hand 10 then s.holdCommand else s)

/-- Release Hold, with the evaluation of each named set (R140, R150). -/
def State.releaseHoldCommand (s : State) : State :=
  match s.setRefusal with
  | some r => s.refuse r
  | none =>
    ((s.namedLeaders s.cmdGroup).foldl State.evaluate (s.namedMembers.foldl (State.setHold false) s)).answerCommand .done
      [word (s.holdChanges false)]

/-- RELEASE_HOLD (R150). -/
def execReleaseHold (s : State) : Host.Outcome State Fault Refusal := .next (if s.hand 11 then s.releaseHoldCommand else s)

/-! ## Query Coverage (R76 to R79) -/

/-- Reach of a list: its tail's distance from ResolveFront (R77). -/
def reach (front : Nat) (es : List Entry) : Nat :=
  match es.getLast? with
  | none => 0
  | some e => e.block + 1 - front

/-- The result data of the channel form from a context (R77, R180). -/
def Context.coverageReport (x : Context) (front : Nat) : List Word :=
  [packBytes x.lists.rig1.length x.lists.rig2.length (coverageFrom front x.lists.rig1) (coverageFrom front x.lists.rig2),
   packBytes (reach front x.lists.rig1) (reach front x.lists.rig2) (flag x.streaming) 0, blockLow front, blockHigh front, 0]

/-- The channel form of Query Coverage (R77). -/
def State.queryChannel (s : State) : State :=
  match s.cache.mapEntry s.cmdChannel with
  | none => s.answerCommand .noContext [0, 0, blockLow s.resolver.resolveFront, blockHigh s.resolver.resolveFront]
  | some k => s.answerCommand .done ((s.context k).coverageReport s.resolver.resolveFront)

/-- MinCoverage of a rig port over the Streaming channels of group `g`, 0 when there is none (R78). -/
def State.minCoverage (s : State) (g : Nat) (r : Rig) : Nat :=
  (((s.streamingOf g).map (fun x => coverageFrom s.resolver.resolveFront (x.lists.get r))).min?).getD 0

/-- Gaps of a rig port: Streaming channels of group `g` whose list lacks ResolveFront (R78). -/
def State.gaps (s : State) (g : Nat) (r : Rig) : Nat :=
  (s.streamingOf g).countP (fun x => (findEntry s.resolver.resolveFront (x.lists.get r)).isNone)

/-- The group form of Query Coverage (R78, R180). -/
def State.queryGroup (s : State) (g : Nat) : State :=
  s.answerCommand .done
    [packBytes (s.contextsOf g).length (s.streamingOf g).length 0 0,
     packBytes (s.minCoverage g .rig1) (s.minCoverage g .rig2) (s.gaps g .rig1) (s.gaps g .rig2),
     blockLow s.resolver.resolveFront, blockHigh s.resolver.resolveFront, 0]

/-- Query Coverage decided in the order of R76. -/
def State.queryCoverage (s : State) : State :=
  if !s.showing then s.refuse .wrongState
  else if s.cmdWord 1 = 0xFFFFFFFF then
    if s.cmdGroup ≤ 7 ∧ (s.group s.cmdGroup).defined then s.queryGroup s.cmdGroup else s.refuse .badParameter
  else if 767 < s.cmdChannel then s.refuse .badParameter
  else s.queryChannel

/-- QUERY_COVERAGE (R76). -/
def execQueryCoverage (s : State) : Host.Outcome State Fault Refusal := .next (if s.hand 12 then s.queryCoverage else s)

/-! ## Lock and Unlock (R173) -/

/-- Locked takes a value; the result carries the value it had (R173). -/
def State.setLocked (s : State) (v : Bool) : State :=
  (s.modifySup (fun u => { u with locked := v })).answerCommand .done [word (flag s.sup.locked)]

/-- LOCK (R173). -/
def execLock (s : State) : Host.Outcome State Fault Refusal := .next (if s.hand 13 then s.setLocked true else s)

/-- UNLOCK (R173). -/
def execUnlock (s : State) : Host.Outcome State Fault Refusal := .next (if s.hand 14 then s.setLocked false else s)

end Sys2Proof.Machine
end

