-- ==== Sys2Proof/Machine/Landing.lean ====
section
/-! DEFINITION. The writes of the part in flight, and the Memory Port taking them word by word (R162). -/

namespace Sys2Proof.Machine

/-! ## The words in flight of each writer, in the order sent -/

/-- The status write in flight (R177). -/
def State.statusInFlight (s : State) : List (Nat × List Word) :=
  match s.sup.status.writing with
  | none => []
  | some w => [(w.base, w.words)]

/-- The write-backs of the teardown in flight (R15). -/
def State.teardownInFlight (s : State) : List (Nat × List Word) :=
  match s.sup.teardown with
  | some (.writingBack ws) => ws
  | _ => []

/-- The output write of the running blend job in flight: none before every input word is read (R108, R112). -/
def State.blendInFlight (s : State) : List (Nat × List Word) :=
  match s.blend with
  | [] => []
  | j :: _ =>
    match j.samples with
    | none => []
    | some out => afterWords s.landed.blend [(s.pool.byteAddr j.output 0, out)]

/-- The Live Directory writes in flight (R99). -/
def State.slotsInFlight (s : State) : List (Nat × List Word) := s.resolver.writes.map (fun w => (w.addr, w.words))

/-! ## Words taken before the row that ends a write -/

/-- Of `n` words the Memory Port takes at most those before the last: the row of its own that ends a write takes that one. -/
def beforeLast (n : Nat) (ws : List (Nat × List Word)) : Nat := min n (wordCount ws - 1)

/-- The counts of words taken changed. -/
def State.countLanded (s : State) (f : Landed → Landed) : State := { s with landed := f s.landed }

/-- The next `k` words of writes in flight reach DRAM. -/
def State.land (s : State) (k : Nat) (ws : List (Nat × List Word)) : State := { s with mem := landFirst s.mem k ws }

/-- Words of the status record are taken (R177). -/
def State.tookStatus (s : State) (n : Nat) : State :=
  match s.sup.status.writing with
  | none => s
  | some w =>
    let k := min n (w.words.length - 1)
    (s.land k s.statusInFlight).modifySup (fun u => { u with status := { u.status with
      writing := some { base := w.base + 4 * k, words := w.words.drop k } } })

/-- Words of the write-backs of a teardown are taken (R15). -/
def State.tookTeardown (s : State) (n : Nat) : State :=
  match s.sup.teardown with
  | some (.writingBack ws) =>
    (s.land (beforeLast n ws) ws).setTeardown (some (.writingBack (afterWords (beforeLast n ws) ws)))
  | _ => s

/-- Words of the Live Directory writes are taken in the order sent (R99). A write no event waits for goes as a whole, and of a
record or a READY header the last word stays for its own row; gives the words taken and what stays in flight. -/
def slotWordsTaken : Nat → List SlotWrite → List (Nat × List Word) × List SlotWrite
  | _, [] => ([], [])
  | n, w :: ws =>
    if w.kind = .other ∧ w.words.length ≤ n then
      ((w.addr, w.words) :: (slotWordsTaken (n - w.words.length) ws).1, (slotWordsTaken (n - w.words.length) ws).2)
    else
      let k := min n (w.words.length - 1)
      ([(w.addr, w.words.take k)], { w with addr := w.addr + 4 * k, words := w.words.drop k } :: ws)

/-- Words of the Live Directory writes are taken (R99, R162). -/
def State.tookSlots (s : State) (n : Nat) : State :=
  s.landSlotWrites (slotWordsTaken n s.resolver.writes).1 (slotWordsTaken n s.resolver.writes).2

/-- The counts once `z`, `d` and `l` more words of the regions of an anchor take are taken, of 128, 6,144 and 131,072. -/
def Landed.takeMore (x : Landed) (z d l : Nat) : Landed :=
  x.withTake (min (x.zeroBucket + z) 128) (min (x.directory + d) 6144) (min (x.liveDirectory + l) 131072)

/-- Words of the writes of an anchor take are taken: `z` of the Zero Bucket, `d` of the Channel Directory, `l` of the Live
Directory (R166). -/
def State.tookTake (s : State) (z d l : Nat) : State :=
  match s.sup.take with
  | some (.initialising a) => { s with mem := landTake s.mem a s.landed z d l, landed := s.landed.takeMore z d l }
  | _ => s

/-- The Memory Port takes `n` more words of the write of `w` that is in flight, in the order sent; none where none is (R162,
log 9). -/
def State.took (s : State) (n : Nat) : Writer → State
  | .status => s.tookStatus n
  | .notice =>
    let k := beforeLast n s.noticeInFlight
    (s.land k s.noticeInFlight).countLanded (fun x => { x with notice := x.notice + k })
  | .result =>
    let k := beforeLast n s.resultInFlight
    (s.land k s.resultInFlight).countLanded (fun x => { x with result := x.result + k })
  | .teardown => s.tookTeardown n
  | .writeback =>
    let k := beforeLast n s.writebackInFlight
    (s.land k s.writebackInFlight).countLanded (fun x => { x with writeback := x.writeback + k })
  | .blend =>
    let k := beforeLast n s.blendInFlight
    (s.land k s.blendInFlight).countLanded (fun x => { x with blend := x.blend + k })
  | .slots => s.tookSlots n
  | .zeroBucket => s.tookTake n 0 0
  | .directory => s.tookTake 0 n 0
  | .liveDirectory => s.tookTake 0 0 n

end Sys2Proof.Machine
end

