-- ==== Sys2Proof/Machine/Ports.lean ====
section
/-! DEFINITION. The Local Port (chapter 10): writes by their class, reads, and the requests in their order. -/

namespace Sys2Proof.Machine

/-- A write word reaches DRAM with its byte enables (R156, R159). -/
def State.passThrough (s : State) (addr : Nat) (v : Word) (en : Enables) : State :=
  { s with mem := writeEnabled s.mem (addr / 4 * 4) v en }

/-- The Go word: only a whole-word write of 1 is the Go event (R11, R160). -/
def State.handGo (s : State) (v : Word) (en : Enables) : State := if wholeWord en && v == 1 then s.goEvent else s

/-- A ring's watched words are handed over in STANDBY, ARMED and RUNNING, whole-word writes alone (R160). -/
def State.handed (s : State) (en : Enables) : Bool := wholeWord en && s.part.state != .quiet

/-- The Command Kick word (R160, R168). -/
def State.handKick (s : State) (v : Word) (en : Enables) : State := if s.handed en then s.kick v.toNat else s

/-- The Notice Return word (R160, R174). -/
def State.handReturn (s : State) (v : Word) (en : Enables) : State := if s.handed en then s.noticeReturn v.toNat else s

/-- A release word: a whole-word write passes through and is handed over, a sub-word write is dropped and counted (R101,
R160). -/
def State.releaseWrite (s : State) (g k addr : Nat) (v : Word) (en : Enables) : State :=
  if wholeWord en then (s.passThrough addr v en).readerRelease g k v else s.subWordRelease g

/-- One write word on the Local Port, by its class (R158 to R161). A watched word is handed over after it has reached DRAM
(R160). -/
def State.localWrite (s : State) (addr : Nat) (v : Word) (en : Enables) : State :=
  match s.localClass addr with
  | .liveWindow => s
  | .unmapped => s
  | .guarded => s
  | .passThrough => s.passThrough addr v en
  | .go => (s.passThrough addr v en).handGo v en
  | .commandKick => (s.passThrough addr v en).handKick v en
  | .noticeReturn => (s.passThrough addr v en).handReturn v en
  | .release g k => s.releaseWrite g k addr v en

/-! ## The requests in their order (R158) -/

/-- A Local Port read is answered, behind the answers given before (R158). -/
def State.answerLocal (s : State) (data : List Word) (error : Bool) : State :=
  { s with answers := s.answers ++ [{ data := data, error := error }] }

/-- A request is taken: a write word at once, a read with its words still to take (R158). -/
def State.takeRequest (s : State) : LocalRequest → State
  | .write a v en => s.localWrite a v en
  | .read _ 0 => s.answerLocal [] false
  | .read a (n + 1) => { s with burst := some (ReadBurst.new a (n + 1)) }

/-- A request arrives on the Local Port: behind a read under way it waits, else it is taken (R158). -/
def State.localRequest (s : State) (q : LocalRequest) : State :=
  match s.burst with
  | none => s.takeRequest q
  | some b => { s with burst := some { b with waiting := b.waiting ++ [q] } }

/-- Read `b` as an answer leaves it: with words left it stays under way, else it is answered, and the requests behind it are
taken in their order (R156, R158). -/
def State.keepRead (s : State) (b : ReadBurst) : State :=
  if b.left = 0 then b.waiting.foldl State.localRequest ({ s with burst := none }.answerLocal b.data b.error)
  else { s with burst := some b }

/-- An event of the Memory Port: the answer to the read under way, if there is one, or words of a write taken (R162). -/
def State.portEvent (s : State) : PortEvent → State
  | .took w n => s.took n w
  | .answer st =>
    match s.burst with
    | none => s
    | some b => (s.readWordOf b st).1.keepRead (s.readWordOf b st).2

/-- Events of the Memory Port, in their order. -/
def State.portEvents (s : State) (events : List PortEvent) : State := events.foldl State.portEvent s

/-! ## The commands of the Local Port: while RESET_N is low no request is answered (R182) -/

/-- GO_WRITE: a write to the Go word, anchor word 0 (R11, R160). -/
def execGoWrite (v : Word) (en : Enables) (s : State) : Host.Outcome State Fault Refusal :=
  .next (s.unlessHeld (s.localRequest (.write 0 v en)))

/-- COMMAND_KICK: a write to the Command Kick word, anchor word 11 (R160, R168). -/
def execCommandKick (v : Word) (en : Enables) (s : State) : Host.Outcome State Fault Refusal :=
  .next (s.unlessHeld (s.localRequest (.write 44 v en)))

/-- NOTICE_RETURN: a write to the Notice Return word, anchor word 12 (R160, R174). -/
def execNoticeReturn (v : Word) (en : Enables) (s : State) : Host.Outcome State Fault Refusal :=
  .next (s.unlessHeld (s.localRequest (.write 48 v en)))

/-- READER_RELEASE: a write to the release word of slot `k` of group `g`, at its place when the write arrives; before the first
take no release word exists (R101, R160). -/
def execReaderRelease (g k : Nat) (v : Word) (en : Enables) (s : State) : Host.Outcome State Fault Refusal :=
  .next (match s.sup.anchor with
    | none => s
    | some a => s.unlessHeld (s.localRequest (.write (releaseAddr a.liveDirectoryBase g k) v en)))

/-- LIVE_WINDOW_READ: a read arrives on a link port, or the Memory Port goes on with the Local Port request under way; the
events of the Memory Port follow (R83, R156, R164). A rig-port read is taken in the port's order and reaches no block
(R157, log 15). -/
def execLiveWindowRead (place : ReadPlace) (words : Nat) (events : List PortEvent) (s : State) :
    Host.Outcome State Fault Refusal :=
  .next (s.unlessHeld ((match place with
    | .localPort addr => s.localRequest (.read addr words)
    | .burst => s
    | .rigPort r addr => s.rigRequest r (.read addr words)).portEvents events))

/-- LOCAL_PORT_WRITE: any write word on the Local Port (R158, R159). -/
def execLocalPortWrite (addr : Nat) (v : Word) (en : Enables) (s : State) : Host.Outcome State Fault Refusal :=
  .next (s.unlessHeld (s.localRequest (.write addr v en)))

end Sys2Proof.Machine
end

