-- ==== Sys2Proof/Machine/Reset.lean ====
section
/-! DEFINITION. Reset (R10, R182): the values of reset, the straps, and what a write in flight leaves in DRAM. -/

namespace Sys2Proof.Machine

/-! ## Writes in flight that a reset abandons (R10, log 7) -/

/-- The write-backs of EVICTING contexts and the Cached writes behind them in flight, in the order sent; a read among them writes
nothing (R60, R61, R162). -/
def State.evictionsInFlight (s : State) : List (Nat × List Word) :=
  s.writebackInFlight ++ s.cache.sends.tail.map s.cacheWrite

/-- Of the writes of an anchor take in flight a free number of words lands; Anchor Result keeps what it held (R167). -/
def State.landTakeWrites (s : State) (m : Memory) : Memory :=
  match s.sup.take with
  | some (.initialising a) =>
    landTake m a s.landed (Config.freeLanded s.freeCount 7) (Config.freeLanded s.freeCount 8)
      (Config.freeLanded s.freeCount 9)
  | _ => m

/-- DRAM after a reset: of each requester's writes in flight a free number of words has landed, in the order sent (R10,
R162, log 7). -/
def State.memAfterReset (s : State) : Memory :=
  s.landTakeWrites
    (landFirst (landFirst (landFirst (landFirst (landFirst (landFirst (landFirst s.mem
      (Config.freeLanded s.freeCount 0) s.statusInFlight)
      (Config.freeLanded s.freeCount 1) s.noticeInFlight)
      (Config.freeLanded s.freeCount 2) s.resultInFlight)
      (Config.freeLanded s.freeCount 3) s.teardownInFlight)
      (Config.freeLanded s.freeCount 4) s.evictionsInFlight)
      (Config.freeLanded s.freeCount 5) s.blendInFlight)
      (Config.freeLanded s.freeCount 6) s.slotsInFlight)

/-! ## RESET (R10, R182) -/

/-- The lines at reset: the straps sampled (R161), TAKEOVER's low period if the line is low (R151, R182), outputs released
(R153, R176, R182), RESET_N high again. -/
def Lines.atReset (sizeB sizeA takeoverLow : Bool) : Lines :=
  { sizeB := sizeB, sizeA := sizeA, takeoverLowSince := if takeoverLow then some 0 else none, tallyMain := false,
    tallyBackup := false, interrupt := false, resetLow := false }

/-- The part wholly reset: the values of State.reset, with the lines as sampled; DRAM, the queue and REFCLK are not the
part's (R10, R182, log 27). -/
def State.afterReset (s : State) (sizeB sizeA takeoverLow : Bool) : State :=
  { State.reset with
    pending := s.pending
    freeCount := s.freeCount + 1
    timer := { now := 0, refclkStopped := s.timer.refclkStopped, heldCounted := s.timer.refclkStopped }
    lines := Lines.atReset sizeB sizeA takeoverLow
    mem := s.memAfterReset }

/-- RESET_N goes low: the part is held in reset from here on. It stands at the values of reset, which it takes again as the line
rises, its outputs are released and every operation in flight is abandoned; the straps keep the values sampled last (R10,
R182; the instant is a DESIGN CHOICE, log 24). -/
def State.holdReset (s : State) : State :=
  { s.afterReset s.lines.sizeB s.lines.sizeA false with
    lines := { Lines.atReset s.lines.sizeB s.lines.sizeA false with resetLow := true } }

/-- RESET (R10, R182): the line falls, rises, or makes a pulse shorter than 1 µs, which is taken as a reset or ignored (log 6).
On a line that is low already neither a fall nor a pulse arrives. -/
def execReset (sizeB sizeA takeoverLow : Bool) (line : ResetLine) (s : State) : Host.Outcome State Fault Refusal :=
  .next (match line with
    | .low => s.unlessHeld s.holdReset
    | .high => s.afterReset sizeB sizeA takeoverLow
    | .shortPulse => s.unlessHeld (if s.pulseTaken false then s.afterReset sizeB sizeA takeoverLow else s.drawn))

end Sys2Proof.Machine
end

