-- ==== Sys2Proof/Machine/Dispatch.lean ====
section
/-! DEFINITION. What each command does, one arm per constructor of Instr. -/

namespace Sys2Proof.Machine

/-- The effect of a command on everything but the queue. -/
def exec (i : Instr) (s : State) : Host.Outcome State Fault Refusal :=
  match i with
  | .reset sizeB sizeA takeoverLow line => Sys2Proof.Machine.execReset sizeB sizeA takeoverLow line s
  | .refclkStop => Sys2Proof.Machine.execRefclkStop s
  | .refclkResume => Sys2Proof.Machine.execRefclkResume s
  | .blockClockEdge dt wide early => Sys2Proof.Machine.execBlockClockEdge dt wide early s
  | .clockLoss dt early => Sys2Proof.Machine.execClockLoss dt early s
  | .synthesizedBeat dt early => Sys2Proof.Machine.execSynthesizedBeat dt early s
  | .acceptanceWindowClose dt => Sys2Proof.Machine.execAcceptanceWindowClose dt s
  | .showSync dt wide => Sys2Proof.Machine.execShowSync dt wide s
  | .takeoverFallingEdge dt => Sys2Proof.Machine.execTakeoverFallingEdge dt s
  | .takeoverRisingEdge dt => Sys2Proof.Machine.execTakeoverRisingEdge dt s
  | .goWrite value enables => Sys2Proof.Machine.execGoWrite value enables s
  | .deferredGo => Sys2Proof.Machine.execDeferredGo s
  | .anchorReadDone error => Sys2Proof.Machine.execAnchorReadDone error s
  | .anchorTakeEnd => Sys2Proof.Machine.execAnchorTakeEnd s
  | .commandKick value enables => Sys2Proof.Machine.execCommandKick value enables s
  | .commandFetchDone error => Sys2Proof.Machine.execCommandFetchDone error s
  | .commandDirectoryReadDone error => Sys2Proof.Machine.execCommandDirectoryReadDone error s
  | .commandResultWritten => Sys2Proof.Machine.execCommandResultWritten s
  | .unknownCommand => Sys2Proof.Machine.execUnknownCommand s
  | .configureBridge => Sys2Proof.Machine.execConfigureBridge s
  | .defineGroup => Sys2Proof.Machine.execDefineGroup s
  | .setThresholds => Sys2Proof.Machine.execSetThresholds s
  | .defineChannel => Sys2Proof.Machine.execDefineChannel s
  | .undefineChannel => Sys2Proof.Machine.execUndefineChannel s
  | .readContext => Sys2Proof.Machine.execReadContext s
  | .armShow => Sys2Proof.Machine.execArmShow s
  | .endShow => Sys2Proof.Machine.execEndShow s
  | .teardownEnd => Sys2Proof.Machine.execTeardownEnd s
  | .switch => Sys2Proof.Machine.execSwitch s
  | .hold => Sys2Proof.Machine.execHold s
  | .releaseHold => Sys2Proof.Machine.execReleaseHold s
  | .queryCoverage => Sys2Proof.Machine.execQueryCoverage s
  | .lock => Sys2Proof.Machine.execLock s
  | .unlock => Sys2Proof.Machine.execUnlock s
  | .noticeReturn value enables => Sys2Proof.Machine.execNoticeReturn value enables s
  | .noticeWriteBegin => Sys2Proof.Machine.execNoticeWriteBegin s
  | .noticeWriteEnd dt => Sys2Proof.Machine.execNoticeWriteEnd dt s
  | .coalesceTimeout dt => Sys2Proof.Machine.execCoalesceTimeout dt s
  | .statusWriteEnd => Sys2Proof.Machine.execStatusWriteEnd s
  | .payloadWrite rig addr value enables => Sys2Proof.Machine.execPayloadWrite rig addr value enables s
  | .headerWrite rig addr value enables => Sys2Proof.Machine.execHeaderWrite rig addr value enables s
  | .commit rig addr value enables => Sys2Proof.Machine.execCommit rig addr value enables s
  | .rigPortUnusedWrite rig addr value enables => Sys2Proof.Machine.execRigPortUnusedWrite rig addr value enables s
  | .contextLoadReadDone channel error => Sys2Proof.Machine.execContextLoadReadDone channel error s
  | .evictionWritebackEnd context => Sys2Proof.Machine.execEvictionWritebackEnd context s
  | .laneStale channel rig lane => Sys2Proof.Machine.execLaneStale channel rig lane s
  | .streamingExpiry channel => Sys2Proof.Machine.execStreamingExpiry channel s
  | .slotRecordWritten group slot => Sys2Proof.Machine.execSlotRecordWritten group slot s
  | .slotHeaderWritten group header => Sys2Proof.Machine.execSlotHeaderWritten group header s
  | .liveWindowRead place words events => Sys2Proof.Machine.execLiveWindowRead place words events s
  | .readerRelease group slot value enables => Sys2Proof.Machine.execReaderRelease group slot value enables s
  | .forcedRelease group slot => Sys2Proof.Machine.execForcedRelease group slot s
  | .blendJobComplete => Sys2Proof.Machine.execBlendJobComplete s
  | .blendDeadline => Sys2Proof.Machine.execBlendDeadline s
  | .blendDrainEnd => Sys2Proof.Machine.execBlendDrainEnd s
  | .blendReadError input => Sys2Proof.Machine.execBlendReadError input s
  | .healthWindowClose group => Sys2Proof.Machine.execHealthWindowClose group s
  | .localPortWrite addr value enables => Sys2Proof.Machine.execLocalPortWrite addr value enables s
  | .blendReadingDone => Sys2Proof.Machine.execBlendReadingDone s

end Sys2Proof.Machine
end

