-- ==== Sys2Proof/Safety.lean ====
section
/-! DEFINITION. What every step keeps: the canonical form of DRAM and the laws of the bucket pool (R19, R20, R23),
the order of the block and the shape of its queues; and which commands may change the clock, the show state, the timer, DRAM
and the answers on the rig ports. -/

namespace Sys2Proof.Machine

/-- The laws of the pool. -/
structure Pool.Law (p : Pool) : Prop where
  /-- the Bucket Table is in canonical form -/
  canonical : Table.wf Bucket.initial p.table
  /-- only buckets 1 to PoolBuckets − 1 are in use; the Zero Bucket has no entry (R18) -/
  inRange : ∀ e ∈ p.table, 0 < e.1 ∧ e.1 < p.buckets
  /-- a bucket in use is charged to an account, and it is HELD exactly when it carries a pin (R19) -/
  inUse : ∀ e ∈ p.table, e.2.state ≠ .free ∧ e.2.charged ≠ .none ∧ (e.2.state = .held ↔ 0 < e.2.pinCount)
  /-- the free list holds no bucket twice (R20) -/
  nodup : p.freeList.Nodup
  /-- a bucket is on the free list exactly when it is FREE (R19) -/
  free : ∀ b, b ∈ p.freeList ↔ 0 < b ∧ b < p.buckets ∧ (p.bucket b).state = .free
  /-- the FREE buckets and the buckets in use are the pool apart from the Zero Bucket (R23) -/
  count : p.freeList.length + p.table.length = p.buckets - 1

/-- The invariant of the block: DRAM is in canonical form and the pool keeps its laws. -/
def State.Inv (s : State) : Prop := Memory.wf s.mem ∧ s.pool.Law

/-- The order of the block: the accounts keep to their sizes (R23), nothing is in use outside a show (R24), rig ports hold
writes in a show alone (R49), an anchor take runs alone in QUIET or STANDBY (R167), and the anchors passed their checks
(R165). -/
structure State.Order (s : State) : Prop where
  /-- no rig's quota InUse exceeds its quota -/
  quota : ∀ r, s.pool.inUse (.quota r) ≤ s.pool.quota.get r
  /-- the common InUse does not exceed the common account -/
  common : s.pool.inUse (.common .rig1) + s.pool.inUse (.common .rig2) ≤ s.pool.commonSize
  /-- the Blend Reserve InUse never exceeds 64 -/
  blend : s.pool.inUse .blend ≤ 64
  /-- outside ARMED and RUNNING, once no teardown runs, no bucket is in use -/
  atRest : s.capturing = false → s.sup.teardown = none → s.pool.table = []
  /-- outside ARMED and RUNNING no rig port holds a request -/
  ports : s.capturing = false → s.cache.ports = ⟨[], []⟩
  /-- an anchor take runs alone, in QUIET or STANDBY, and no Go waits meanwhile -/
  takeAlone : s.sup.take ≠ none → s.capturing = false ∧ s.sup.command.phase = .idle ∧ s.sup.teardown = none
    ∧ s.sup.status.writing = none ∧ s.notices.writing = false ∧ s.sup.goPending = false
  /-- the anchor of a take that initialises has passed the checks -/
  takeOk : ∀ a, s.sup.take = some (.initialising a) → a.ok s.lines.dramSize = true
  /-- the anchor taken last has passed the checks -/
  anchorOk : ∀ a, s.sup.anchor = some a → a.ok s.lines.dramSize = true
  /-- a teardown runs in STANDBY, inside the End Show command -/
  teardown : s.sup.teardown ≠ none → s.capturing = false ∧ s.sup.command.phase = .executing
    ∧ s.sup.command.directoryWait = .none
  /-- the contexts are listed in canonical form -/
  contexts : Table.wf Context.initial s.cache.contexts
  /-- a result being written has its five data words -/
  result : s.sup.command.phase = .writing → s.sup.command.resultData.length = 5

/-- Every figure of the part stands at its value of reset; the queue, the free values drawn, the timer, the lines and DRAM are
left out (R10, R182). -/
def State.Fresh (s : State) : Prop :=
  { s with pending := [], freeCount := 0, timer := State.reset.timer, lines := State.reset.lines, mem := [] } = State.reset

/-- The shape of the queues and lists that the rules keep in every run: the Blend Job Queue (R106, R108), the load requests
and the writes held for them (R55, R58, R61), the retained lists (R68, R69), the pending notices (R175). -/
structure State.Shape (s : State) : Prop where
  /-- the head of the Blend Job Queue is the running job, and every job behind it is QUEUED -/
  running : ∀ j js, s.blend = j :: js → j.phase ≠ .queued ∧ ∀ i ∈ js, i.phase = .queued
  /-- the Blend Job Queue holds at most 48 jobs -/
  room : s.blend.length ≤ 48
  /-- a job has its 128 output samples from the end of its reads on -/
  samples : ∀ j ∈ s.blend, (j.phase = .queued ∨ j.phase = .reading → j.samples = none)
    ∧ (j.phase = .writing → j.samples ≠ none) ∧ ∀ out, j.samples = some out → out.length = 128
  /-- outside a teardown every load request has a waiting port -/
  waits : s.sup.teardown = none → ∀ q ∈ s.cache.loads, q.waiting.rig1 = true ∨ q.waiting.rig2 = true
  /-- a rig port waits on at most one load request -/
  oneLoad : ∀ r, s.cache.loads.countP (fun q => q.waiting.get r) ≤ 1
  /-- a rig port that holds nothing waits on no load request -/
  held : ∀ r, s.cache.ports.get r = [] → ∀ q ∈ s.cache.loads, q.waiting.get r = false
  /-- at most two load requests exist -/
  twoLoads : s.cache.loads.length ≤ 2
  /-- the first access in flight of the Channel Cache is a write-back, and a read in flight is of a load that reads the
  directory (R57, R162) -/
  sends : ∀ x xs, s.cache.sends = x :: xs → (∃ k, x = .writeback k)
    ∧ ∀ c, CacheSend.read c ∈ xs → ∃ q ∈ s.cache.loads, q.channel = c ∧ q.stage = .reading
  /-- no two load requests are for one channel -/
  channels : (s.cache.loads.map (fun q => q.channel)).Nodup
  /-- no load is in flight once the write-backs of a teardown are -/
  writtenBack : ∀ ws, s.sup.teardown = some (.writingBack ws) → s.cache.loads = []
  /-- the block numbers of a retained list strictly increase -/
  lists : ∀ k r, ((s.context k).lists.get r).Pairwise (fun e f => e.block < f.block)
  /-- at most 32 notices are pending -/
  notices : s.notices.queue.length ≤ 32
  /-- a Local Port read under way has words left to take -/
  burst : ∀ b, s.burst = some b → 0 < b.left
  /-- a part held in reset stands at the values of reset, with its outputs released (R182, log 24) -/
  inReset : s.lines.resetLow = true → s.Fresh ∧ s.lines.tallyMain = false ∧ s.lines.tallyBackup = false
    ∧ s.lines.interrupt = false
  /-- words are counted as taken only of a notice, a result, a write-back of the Channel Cache, an output or the writes of an
  anchor take that is in flight, and its last word stays for the row that ends it; of a take's regions no more words are counted
  than they hold (log 9) -/
  landed : (0 < s.landed.notice → s.notices.writing = true ∧ s.landed.notice < 8)
    ∧ (0 < s.landed.result → s.sup.command.phase = .writing ∧ s.landed.result < 7)
    ∧ (0 < s.landed.writeback → s.cache.sends ≠ [] ∧ s.landed.writeback < 8)
    ∧ (0 < s.landed.blend → s.landed.blend < 128 ∧ ∃ j js, s.blend = j :: js ∧ j.samples ≠ none)
    ∧ (0 < s.landed.zeroBucket + s.landed.directory + s.landed.liveDirectory →
        ∃ a, s.sup.take = some (.initialising a))
    ∧ s.landed.zeroBucket ≤ 128 ∧ s.landed.directory ≤ 6144 ∧ s.landed.liveDirectory ≤ 131072

/-- Requests that arrive at rig port `r` one after another. -/
def State.arrive (s : State) (r : Rig) (qs : List RigRequest) : State := qs.foldl (fun t q => t.rigRequest r q) s

/-! ## The reach of the commands -/

/-- The command may change the Clock Monitor: reset and the events of R1 to R7. -/
def drivesClock : Instr → Bool
  | .reset .. => true
  | .blockClockEdge .. => true
  | .clockLoss .. => true
  | .synthesizedBeat .. => true
  | .acceptanceWindowClose .. => true
  | _ => false

/-- The command may change the part state, Period, StartBlock or the start guard: reset, beats (R9), Show Sync (R13), the
end of an anchor take (R11, R166), Arm Show (R12), End Show (R15). -/
def drivesPart : Instr → Bool
  | .reset .. => true
  | .blockClockEdge .. => true
  | .clockLoss .. => true
  | .synthesizedBeat .. => true
  | .showSync .. => true
  | .anchorTakeEnd => true
  | .armShow => true
  | .endShow => true
  | _ => false

/-- The command may change the local timer: reset, the stop of REFCLK, and the commands at an instant of their own. -/
def drivesTimer : Instr → Bool
  | .reset .. => true
  | .refclkStop => true
  | .refclkResume => true
  | .blockClockEdge .. => true
  | .clockLoss .. => true
  | .synthesizedBeat .. => true
  | .acceptanceWindowClose .. => true
  | .showSync .. => true
  | .takeoverFallingEdge .. => true
  | .takeoverRisingEdge .. => true
  | .noticeWriteEnd .. => true
  | .coalesceTimeout .. => true
  | _ => false

/-- The command may answer a read on a rig port: such a read, and the ends of what holds one behind a write (R157). -/
def answersRig : Instr → Bool
  | .reset .. => true
  | .liveWindowRead .. => true
  | .contextLoadReadDone .. => true
  | .evictionWritebackEnd .. => true
  | .endShow => true
  | _ => false

/-- The command brings a write word to the Local Port; behind a read under way it waits (R158). -/
def writesLocal : Instr → Bool
  | .goWrite .. => true
  | .commandKick .. => true
  | .noticeReturn .. => true
  | .readerRelease .. => true
  | .localPortWrite .. => true
  | _ => false

/-- The command may write DRAM: reset (a write in flight), port writes, the ends of the writes the part makes, and a read of
the Local Port, whose events take words of such writes (R162) and at whose end the writes behind it go on (R158). -/
def writesDram : Instr → Bool
  | .reset .. => true
  | .goWrite .. => true
  | .deferredGo => true
  | .anchorReadDone .. => true
  | .anchorTakeEnd => true
  | .commandKick .. => true
  | .commandDirectoryReadDone .. => true
  | .commandResultWritten => true
  | .undefineChannel => true
  | .endShow => true
  | .teardownEnd => true
  | .noticeReturn .. => true
  | .noticeWriteEnd .. => true
  | .statusWriteEnd => true
  | .payloadWrite .. => true
  | .headerWrite .. => true
  | .commit .. => true
  | .rigPortUnusedWrite .. => true
  | .contextLoadReadDone .. => true
  | .evictionWritebackEnd .. => true
  | .slotRecordWritten .. => true
  | .slotHeaderWritten .. => true
  | .liveWindowRead .. => true
  | .readerRelease .. => true
  | .blendJobComplete => true
  | .blendDrainEnd => true
  | .blendReadError .. => true
  | .localPortWrite .. => true
  | _ => false

end Sys2Proof.Machine
end

