-- ==== Sys2Proof/Certificates/Slice0/Obligations.lean ====
section
/-! DEFINITION. The statements for the provers. -/

open Sys2Proof Sys2Proof.Machine

/-! ## The queue, the frames, reset -/

/-- A step runs the command at the front of the queue on the state with the queue's rest. -/
def Obligations.StepRunsFrontCommand : Prop :=
  ∀ (c : Instr) (cs : List Instr) (s : State), step { s with pending := c :: cs } = exec c { s with pending := cs }

/-- The model's choice (log 2): on an empty queue one step of the local timer passes, none while REFCLK is stopped. -/
def Obligations.EmptyQueueIsOneTick : Prop :=
  ∀ s : State, s.pending = [] →
    step s = .next { s with timer := { s.timer with
      now := if s.timer.refclkStopped then s.timer.now else s.timer.now + 1 } }

/-- Every command answers a next state and leaves the queue's rest as it was. -/
def Obligations.CommandsKeepQueue : Prop :=
  ∀ (c : Instr) (s : State), ∃ t, exec c s = .next t ∧ t.pending = s.pending

/-- Only the events of R1 to R7 change the Clock Monitor, only the changes of chapter 1 the show state, and only reset,
the stop of REFCLK and the timed rows the local timer. The timed rows carry the time that passes: the model's choice
(log 2). -/
def Obligations.ClockAndPartFrame : Prop :=
  ∀ (c : Instr) (s t : State), exec c s = .next t →
    (drivesClock c = false → t.clock = s.clock) ∧ (drivesPart c = false → t.part = s.part)
      ∧ (drivesTimer c = false → t.timer = s.timer)

/-- DRAM, and the count of the words taken of the part's writes, change only where a port write or a write of the part
is taken, the straps and RESET_N only at reset, the Local Port read under way only at a request of that port, and the
answers of every port are never lost: each goes behind the answers before it. Which rows take a write of the part is the
model's reading (logs 8, 9), and the answers are the model's own record of reads (log 15). -/
def Obligations.DramAndLinesFrame : Prop :=
  ∀ (c : Instr) (s t : State), exec c s = .next t →
    (writesDram c = false → t.mem = s.mem ∧ t.landed = s.landed)
      ∧ ((∀ b a l h, c ≠ .reset b a l h) → t.lines.sizeA = s.lines.sizeA ∧ t.lines.sizeB = s.lines.sizeB
          ∧ t.lines.resetLow = s.lines.resetLow
          ∧ (∃ more, t.answers = s.answers ++ more)
          ∧ ∀ r, ∃ more, t.rigAnswers.get r = s.rigAnswers.get r ++ more)
      ∧ ((∀ b a l h, c ≠ .reset b a l h) → (∀ p n ev, c ≠ .liveWindowRead p n ev) →
          t.answers = s.answers ∧ (writesLocal c = false → t.burst = s.burst))
      ∧ (answersRig c = false → t.rigAnswers = s.rigAnswers)

/-- The values the spec gives for reset, block by block. -/
def Obligations.ResetStateValues : Prop :=
  State.reset.part.state = .quiet ∧ State.reset.part.period = 0 ∧ State.reset.part.startBlock = 0
    ∧ State.reset.part.startGuard = false
    ∧ State.reset.clock.state = .noClock ∧ State.reset.clock.history = [] ∧ State.reset.clock.nominal = none
    ∧ State.reset.clock.reference = none ∧ State.reset.clock.relock = 0 ∧ State.reset.clock.emptyWindows = 0
    ∧ State.reset.pool.table = [] ∧ State.reset.pool.freeList = []
    ∧ State.reset.pool.exhaustReported = ⟨false, false⟩
    ∧ State.reset.cache.contexts = [] ∧ State.reset.cache.channelMap = [] ∧ State.reset.cache.lru = []
    ∧ State.reset.cache.strayWrites = ⟨0, 0⟩ ∧ State.reset.cache.exhaustReported = false
    ∧ State.reset.resolver.resolveFront = 0 ∧ State.reset.resolver.readerEarly = 0
    ∧ State.reset.resolver.readerFault = 0 ∧ State.reset.blend = []
    ∧ (∀ g, (State.reset.group g).defined = false)
    ∧ (∀ g, (State.reset.healthOf g).main.verdict = .unknown ∧ (State.reset.healthOf g).backup.verdict = .unknown
        ∧ (State.reset.healthOf g).agreement.verdict = .unproven ∧ (State.reset.healthOf g).windowOpen = false)
    ∧ State.reset.sup.anchor = none ∧ State.reset.sup.locked = false ∧ State.reset.sup.status.sequence = 0
    ∧ State.reset.sup.command.next = 0 ∧ State.reset.sup.command.target = none
    ∧ State.reset.sup.command.phase = .idle ∧ State.reset.notices.queue = [] ∧ State.reset.notices.lost = false
    ∧ State.reset.lines.interrupt = false ∧ State.reset.lines.tallyMain = false
    ∧ State.reset.lines.tallyBackup = false ∧ State.reset.lines.resetLow = false

/-- The rising edge of RESET_N puts the whole part to its reset values, samples the straps, and leaves every byte of
DRAM that no write in flight was to reach. From the falling edge on the part is held in reset, at the same values, its
outputs released; no link port request is answered and no edge of BLKCLK, SHOWSYNC or TAKEOVER is taken, and from a part
so held no command but RESET brings anything but time (that it stands at these values from the fall on, and that no
pulse arrives on a low line: the model's choice, log 24). A pulse too short leaves the part as it was or wholly reset;
the free value that decides is drawn. What is kept over a reset: REFCLK's state (log 27), and of the writes in flight a
free part (log 7). -/
def Obligations.ResetCommand : Prop :=
  (∀ (b a low : Bool) (s : State), ∃ t, exec (.reset b a low .high) s = .next t
    ∧ { t with pending := [], freeCount := 0, timer := State.reset.timer, lines := State.reset.lines, mem := [] }
        = State.reset
    ∧ t.timer = { now := 0, refclkStopped := s.timer.refclkStopped, heldCounted := s.timer.refclkStopped }
    ∧ t.lines = { sizeB := b, sizeA := a, takeoverLowSince := if low then some 0 else none, tallyMain := false,
                  tallyBackup := false, interrupt := false, resetLow := false }
    ∧ t.lines.dramSize = (if b then (if a then 4294967296 else 2147483648) else if a then 1073741824 else 536870912)
    ∧ (∀ x, (∀ an, s.sup.take ≠ some (.initialising an)) →
        (∀ w ∈ s.statusInFlight ++ s.noticeInFlight ++ s.resultInFlight ++ s.teardownInFlight ++ s.evictionsInFlight
            ++ s.blendInFlight ++ s.slotsInFlight, x < w.1 ∨ w.1 + 4 * w.2.length ≤ x) →
        readByte t.mem x = readByte s.mem x)
    ∧ (s.lines.resetLow = false →
        exec (.reset b a low .low) s = .next { t with lines :=
          { sizeB := s.lines.sizeB, sizeA := s.lines.sizeA, takeoverLowSince := none, tallyMain := false
            tallyBackup := false, interrupt := false, resetLow := true } }
        ∧ ∃ u, exec (.reset b a low .shortPulse) s = .next u ∧ (u = { s with freeCount := s.freeCount + 1 } ∨ u = t))
    ∧ (s.lines.resetLow = true →
        exec (.reset b a low .low) s = .next s ∧ exec (.reset b a low .shortPulse) s = .next s))
  ∧ (∀ s : State, s.lines.resetLow = true →
    (∀ dt early, exec (.blockClockEdge dt true early) s = .next (s.advance dt)
      ∧ exec (.blockClockEdge dt false early) s = .next { s.advance dt with freeCount := s.freeCount + 1 })
    ∧ (∀ dt, exec (.showSync dt true) s = .next (s.advance dt)
      ∧ exec (.showSync dt false) s = .next { s.advance dt with freeCount := s.freeCount + 1 }
      ∧ exec (.takeoverFallingEdge dt) s = .next (s.advance dt)
      ∧ exec (.takeoverRisingEdge dt) s = .next (s.advance dt))
    ∧ (∀ v en, exec (.goWrite v en) s = .next s ∧ exec (.commandKick v en) s = .next s
      ∧ exec (.noticeReturn v en) s = .next s ∧ (∀ g k, exec (.readerRelease g k v en) s = .next s)
      ∧ (∀ x, exec (.localPortWrite x v en) s = .next s)
      ∧ ∀ r a, exec (.payloadWrite r a v en) s = .next s ∧ exec (.headerWrite r a v en) s = .next s
        ∧ exec (.commit r a v en) s = .next s ∧ exec (.rigPortUnusedWrite r a v en) s = .next s)
    ∧ ∀ p n ev, exec (.liveWindowRead p n ev) s = .next s)
  ∧ ∀ (c : Instr) (s : State), s.lines.resetLow = true → s.Fresh → (∀ b a l h, c ≠ .reset b a l h) →
      ∃ t, exec c s = .next t ∧ t = { s with timer := t.timer, freeCount := t.freeCount }

/-- REFCLK stops and resumes; while it stands still no block clock edge is taken and no interval ends. The steps made
before the stop are counted by the first timed row taken in it and by no later one, so every held count is that of the
stop; the next timed row after a stop with none of its own counts them all. That a timed row carries its steps is the
model's choice (log 2). -/
def Obligations.ReferenceClockStops : Prop :=
  ∀ s : State,
    exec .refclkStop s = .next (if s.timer.refclkStopped = true then s
      else { s with timer := { s.timer with refclkStopped := true, heldCounted := false } })
    ∧ exec .refclkResume s = .next { s with timer := { s.timer with refclkStopped := false, heldCounted := false } }
    ∧ (s.timer.refclkStopped = true → ∀ (dt : Nat) (early : List PeriodWork) (held : State),
        held = { s with timer :=
          { now := if s.timer.heldCounted = true then s.timer.now else s.timer.now + dt
            refclkStopped := true, heldCounted := true } } →
        exec (.blockClockEdge dt true early) s = .next held
        ∧ exec (.blockClockEdge dt false early) s = .next { held with freeCount := s.freeCount + 1 }
        ∧ exec (.clockLoss dt early) s = .next held
        ∧ exec (.synthesizedBeat dt early) s = .next held ∧ exec (.acceptanceWindowClose dt) s = .next held
        ∧ exec (.coalesceTimeout dt) s = .next held
        ∧ (s.lines.resetLow = false → exec (.takeoverFallingEdge dt) s
            = .next { held with lines := { s.lines with takeoverLowSince := some held.timer.now } }))
    ∧ (s.timer.refclkStopped = false → ∀ (stopped : State) (m n : Nat),
        stopped = { s with timer := { s.timer with refclkStopped := true, heldCounted := false } } →
        (stopped.advance m).timer.now = s.timer.now + m ∧ (stopped.advance m).advance n = stopped.advance m)

/-! ## The clock and the period events -/

/-- R2: an edge in NO_CLOCK sets the reference instant, extends or empties the history, or locks. While RESET_N is low
ResetCommand states the form. -/
def Obligations.CollectingGainsLock : Prop :=
  ∀ (dt : Nat) (early : List PeriodWork) (s : State), s.timer.refclkStopped = false →
    s.lines.resetLow = false → s.clock.state = .noClock →
    (s.clock.reference = none →
      exec (.blockClockEdge dt true early) s
        = .next { s.advance dt with clock := { s.clock with reference := some (s.timer.now + dt) } })
    ∧ ∀ r, s.clock.reference = some r →
      (¬(12500 ≤ s.timer.now + dt - r ∧ s.timer.now + dt - r ≤ 250000) →
        exec (.blockClockEdge dt true early) s
          = .next { s.advance dt with clock := { s.clock with history := [], reference := some (s.timer.now + dt) } })
      ∧ (12500 ≤ s.timer.now + dt - r → s.timer.now + dt - r ≤ 250000 → s.clock.history.length < 15 →
        exec (.blockClockEdge dt true early) s
          = .next { s.advance dt with clock :=
              { s.clock with
                history := s.clock.history ++ [s.timer.now + dt - r], reference := some (s.timer.now + dt) } })
      ∧ (12500 ≤ s.timer.now + dt - r → s.timer.now + dt - r ≤ 250000 → s.clock.history.length = 15 →
        exec (.blockClockEdge dt true early) s
          = .next { s.advance dt with
              clock := { s.clock with
                state := .locked
                history := s.clock.history ++ [s.timer.now + dt - r]
                nominal := some ((s.clock.history ++ [s.timer.now + dt - r]).sum / 16)
                reference := some (s.timer.now + dt) }
              notices := if s.part.state = .quiet then s.notices else s.notices.post
                { group := none, source := none, period := s.part.period
                  body := .clockChange .noClock .locked 1 ((s.clock.history ++ [s.timer.now + dt - r]).sum / 16) } })

/-- R3: in LOCKED an early edge is ignored, an edge from 0.5 × N to 1.5 × N is a beat, hence a period event of a RUNNING
part whose start guard is clear. While RESET_N is low ResetCommand states the form. -/
def Obligations.LockedEdge : Prop :=
  ∀ (dt : Nat) (early : List PeriodWork) (s : State) (r n : Nat), s.timer.refclkStopped = false →
    s.lines.resetLow = false →
    s.clock.state = .locked → s.clock.reference = some r → s.clock.nominal = some n →
    (2 * (s.timer.now + dt - r) < n → exec (.blockClockEdge dt true early) s = .next (s.advance dt))
    ∧ (n ≤ 2 * (s.timer.now + dt - r) → 2 * (s.timer.now + dt - r) ≤ 3 * n →
      ∃ t, exec (.blockClockEdge dt true early) s = .next t
        ∧ t.clock = (if 12500 ≤ s.timer.now + dt - r ∧ s.timer.now + dt - r ≤ 250000 then
            { s.clock with
              reference := some (s.timer.now + dt)
              history := s.clock.history.tail ++ [s.timer.now + dt - r]
              nominal := some ((s.clock.history.tail ++ [s.timer.now + dt - r]).sum / 16) }
          else { s.clock with reference := some (s.timer.now + dt) })
        ∧ t.mem = s.mem ∧ t.timer = (s.advance dt).timer
        ∧ (s.part.state ≠ .running → t = { s.advance dt with clock := t.clock })
        ∧ (s.part.state = .running → s.part.startGuard = false →
            t.part = { s.part with period := s.part.period + 1 }
            ∧ t.resolver.resolveFront = s.resolver.resolveFront + 1))

/-- A beat while RUNNING is a period event, unless the start guard withholds it: less than 0.5 × N after the start
event, with N as the beat falls (log 19). The period event is that of the model's function periodEvent, whose resolution
SourceChoice states. While RESET_N is low ResetCommand states the form. -/
def Obligations.PeriodEventOfBeat : Prop :=
  ∀ (dt : Nat) (early : List PeriodWork) (s : State) (r n : Nat), s.timer.refclkStopped = false →
    s.lines.resetLow = false →
    s.part.state = .running → s.clock.state = .locked → s.clock.reference = some r → s.clock.nominal = some n →
    n ≤ 2 * (s.timer.now + dt - r) → 2 * (s.timer.now + dt - r) ≤ 3 * n →
    ∃ t, exec (.blockClockEdge dt true early) s = .next t
      ∧ (s.part.startGuard = true → 2 * (s.timer.now + dt - s.part.startInstant) < n →
          t = { s.advance dt with clock := t.clock })
      ∧ (s.part.startGuard = false ∨ n ≤ 2 * (s.timer.now + dt - s.part.startInstant) →
          t = ({ s.advance dt with clock := t.clock } : State).periodEvent early
          ∧ t.part = { s.part with period := s.part.period + 1, startGuard := false }
          ∧ t.resolver.resolveFront = s.resolver.resolveFront + 1
          ∧ t.mem = s.mem ∧ t.sup.anchor = s.sup.anchor ∧ t.sup.command = s.sup.command
          ∧ (∀ a, s.sup.anchor = some a → s.sup.status.writing = none → s.sup.take = none →
              t.sup.status.sequence = s.sup.status.sequence + 1
              ∧ ∃ w, t.sup.status.writing = some w ∧ w.base = a.statusBase)
          ∧ (∀ a, s.sup.anchor = some a → s.sup.status.writing ≠ none →
              t.sup.status = { s.sup.status with followUp := true }))

/-- The loss of clock 1.5 × N after the reference instant: FLYWHEEL, the schedule from R + N on, one beat. Not yet due,
only time passes (the model's choice, log 1). -/
def Obligations.LossOfClock : Prop :=
  ∀ (dt : Nat) (early : List PeriodWork) (s : State) (r n : Nat), s.timer.refclkStopped = false →
    s.clock.state = .locked → s.clock.reference = some r → s.clock.nominal = some n →
    (2 * (s.timer.now + dt - r) < 3 * n → exec (.clockLoss dt early) s = .next (s.advance dt))
    ∧ (3 * n ≤ 2 * (s.timer.now + dt - r) →
      ∃ t, exec (.clockLoss dt early) s = .next t
        ∧ t.clock = { s.clock with state := .flywheel, nextBeat := some (r + 2 * n), openWindow := none, relock := 0,
                                   emptyWindows := 0 }
        ∧ (s.part.state ≠ .running →
            t = { s.advance dt with
              clock := t.clock
              notices := if s.part.state = .quiet then s.notices else s.notices.post
                { group := none, source := none, period := s.part.period, body := .clockChange .locked .flywheel 2 n } })
        ∧ (s.part.state = .running → s.part.startGuard = false ∨ n ≤ 2 * (s.timer.now + dt - s.part.startInstant) →
            t.part = { s.part with period := s.part.period + 1, startGuard := false }
            ∧ t.resolver.resolveFront = s.resolver.resolveFront + 1))

/-- The synthesized beat falls at its scheduled instant; the next is due N later. Not yet due, only time passes (the
model's choice, log 1). -/
def Obligations.SynthesizedBeat : Prop :=
  ∀ (dt : Nat) (early : List PeriodWork) (s : State) (sb n : Nat), s.timer.refclkStopped = false →
    s.clock.state = .flywheel → s.clock.nextBeat = some sb → s.clock.openWindow = none → s.clock.nominal = some n →
    (s.timer.now + dt < sb → exec (.synthesizedBeat dt early) s = .next (s.advance dt))
    ∧ (sb ≤ s.timer.now + dt →
      ∃ t, exec (.synthesizedBeat dt early) s = .next t
        ∧ t.clock = { s.clock with nextBeat := some (sb + n), openWindow := some sb }
        ∧ (s.part.state ≠ .running → t = { s.advance dt with clock := t.clock })
        ∧ (s.part.state = .running → s.part.startGuard = false ∨ n ≤ 2 * (s.timer.now + dt - s.part.startInstant) →
            t.part = { s.part with period := s.part.period + 1, startGuard := false }
            ∧ t.resolver.resolveFront = s.resolver.resolveFront + 1))

/-- An edge in FLYWHEEL: in the window after its beat it makes no beat, in the window before its beat it is the beat,
outside every window it is rejected; the fourth accepted in a row locks. The relock count stays 4 from then on (the
model's reading, log 32). Where that edge is the beat of a RUNNING part, its Relocked notice carries the Period before
the event (the model's choice, log 39). While RESET_N is low ResetCommand states the form. -/
def Obligations.FlywheelEdge : Prop :=
  ∀ (dt : Nat) (early : List PeriodWork) (s : State) (n : Nat), s.timer.refclkStopped = false →
    s.lines.resetLow = false →
    s.clock.state = .flywheel → s.clock.nominal = some n →
    (∀ w, s.clock.openWindow = some w → 4 * (s.timer.now + dt) ≤ 4 * w + n →
      (s.clock.relock < 3 →
        exec (.blockClockEdge dt true early) s = .next { s.advance dt with clock :=
          { s.clock with nextBeat := some (s.timer.now + dt + n), openWindow := none, relock := s.clock.relock + 1,
                         emptyWindows := 0 } })
      ∧ (s.clock.relock = 3 →
        exec (.blockClockEdge dt true early) s = .next { s.advance dt with
          clock := { s.clock with state := .locked, reference := some (s.timer.now + dt), nextBeat := none,
                                  openWindow := none, relock := 4, emptyWindows := 0 }
          notices := if s.part.state = .quiet then s.notices else s.notices.post
            { group := none, source := none, period := s.part.period, body := .clockChange .flywheel .locked 3 n } }))
    ∧ (∀ sb, s.clock.openWindow = none → s.clock.nextBeat = some sb →
      (4 * (s.timer.now + dt) + n < 4 * sb →
        exec (.blockClockEdge dt true early) s = .next { s.advance dt with clock := { s.clock with relock := 0 } })
      ∧ (4 * sb ≤ 4 * (s.timer.now + dt) + n → s.timer.now + dt < sb → s.clock.relock < 3 →
        ∃ t, exec (.blockClockEdge dt true early) s = .next t
          ∧ t.clock = { s.clock with nextBeat := some (s.timer.now + dt + n), relock := s.clock.relock + 1,
                                     emptyWindows := 0 }
          ∧ (s.part.state ≠ .running → t = { s.advance dt with clock := t.clock })
          ∧ (s.part.state = .running →
              s.part.startGuard = false ∨ n ≤ 2 * (s.timer.now + dt - s.part.startInstant) →
              t.part = { s.part with period := s.part.period + 1, startGuard := false }
              ∧ t.resolver.resolveFront = s.resolver.resolveFront + 1))
      ∧ (4 * sb ≤ 4 * (s.timer.now + dt) + n → s.timer.now + dt < sb → s.clock.relock = 3 →
        ∃ u : State, u = { s.advance dt with
            clock := { s.clock with state := .locked, reference := some (s.timer.now + dt), nextBeat := none,
                                    openWindow := none, relock := 4, emptyWindows := 0 }
            notices := if s.part.state = .quiet then s.notices else s.notices.post
              { group := none, source := none, period := s.part.period, body := .clockChange .flywheel .locked 3 n } }
          ∧ (s.part.state ≠ .running → exec (.blockClockEdge dt true early) s = .next u)
          ∧ (s.part.state = .running →
              s.part.startGuard = false ∨ n ≤ 2 * (s.timer.now + dt - s.part.startInstant) →
              exec (.blockClockEdge dt true early) s = .next (u.periodEvent early))))

/-- An acceptance window closes empty: the counts, and outside RUNNING the end of the schedule at the 16th in a row,
which clears the counts too (the model's reading, log 32). The window includes its end, so the close is due past it (log
41). Not yet due, only time passes (the model's choice, log 1). -/
def Obligations.AcceptanceWindowClose : Prop :=
  ∀ (dt : Nat) (s : State) (w n : Nat), s.timer.refclkStopped = false → s.clock.state = .flywheel →
    s.clock.openWindow = some w → s.clock.nominal = some n →
    (4 * (s.timer.now + dt) ≤ 4 * w + n → exec (.acceptanceWindowClose dt) s = .next (s.advance dt))
    ∧ (4 * w + n < 4 * (s.timer.now + dt) →
      (s.part.state = .running ∨ s.clock.emptyWindows < 15 →
        exec (.acceptanceWindowClose dt) s = .next { s.advance dt with clock :=
          { s.clock with relock := 0, openWindow := none, emptyWindows := min 16 (s.clock.emptyWindows + 1) } })
      ∧ (s.part.state ≠ .running → 15 ≤ s.clock.emptyWindows →
        exec (.acceptanceWindowClose dt) s = .next { s.advance dt with
          clock := { state := .noClock, history := [], nominal := none, reference := none, nextBeat := none,
                     openWindow := none, relock := 0, emptyWindows := 0 }
          notices := if s.part.state = .quiet then s.notices else s.notices.post
            { group := none, source := none, period := s.part.period, body := .clockChange .flywheel .noClock 4 0 } }))

/-- Show Sync starts an ARMED part whose clock is LOCKED, is refused with a notice under any other clock, and is ignored
in every other part state. The start event makes the part RUNNING with the start guard set, begins the first window of
every defined group, resolves the ResolveLead + 1 blocks from ResolveFront on, posts ShowStarted with StartBlock and N,
and asks for the status record: a write begins, or the request is kept while one runs. The order of these acts is the
model's choice (log 44). While RESET_N is low ResetCommand states the form. -/
def Obligations.ShowSyncStarts : Prop :=
  (∀ (dt : Nat) (s : State), s.lines.resetLow = false →
    (s.part.state ≠ .armed → exec (.showSync dt true) s = .next (s.advance dt))
    ∧ (s.part.state = .armed → s.clock.state ≠ .locked →
        exec (.showSync dt true) s = .next { s.advance dt with
          notices := s.notices.post
            { group := none, source := none, period := s.part.period
              body := .clockChange s.clock.state s.clock.state 5 (s.clock.nominal.getD 0) } })
    ∧ (s.part.state = .armed → s.clock.state = .locked →
        ∃ u v w t : State, exec (.showSync dt true) s = .next t
          ∧ u = { s.advance dt with
              part := { s.part with state := .running, startGuard := true, startInstant := (s.advance dt).timer.now }
              health := u.health }
          ∧ (∀ g, g ∉ s.definedGroups → u.healthOf g = s.healthOf g)
          ∧ (∀ g ∈ s.definedGroups, u.healthOf g = { s.healthOf g with
              windowOpen := true, windowEnd := s.part.startBlock + (s.healthOf g).settings.windowLength })
          ∧ v = u.resolveMany (s.resolver.resolveLead + 1)
          ∧ w = { v with
              notices := v.notices.post
                { group := none, source := none, period := s.part.period
                  body := .showStarted s.part.startBlock (s.clock.nominal.getD 0) } }
          ∧ t = w.requestStatus
          ∧ t.part = u.part ∧ t.clock = s.clock ∧ t.mem = s.mem ∧ t.notices = w.notices
          ∧ t.resolver.resolveFront = s.resolver.resolveFront + (s.resolver.resolveLead + 1)
          ∧ (∀ g ∈ s.definedGroups, (t.healthOf g).windowOpen = true
              ∧ (t.healthOf g).windowEnd = s.part.startBlock + (s.healthOf g).settings.windowLength)
          ∧ (∀ a, s.sup.anchor = some a → s.sup.status.writing = none → s.sup.take = none →
              t.sup.status.sequence = s.sup.status.sequence + 1
              ∧ ∃ x, t.sup.status.writing = some x ∧ x.base = a.statusBase
                ∧ x.words = w.statusWords (s.sup.status.sequence + 1))
          ∧ (∀ a, s.sup.anchor = some a → s.sup.status.writing ≠ none →
              t.sup.status = { s.sup.status with followUp := true })))
  ∧ ∀ (s : State) (k : Nat), s.resolveMany 0 = s ∧ s.resolveMany (k + 1) = s.resolve.resolveMany k

/-! ## Switchover -/

/-- A switch of a set moves every member together, each with its own length, and touches no other group: SwitchStarted
of each, and with length 0 SwitchFinished, Immediate, behind it (members ascending and Started before Finished: the
model's choice, log 47); both tally lines follow. A cut to role r leaves a member ON_r, cuts the fade of a member TO_r
short at ResolveFront with SwitchFinished, CutShort, and switches any other with length 0; after a cut that found a
member fading the set is evaluated. The evaluation of a set: nothing while a member fades; a FAILED rig served by every
member brings the switch to the other role when no member is held, DIVERGED or without a SOUND rig there, and else one
SwitchWithheld with the first failing reason, the lowest member of the trigger and the lowest failing one; without a
trigger WithheldReported is cleared, and a set on BACKUP returns when every member allows it. A fade end puts the group
ON its target and evaluates its set. -/
def Obligations.SwitchAndCut : Prop :=
  (∀ (s : State) (ms : List Nat) (r : Role) (fade : Bool) (cause : SwitchCause) (len : Nat → Nat)
    (started finished : Nat → Notice), ms.Nodup →
    (∀ g, len g = (if fade = true ∧ s.part.state ≠ .armed then (s.group g).fadeLength else 0)) →
    (∀ g, started g = { group := some g, source := some (s.rigOf r), period := s.part.period
                        body := .switchStarted (s.group g).targetRole r cause (len g) s.resolver.resolveFront
                          (s.group g).linkSet (sat16 (s.group g).switchCount) }) →
    (∀ g, finished g = { group := some g, source := some (s.rigOf r), period := s.part.period
                         body := .switchFinished r .immediate cause s.resolver.resolveFront }) →
    ∃ t, t = s.switchSet ms r fade cause ∧ t = { s with groups := t.groups, notices := t.notices, lines := t.lines }
    ∧ (∀ g ∈ ms, t.group g = { s.group g with
        switchPoint := s.resolver.resolveFront
        targetRole := r
        selectState := if len g = 0 then (if r = .main then .onMain else .onBackup)
          else (if r = .main then .toMain else .toBackup)
        fadeEnd := s.resolver.resolveFront + len g
        lastSwitchPoint := if len g = 0 then some s.resolver.resolveFront else (s.group g).lastSwitchPoint
        lastSwitchCause := cause
        switchCount := if (s.group g).switchCount < 65535 then (s.group g).switchCount + 1
          else (s.group g).switchCount
        withheldReported := false })
    ∧ (∀ g, g ∉ ms → t.group g = s.group g)
    ∧ t.notices = (if s.part.state = .quiet then s.notices else ms.foldl (fun u g =>
        if len g = 0 then (u.post (started g)).post (finished g) else u.post (started g)) s.notices)
    ∧ t.lines = { s.lines with
        tallyMain := (List.range 8).any (fun g => (t.group g).defined && (t.group g).targetRole == .main)
        tallyBackup := (List.range 8).any (fun g => (t.group g).defined && (t.group g).targetRole == .backup) })
  ∧ (∀ (s : State) (r : Role) (cause : SwitchCause) (g : Nat),
    ((s.group g).selectState = .on r → s.cutMember r cause g = s)
    ∧ ((s.group g).selectState = .to r → s.part.state ≠ .quiet →
        ∃ t, t = s.cutMember r cause g
          ∧ t = { s with
              groups := t.groups
              notices := s.notices.post
                { group := some g, source := some (s.rigOf (s.group g).targetRole), period := s.part.period
                  body := .switchFinished (s.group g).targetRole .cutShort (s.group g).lastSwitchCause
                    s.resolver.resolveFront } }
          ∧ t.group g = { s.group g with selectState := .on r, lastSwitchPoint := some s.resolver.resolveFront })
    ∧ ((s.group g).selectState ≠ .on r → (s.group g).selectState ≠ .to r → s.part.state ≠ .quiet →
        ∃ t, t = s.cutMember r cause g
          ∧ t = { s with
              groups := t.groups
              notices := (s.notices.post
                { group := some g, source := some (s.rigOf r), period := s.part.period
                  body := .switchStarted (s.group g).targetRole r cause 0 s.resolver.resolveFront (s.group g).linkSet
                    (sat16 (s.group g).switchCount) }).post
                { group := some g, source := some (s.rigOf r), period := s.part.period
                  body := .switchFinished r .immediate cause s.resolver.resolveFront } }
          ∧ t.group g = { s.group g with
              switchPoint := s.resolver.resolveFront, targetRole := r, selectState := .on r
              fadeEnd := s.resolver.resolveFront, lastSwitchPoint := some s.resolver.resolveFront
              lastSwitchCause := cause, switchCount := sat16 (s.group g).switchCount })
    ∧ ∀ h, h ≠ g → (s.cutMember r cause g).group h = s.group h)
  ∧ (∀ (s cut cleared tallied : State) (r : Role) (cause : SwitchCause) (g : Nat) (ms : List Nat), ms = s.members g →
    cut = ms.foldl (fun t m => t.cutMember r cause m) s →
    cleared = (if ms.all (fun m => (s.group m).selectState == .on r || (s.group m).selectState == .to r) = true then cut
      else cut.setWithheld ms false) →
    tallied = { cleared with
      lines := { s.lines with
        tallyMain := (List.range 8).any (fun m => (cleared.group m).defined && (cleared.group m).targetRole == .main)
        tallyBackup :=
          (List.range 8).any (fun m => (cleared.group m).defined && (cleared.group m).targetRole == .backup) } } →
    s.cutSet r cause g = (if ms.any (fun m => (s.group m).selectState.fading) = true then tallied.evaluate g else tallied))
  ∧ (∀ (s : State) (ms : List Nat) (v : Bool), ∃ t, t = s.setWithheld ms v ∧ t = { s with groups := t.groups }
    ∧ (∀ m ∈ ms, t.group m = { s.group m with withheldReported := v }) ∧ ∀ m, m ∉ ms → t.group m = s.group m)
  ∧ (∀ (s : State) (g : Nat) (ms : List Nat), ms = s.members g →
    ((∃ m ∈ ms, (s.group m).selectState.fading = true) → s.evaluate g = s)
    ∧ (∀ (r : Role) (f : Nat), (∀ m ∈ ms, (s.group m).selectState = .on r.other) →
        f ∈ ms → s.verdict f r.other = .failed → (∀ m ∈ ms, m < f → s.verdict m r.other ≠ .failed) →
      ((∀ m ∈ ms, (s.group m).hold = false ∧ (s.healthOf m).agreement.verdict ≠ .diverged ∧ s.verdict m r = .sound) →
        s.evaluate g = s.switchSet ms r true (if r = .backup then .verdict else .return))
      ∧ (∀ (why : WithheldReason) (x : Nat), x ∈ ms → s.part.state ≠ .quiet →
          (why = .held ∧ (s.group x).hold = true ∧ ∀ m ∈ ms, m < x → (s.group m).hold = false)
          ∨ (why = .diverged ∧ (∀ m ∈ ms, (s.group m).hold = false)
              ∧ (s.healthOf x).agreement.verdict = .diverged
              ∧ ∀ m ∈ ms, m < x → (s.healthOf m).agreement.verdict ≠ .diverged)
          ∨ (why = (if r = .backup then .backupNotSound else .mainNotSound)
              ∧ (∀ m ∈ ms, (s.group m).hold = false ∧ (s.healthOf m).agreement.verdict ≠ .diverged)
              ∧ s.verdict x r ≠ .sound ∧ ∀ m ∈ ms, m < x → s.verdict m r = .sound) →
          ((∃ m ∈ ms, (s.group m).withheldReported = true) → s.evaluate g = s)
          ∧ ((∀ m ∈ ms, (s.group m).withheldReported = false) →
            ∃ u : State, s.evaluate g = u.setWithheld ms true ∧ u = { s with
              notices := s.notices.post
                { group := some f, source := some (s.rigOf r), period := s.part.period
                  body := .switchWithheld (s.group f).linkSet r why x } })))
    ∧ ((∀ m ∈ ms, (s.group m).selectState = .onMain ∧ s.verdict m .main ≠ .failed) →
        s.evaluate g = s.setWithheld ms false)
    ∧ (ms ≠ [] → (∀ m ∈ ms, (s.group m).selectState = .onBackup ∧ s.verdict m .backup ≠ .failed) →
      ((∀ m ∈ ms, (s.group m).autoReturn = true ∧ (s.group m).hold = false ∧ s.verdict m .main = .sound
          ∧ (s.healthOf m).agreement.verdict = .agreed) →
        s.evaluate g = (s.setWithheld ms false).switchSet ms .main true .return)
      ∧ ((∃ m ∈ ms, (s.group m).autoReturn = false ∨ (s.group m).hold = true ∨ s.verdict m .main ≠ .sound
          ∨ (s.healthOf m).agreement.verdict ≠ .agreed) →
        s.evaluate g = s.setWithheld ms false)))
  ∧ ∀ (s : State) (g n : Nat), s.part.state ≠ .quiet →
    ((s.group g).selectState.fading = true → n + 1 = (s.group g).fadeEnd →
      ∃ u : State, s.fadeEndReport g n = u.evaluate g ∧ u = { s with
          groups := u.groups
          notices := s.notices.post
            { group := some g, source := some (s.rigOf (s.group g).targetRole), period := s.part.period
              body := .switchFinished (s.group g).targetRole .faded (s.group g).lastSwitchCause (s.group g).fadeEnd } }
        ∧ u.group g = { s.group g with
            selectState := if (s.group g).targetRole = .main then .onMain else .onBackup
            lastSwitchPoint := some (s.group g).fadeEnd }
        ∧ ∀ m, m ≠ g → u.group m = s.group m)
    ∧ ((s.group g).selectState.fading = false ∨ n + 1 ≠ (s.group g).fadeEnd → s.fadeEndReport g n = s)

/-- The Takeover line: a falling edge begins a low period; a rising edge after 10 ms of it, in RUNNING, switches to
BACKUP every set that follows the line and stands wholly ON_MAIN, and both tally lines follow; any other rising edge
only ends the low period. The 10 ms are counted as 250,000 steps (the model's choice, log 20). While RESET_N is low
ResetCommand states the form. -/
def Obligations.TakeoverLine : Prop :=
  ∀ (dt : Nat) (s : State), s.lines.resetLow = false →
    exec (.takeoverFallingEdge dt) s
      = .next { s.advance dt with lines := { s.lines with takeoverLowSince := some (s.advance dt).timer.now } }
    ∧ (s.part.state ≠ .running ∨ s.lines.takeoverLowSince = none →
        exec (.takeoverRisingEdge dt) s
          = .next { s.advance dt with lines := { s.lines with takeoverLowSince := none } })
    ∧ (∀ t0, s.lines.takeoverLowSince = some t0 → (s.advance dt).timer.now < t0 + 250000 →
        exec (.takeoverRisingEdge dt) s
          = .next { s.advance dt with lines := { s.lines with takeoverLowSince := none } })
    ∧ (∀ t0, s.lines.takeoverLowSince = some t0 → t0 + 250000 ≤ (s.advance dt).timer.now → s.part.state = .running →
        ∃ t, exec (.takeoverRisingEdge dt) s = .next t
          ∧ t.lines.takeoverLowSince = none ∧ t.timer = (s.advance dt).timer ∧ t.part = s.part ∧ t.clock = s.clock
          ∧ t.mem = s.mem ∧ t.pool = s.pool ∧ t.health = s.health ∧ t.resolver = s.resolver
          ∧ ((∃ g ∈ s.definedGroups, (∃ m ∈ s.members g, (s.group m).followLine = true)
                ∧ ∀ m ∈ s.members g, (s.group m).selectState = .onMain) →
              t.lines.tallyBackup = true
              ∧ t.lines.tallyMain = t.definedGroups.any (fun g => (t.group g).targetRole == .main))
          ∧ ((∀ g ∈ s.definedGroups, (∀ m ∈ s.members g, (s.group m).followLine = false)
                ∨ ∃ m ∈ s.members g, (s.group m).selectState ≠ .onMain) →
              t = { s.advance dt with lines := { s.lines with takeoverLowSince := none } })
          ∧ ∀ g ∈ s.definedGroups,
            ((∃ m ∈ s.members g, (s.group m).followLine = true) → (∀ m ∈ s.members g, (s.group m).selectState = .onMain) →
              t.group g = { s.group g with
                switchPoint := s.resolver.resolveFront
                targetRole := .backup
                selectState := if (s.group g).fadeLength = 0 then .onBackup else .toBackup
                fadeEnd := s.resolver.resolveFront + (s.group g).fadeLength
                lastSwitchPoint := if (s.group g).fadeLength = 0 then some s.resolver.resolveFront
                  else (s.group g).lastSwitchPoint
                lastSwitchCause := .line
                switchCount := sat16 (s.group g).switchCount
                withheldReported := false })
            ∧ ((∀ m ∈ s.members g, (s.group m).followLine = false)
                  ∨ (∃ m ∈ s.members g, (s.group m).selectState ≠ .onMain) →
              t.group g = s.group g))

/-! ## The anchor -/

/-- The Go word, with no Local Port read under way (LocalPortWrites states the other form) and RESET_N high
(ResetCommand states the rest): any write passes through; a whole-word write of 1 starts an anchor take in QUIET and
STANDBY, waits behind a command, a teardown, a status write or a notice write, starts nothing while a take runs or a Go
waits, and is answered WRONG_STATE in ARMED and RUNNING. Waiting behind a status or a notice write is the model's
reading (log 13). -/
def Obligations.GoWrite : Prop :=
  ∀ (v : Word) (en : Enables) (s : State), s.burst = none → s.lines.resetLow = false →
    (¬(en = 15 ∧ v = 1) → exec (.goWrite v en) s = .next { s with mem := writeEnabled s.mem 0 v en })
    ∧ (s.part.state = .armed ∨ s.part.state = .running →
        exec (.goWrite 1 15) s = .next { s with mem := writeWord (writeWord s.mem 0 1) 4 2 })
    ∧ (s.part.state = .quiet ∨ s.part.state = .standby →
        (s.sup.take ≠ none ∨ s.sup.goPending = true →
          exec (.goWrite 1 15) s = .next { s with mem := writeWord s.mem 0 1 })
        ∧ (s.sup.take = none → s.sup.goPending = false →
          (s.sup.command.phase ≠ .idle ∨ s.sup.teardown ≠ none ∨ s.sup.status.writing ≠ none
              ∨ s.notices.writing = true →
            exec (.goWrite 1 15) s
              = .next { s with mem := writeWord s.mem 0 1, sup := { s.sup with goPending := true } })
          ∧ (s.sup.command.phase = .idle → s.sup.teardown = none → s.sup.status.writing = none →
              s.notices.writing = false →
            exec (.goWrite 1 15) s
              = .next { s with mem := writeWord s.mem 0 1
                               sup := { s.sup with take := some .reading, goPending := false } })))

/-- A Go that waited starts its take once nothing is in hand; by then in ARMED or RUNNING it is answered WRONG_STATE
(the model's reading, log 13), and a kick that stands is fetched. With no Go waiting, or while it must wait on, nothing
changes (the model's choice, log 1). -/
def Obligations.DeferredGo : Prop :=
  ∀ s : State,
    (s.sup.goPending = false ∨ s.sup.command.phase ≠ .idle ∨ s.sup.teardown ≠ none ∨ s.sup.status.writing ≠ none
        ∨ s.notices.writing = true → exec .deferredGo s = .next s)
    ∧ (s.sup.goPending = true → s.sup.command.phase = .idle → s.sup.teardown = none → s.sup.status.writing = none →
        s.notices.writing = false →
        (s.part.state = .quiet ∨ s.part.state = .standby →
          exec .deferredGo s = .next { s with sup := { s.sup with take := some .reading, goPending := false } })
        ∧ (s.part.state = .armed ∨ s.part.state = .running →
          exec .deferredGo s = .next { s with
            mem := writeWord s.mem 4 2
            sup := { s.sup with
              goPending := false
              command := { s.sup.command with phase := if s.sup.command.target = none then .idle else .fetching } } }))

/-- The checks of an anchor: ranges, alignment, inside DRAM, apart. -/
def Obligations.AnchorChecks : Prop :=
  ∀ (a : Anchor) (dram : Nat), a.ok dram = true ↔
    (16 ≤ a.commandRingEntries ∧ a.commandRingEntries ≤ 256 ∧ 64 ≤ a.noticeRingEntries ∧ a.noticeRingEntries ≤ 4096
      ∧ 2048 ≤ a.poolBuckets ∧ a.poolBuckets ≤ 65536)
    ∧ (a.commandRingBase % 64 = 0 ∧ a.noticeRingBase % 32 = 0 ∧ a.statusBase % 64 = 0
      ∧ a.channelDirectoryBase % 32 = 0 ∧ a.liveDirectoryBase % 4096 = 0 ∧ a.poolBase % 512 = 0)
    ∧ ∀ regions : List (Nat × Nat), regions =
        [(a.commandRingBase, a.commandRingEntries * 64), (a.noticeRingBase, a.noticeRingEntries * 32),
         (a.statusBase, 512), (a.channelDirectoryBase, 24576), (a.liveDirectoryBase, 524288),
         (a.poolBase, a.poolBuckets * 512)] →
      (∀ r ∈ regions, r.1 + r.2 ≤ dram) ∧ (∀ r ∈ regions, 64 ≤ r.1)
      ∧ regions.Pairwise (fun r q => r.1 + r.2 ≤ q.1 ∨ q.1 + q.2 ≤ r.1)

/-- The anchor is read: a read error or a failed check writes BAD_ANCHOR and changes nothing else, except that a kick
that stands is fetched and a status request that stands is begun; an anchor that passes initialises every block and
stays to be finished. That CoalesceCount and CoalesceTime take their defaults in this very step, with no count test on
the old ring and the interrupt line as it was, is the model's choice (log 48). That its words are all read at this row
is the model's choice (log 57). With no anchor being read nothing changes (the model's choice, log 1). -/
def Obligations.AnchorReadDone : Prop :=
  ∀ (error : Bool) (s : State),
    (s.sup.take ≠ some .reading → exec (.anchorReadDone error) s = .next s)
    ∧ (s.sup.take = some .reading → (error = true ∨ (readAnchor s.mem).ok s.lines.dramSize = false) →
        ∃ t, exec (.anchorReadDone error) s = .next t
          ∧ t = { s with
            mem := writeWord s.mem 4 9
            sup := { s.sup with
              take := none
              command := { s.sup.command with
                phase := if s.sup.command.phase = .idle ∧ s.sup.command.target ≠ none then .fetching
                  else s.sup.command.phase }
              status := t.sup.status } }
          ∧ (s.sup.status.followUp = false ∨ s.sup.anchor = none → t.sup.status = s.sup.status)
          ∧ (∀ a, s.sup.status.followUp = true → s.sup.anchor = some a →
              t.sup.status.sequence = s.sup.status.sequence + 1 ∧ t.sup.status.followUp = false
              ∧ ∃ w, t.sup.status.writing = some w ∧ w.base = a.statusBase))
    ∧ (∀ a, s.sup.take = some .reading → a = readAnchor s.mem → a.ok s.lines.dramSize = true →
        exec (.anchorReadDone false) s = .next { s with
          pool := { base := a.poolBase, buckets := a.poolBuckets, table := []
                    freeList := List.range' 1 (a.poolBuckets - 1)
                    quota := ⟨3 * (a.poolBuckets - 65) / 8, 3 * (a.poolBuckets - 65) / 8⟩
                    commonGuard := 128, exhaustReported := ⟨false, false⟩ }
          cache := { contexts := [], channelMap := [], lru := [], loads := [], ports := ⟨[], []⟩, sends := []
                     exhaustReported := false, strayWrites := ⟨0, 0⟩, expectSpan := 32, horizon := 32 }
          resolver := { resolveFront := 0, resolveLead := 4, releaseGrace := 2, readerEarly := 0, readerFault := 0
                        rings := [], writes := [] }
          blend := [], health := [], groups := [], landed := Landed.none
          lines := { s.lines with tallyMain := false, tallyBackup := false }
          sup := { s.sup with take := some (.initialising a), locked := false, port1Role := .main }
          notices := { s.notices with coalesceCount := 8, coalesceTime := 20 } })

/-- The end of a take: STANDBY, Period and StartBlock 0, the new anchor, empty rings, Anchor Result DONE; DRAM holds the
zero bucket, an empty Channel Directory and 128 EMPTY records, but for words of them taken before and overwritten since,
and every other byte is as it was; the status record is asked for. Words of the three regions may be taken before the
end, each once (that the end takes the rest is the model's reading, log 9; that the words of a region are taken upward
is its choice, log 51); no more words are counted as taken than the regions hold, which OrderKept keeps. With no take
that initialises nothing changes (the model's choice, log 1). -/
def Obligations.AnchorTakeEnd : Prop :=
  (∀ s : State, (∀ a, s.sup.take ≠ some (.initialising a)) → exec .anchorTakeEnd s = .next s)
  ∧ ∀ (s : State) (a : Anchor) (empty : Nat → Word), s.sup.take = some (.initialising a) →
    a.ok s.lines.dramSize = true → s.sup.status.writing = none →
    s.landed.zeroBucket ≤ 128 → s.landed.directory ≤ 6144 → s.landed.liveDirectory ≤ 131072 →
    (∀ j, empty j = if j = 1 ∨ j = 3 then 0xFFFFFFFF else if j = 2 then 0xFFFF else if j = 4 then 1 else 0) →
    ∃ t, exec .anchorTakeEnd s = .next t
      ∧ t.part = { s.part with state := .standby, period := 0, startBlock := 0, startGuard := false }
      ∧ t.clock = s.clock ∧ t.pool = s.pool ∧ t.cache = s.cache ∧ t.groups = s.groups ∧ t.health = s.health
      ∧ t.lines = { s.lines with interrupt := false }
      ∧ t.sup.anchor = some a ∧ t.sup.take = none ∧ t.sup.locked = s.sup.locked
      ∧ t.sup.command.next = 0 ∧ t.sup.command.target = none ∧ t.sup.command.phase = .idle
      ∧ t.notices.queue = [] ∧ t.notices.lost = false ∧ t.notices.writing = false ∧ t.notices.writeIndex = 0
      ∧ t.notices.lastHanded = a.noticeRingEntries - 1 ∧ t.notices.available = a.noticeRingEntries
      ∧ t.sup.status.sequence = s.sup.status.sequence + 1
      ∧ (∃ w, t.sup.status.writing = some w ∧ w.base = a.statusBase)
      ∧ readWord t.mem 4 = 1
      ∧ t.landed = { s.landed with zeroBucket := 0, directory := 0, liveDirectory := 0 }
      ∧ (∀ x, a.poolBase + 4 * s.landed.zeroBucket ≤ x → x < a.poolBase + 512 → readByte t.mem x = 0)
      ∧ (∀ x, a.channelDirectoryBase + 4 * s.landed.directory ≤ x → x < a.channelDirectoryBase + 24576 →
          readByte t.mem x = 0)
      ∧ (∀ i j, i < 128 → j < 1024 → s.landed.liveDirectory ≤ 1024 * i + j →
          readWord t.mem (a.liveDirectoryBase + 4096 * i + 4 * j) = empty j)
      ∧ (∀ x, x < 4 ∨ 8 ≤ x → x < a.poolBase + 4 * s.landed.zeroBucket ∨ a.poolBase + 512 ≤ x →
          x < a.channelDirectoryBase + 4 * s.landed.directory ∨ a.channelDirectoryBase + 24576 ≤ x →
          x < a.liveDirectoryBase + 4 * s.landed.liveDirectory ∨ a.liveDirectoryBase + 524288 ≤ x →
          readByte t.mem x = readByte s.mem x)
      ∧ ∀ n, ∃ z d l : State, z = s.took n .zeroBucket ∧ d = s.took n .directory ∧ l = s.took n .liveDirectory
        ∧ z = { s with mem := z.mem, landed := { s.landed with zeroBucket := min (s.landed.zeroBucket + n) 128 } }
        ∧ d = { s with mem := d.mem, landed := { s.landed with directory := min (s.landed.directory + n) 6144 } }
        ∧ l = { s with
            mem := l.mem, landed := { s.landed with liveDirectory := min (s.landed.liveDirectory + n) 131072 } }
        ∧ (∀ x, (a.poolBase + 4 * s.landed.zeroBucket ≤ x → x < a.poolBase + 4 * z.landed.zeroBucket →
              readByte z.mem x = 0)
            ∧ (x < a.poolBase + 4 * s.landed.zeroBucket ∨ a.poolBase + 4 * z.landed.zeroBucket ≤ x →
              readByte z.mem x = readByte s.mem x)
            ∧ (a.channelDirectoryBase + 4 * s.landed.directory ≤ x →
              x < a.channelDirectoryBase + 4 * d.landed.directory → readByte d.mem x = 0)
            ∧ (x < a.channelDirectoryBase + 4 * s.landed.directory ∨ a.channelDirectoryBase + 4 * d.landed.directory ≤ x →
              readByte d.mem x = readByte s.mem x)
            ∧ (x < a.liveDirectoryBase + 4 * s.landed.liveDirectory
                ∨ a.liveDirectoryBase + 4 * l.landed.liveDirectory ≤ x → readByte l.mem x = readByte s.mem x))
        ∧ ∀ i j, i < 128 → j < 1024 → s.landed.liveDirectory ≤ 1024 * i + j → 1024 * i + j < l.landed.liveDirectory →
            readWord l.mem (a.liveDirectoryBase + 4096 * i + 4 * j) = empty j

/-! ## The Command Unit -/

/-- A kick, with no Local Port read under way (LocalPortWrites states the other form) and RESET_N high (ResetCommand
states the rest): out of range is a fault, the entry just before Next is nothing to do, else Target, and a fetch from
IDLE unless a take runs or a Go waits (the Go's wait is the model's reading, log 13). -/
def Obligations.CommandKick : Prop :=
  ∀ (v : Word) (en : Enables) (s : State), s.burst = none → s.lines.resetLow = false →
    (en ≠ 15 ∨ s.sup.anchor = none → exec (.commandKick v en) s = .next { s with mem := writeEnabled s.mem 44 v en })
    ∧ ∀ a, s.sup.anchor = some a → s.part.state ≠ .quiet →
      (a.commandRingEntries ≤ v.toNat →
        exec (.commandKick v 15) s = .next { s with
          mem := writeWord s.mem 44 v
          notices := s.notices.post
            { group := none, source := none, period := s.part.period, body := .ringFault 1 v.toNat } })
      ∧ (v.toNat < a.commandRingEntries →
        (s.sup.command.phase = .idle → s.sup.command.target = none →
          v.toNat = (s.sup.command.next + a.commandRingEntries - 1) % a.commandRingEntries →
          exec (.commandKick v 15) s = .next { s with mem := writeWord s.mem 44 v })
        ∧ (s.sup.command.phase = .idle → s.sup.command.target ≠ none
              ∨ v.toNat ≠ (s.sup.command.next + a.commandRingEntries - 1) % a.commandRingEntries →
          exec (.commandKick v 15) s = .next { s with
            mem := writeWord s.mem 44 v
            sup := { s.sup with command := { s.sup.command with
              target := some v.toNat
              phase := if s.sup.take = none ∧ s.sup.goPending = false then .fetching else .idle } } })
        ∧ (s.sup.command.phase ≠ .idle →
          exec (.commandKick v 15) s = .next { s with
            mem := writeWord s.mem 44 v
            sup := { s.sup with command := { s.sup.command with target := some v.toNat } } }))

/-- The fetch of an entry: an error and a clear OWN stop processing with a fault, a set OWN begins the command with the
ten words DRAM holds, all at this row (the model's choice, log 57). With no entry being fetched nothing changes (the
model's choice, log 1). -/
def Obligations.CommandFetch : Prop :=
  ∀ (error : Bool) (s : State) (a : Anchor), s.sup.anchor = some a →
    (s.sup.command.phase ≠ .fetching → exec (.commandFetchDone error) s = .next s)
    ∧ (s.sup.command.phase = .fetching →
      (error = true ∨ (readWord s.mem (a.commandRingBase + 64 * s.sup.command.next)).getLsbD 31 = false →
        exec (.commandFetchDone error) s = .next { s with
          notices := if s.part.state = .quiet then s.notices else s.notices.post
            { group := none, source := none, period := s.part.period
              body := .ringFault (if error then 2 else 3) s.sup.command.next }
          sup := { s.sup with command := { s.sup.command with target := none, phase := .idle } } })
      ∧ (error = false → (readWord s.mem (a.commandRingBase + 64 * s.sup.command.next)).getLsbD 31 = true →
        exec (.commandFetchDone error) s = .next { s with
          sup := { s.sup with command := { s.sup.command with
            phase := .executing
            entry := (List.range 10).map (fun i => readWord s.mem (a.commandRingBase + 64 * s.sup.command.next + 4 * i))
            directoryWait := .none } } }))

/-- The result of an entry: word 10, words 11 to 15 for DONE and NO_CONTEXT alone, word 0 with OWN clear, the notice if
Notify was set, the next entry or the end of the run; nothing else of DRAM and nothing else of the part changes. While a
Go waits no further entry is fetched, and Target stays (log 13). Of the words in that order some may be taken before,
each once, and the row takes the rest (log 9): it leaves what it leaves without them. That the words of one write are
taken upward by address, where no rule orders them, is the model's choice (log 50). -/
def Obligations.CommandResultWritten : Prop :=
  ∀ (s : State) (a : Anchor) (e : Nat), s.sup.anchor = some a → s.sup.command.phase = .writing →
    e = a.commandRingBase + 64 * s.sup.command.next → s.sup.command.resultData.length = 5 →
    s.landed.result ≤ (if s.sup.command.result = .done ∨ s.sup.command.result = .noContext then 6 else 1) →
    (∀ n, exec .commandResultWritten (s.took n .result) = exec .commandResultWritten s
      ∧ (0 < n → s.landed.result = 0 → (readWord (s.took n .result).mem (e + 40)).toNat = s.sup.command.result.code))
    ∧ ∃ t, exec .commandResultWritten s = .next t
      ∧ t = { s with mem := t.mem, notices := t.notices, landed := { s.landed with result := 0 }
                     sup := { s.sup with command := t.sup.command, status := t.sup.status } }
      ∧ (s.landed.result = 0 → (readWord t.mem (e + 40)).toNat = s.sup.command.result.code)
      ∧ (0 < s.landed.result → ∀ x, e + 40 ≤ x → x < e + 44 → readByte t.mem x = readByte s.mem x)
      ∧ (s.sup.command.result = .done ∨ s.sup.command.result = .noContext →
          ∀ i, i < 5 → (s.landed.result ≤ i + 1 → readWord t.mem (e + 44 + 4 * i) = s.sup.command.resultData.getD i 0)
            ∧ (i + 1 < s.landed.result → readWord t.mem (e + 44 + 4 * i) = readWord s.mem (e + 44 + 4 * i)))
      ∧ (s.sup.command.result ≠ .done → s.sup.command.result ≠ .noContext →
          ∀ x, e + 44 ≤ x → x < e + 64 → readByte t.mem x = readByte s.mem x)
      ∧ readWord t.mem e = s.sup.command.entry.getD 0 0 &&& 0x40FF00FF
      ∧ (∀ x, x < e ∨ (e + 4 ≤ x ∧ x < e + 40) ∨ e + 64 ≤ x → readByte t.mem x = readByte s.mem x)
      ∧ t.notices = (if (s.sup.command.entry.getD 0 0).getLsbD 30 = true ∧ s.part.state ≠ .quiet then
          s.notices.post { group := none, source := none, period := s.part.period
                           body := .commandDone s.sup.command.next s.sup.command.kind s.sup.command.groupField
                             s.sup.command.result }
          else s.notices)
      ∧ (s.sup.command.target = some s.sup.command.next →
          t.sup.command = { s.sup.command with
            next := (s.sup.command.next + 1) % a.commandRingEntries, target := none, phase := .idle })
      ∧ (∀ j, s.sup.command.target = some j → j ≠ s.sup.command.next → s.sup.goPending = false →
          t.sup.command = { s.sup.command with
            next := (s.sup.command.next + 1) % a.commandRingEntries, phase := .fetching })
      ∧ (∀ j, s.sup.command.target = some j → j ≠ s.sup.command.next → s.sup.goPending = true →
          t.sup.command = { s.sup.command with
            next := (s.sup.command.next + 1) % a.commandRingEntries, phase := .idle })
      ∧ (s.sup.status.writing = none → s.sup.take = none →
          t.sup.status.sequence = s.sup.status.sequence + 1
          ∧ ∃ w, t.sup.status.writing = some w ∧ w.base = a.statusBase)

/-- A command that answers changes nothing but the Command Unit: Phase WRITING, its result, five result words. A Kind
that is not of the table is answered UNKNOWN_COMMAND; Locked, the part state and a missing group refuse in that order.
-/
def Obligations.GatingOfCommands : Prop :=
  (∀ (s : State) (r : ResultCode) (d : List Word),
    s.answerCommand r d = { s with sup := { s.sup with command :=
      { s.sup.command with phase := .writing, result := r, resultData := (d ++ [0, 0, 0, 0, 0]).take 5
                           directoryWait := .none } } })
  ∧ (∀ s : State, s.executing = true → s.sup.command.kind = 0 ∨ 14 < s.sup.command.kind →
      exec .unknownCommand s = .next (s.answerCommand .unknownCommand []))
  ∧ (∀ s : State, s.sup.locked = true →
      (s.hand 1 = true → exec .configureBridge s = .next (s.answerCommand .locked []))
      ∧ (s.hand 2 = true → exec .defineGroup s = .next (s.answerCommand .locked []))
      ∧ (s.hand 3 = true → exec .setThresholds s = .next (s.answerCommand .locked []))
      ∧ (s.hand 4 = true → exec .defineChannel s = .next (s.answerCommand .locked []))
      ∧ (s.hand 5 = true → exec .undefineChannel s = .next (s.answerCommand .locked []))
      ∧ (s.hand 7 = true → exec .armShow s = .next (s.answerCommand .locked []))
      ∧ (s.hand 8 = true → exec .endShow s = .next (s.answerCommand .locked [])))
  ∧ (∀ s : State, s.sup.locked = false → s.part.state ≠ .standby →
      (s.hand 1 = true → exec .configureBridge s = .next (s.answerCommand .wrongState []))
      ∧ (s.hand 2 = true → exec .defineGroup s = .next (s.answerCommand .wrongState []))
      ∧ (s.hand 4 = true → exec .defineChannel s = .next (s.answerCommand .wrongState []))
      ∧ (s.hand 5 = true → exec .undefineChannel s = .next (s.answerCommand .wrongState []))
      ∧ (s.hand 7 = true → exec .armShow s = .next (s.answerCommand .wrongState [])))
  ∧ (∀ s : State, s.part.state = .quiet ∨ s.part.state = .standby →
      (s.hand 8 = true → s.sup.locked = false → exec .endShow s = .next (s.answerCommand .wrongState []))
      ∧ (s.hand 9 = true → exec .switch s = .next (s.answerCommand .wrongState []))
      ∧ (s.hand 10 = true → exec .hold s = .next (s.answerCommand .wrongState []))
      ∧ (s.hand 11 = true → exec .releaseHold s = .next (s.answerCommand .wrongState []))
      ∧ (s.hand 12 = true → exec .queryCoverage s = .next (s.answerCommand .wrongState [])))
  ∧ (∀ s : State,
      (s.cmdGroup = 255 ∧ s.definedGroups = []) ∨ (s.cmdGroup ≠ 255 ∧ 7 < s.cmdGroup)
        ∨ (s.cmdGroup ≤ 7 ∧ (s.group s.cmdGroup).defined = false) →
      (s.hand 3 = true → s.sup.locked = false → exec .setThresholds s = .next (s.answerCommand .badParameter []))
      ∧ (s.cmdGroup ≠ 255 → s.part.state = .armed ∨ s.part.state = .running →
        (s.hand 9 = true → exec .switch s = .next (s.answerCommand .badParameter []))
        ∧ (s.hand 10 = true → exec .hold s = .next (s.answerCommand .badParameter []))
        ∧ (s.hand 11 = true → exec .releaseHold s = .next (s.answerCommand .badParameter []))))
  ∧ (∀ s : State, s.sup.locked = false → s.part.state = .standby → s.hand 4 = true →
      7 < s.cmdGroup ∨ (s.group s.cmdGroup).defined = false →
      exec .defineChannel s = .next (s.answerCommand .badParameter []))

/-- Lock sets Locked, Unlock clears it, whatever it was; the result carries the value it had. -/
def Obligations.LockAndUnlock : Prop :=
  ∀ s : State,
    (s.hand 13 = true → exec .lock s
      = .next ({ s with sup := { s.sup with locked := true } }.answerCommand .done [if s.sup.locked then 1 else 0]))
    ∧ (s.hand 14 = true → exec .unlock s
      = .next ({ s with sup := { s.sup with locked := false } }.answerCommand .done [if s.sup.locked then 1 else 0]))

/-- Configure Bridge in STANDBY, not Locked: with the Defaults flag the defaults, else the words if every one is in
range and the quotas leave room; each block takes its settings at once, and the interrupt tests are made with the new
ones: by the count, and by the time since the oldest unreturned entry was written (both at once: the model's reading,
log 33). Where neither holds the lines stay as they are. -/
def Obligations.ConfigureBridge : Prop :=
  ∀ (s : State) (b : BridgeSettings), s.hand 1 = true → s.sup.locked = false → s.part.state = .standby →
    (2 ≤ byteOf (s.cmdWord 2) 3 → exec .configureBridge s = .next (s.answerCommand .badParameter []))
    ∧ ((byteOf (s.cmdWord 2) 3 = 1 ∧ b =
          { port1Role := .main, quota1 := 3 * (s.pool.buckets - 65) / 8, quota2 := 3 * (s.pool.buckets - 65) / 8
            commonGuard := 128, horizon := 32, resolveLead := 4, releaseGrace := 2, expectSpan := 32
            coalesceCount := 8, coalesceTime := 20 })
        ∨ (byteOf (s.cmdWord 2) 3 = 0 ∧ byteOf (s.cmdWord 2) 0 ≤ 1 ∧ b =
          { port1Role := if byteOf (s.cmdWord 2) 0 = 0 then .main else .backup
            quota1 := (s.cmdWord 3).toNat, quota2 := (s.cmdWord 4).toNat, commonGuard := (s.cmdWord 5).toNat
            horizon := byteOf (s.cmdWord 6) 0, resolveLead := byteOf (s.cmdWord 6) 1
            releaseGrace := byteOf (s.cmdWord 6) 2, expectSpan := (s.cmdWord 7).toNat
            coalesceCount := lowHalf (s.cmdWord 8), coalesceTime := highHalf (s.cmdWord 8) }
          ∧ b.quota1 + b.quota2 ≤ s.pool.buckets - 65 ∧ b.commonGuard ≤ 65535 ∧ 20 ≤ b.horizon ∧ b.horizon ≤ 48
          ∧ 1 ≤ b.resolveLead ∧ b.resolveLead ≤ 12 ∧ 1 ≤ b.releaseGrace ∧ b.releaseGrace ≤ 3 ∧ 4 ≤ b.expectSpan
          ∧ b.expectSpan ≤ 255 ∧ 1 ≤ b.coalesceCount ∧ b.coalesceCount ≤ 64 ∧ b.coalesceTime ≤ 1000) →
      ∃ t, exec .configureBridge s = .next t
        ∧ t.pool = { s.pool with quota := ⟨b.quota1, b.quota2⟩, commonGuard := b.commonGuard }
        ∧ t.cache = { s.cache with horizon := b.horizon, expectSpan := b.expectSpan }
        ∧ t.resolver = { s.resolver with resolveLead := b.resolveLead, releaseGrace := b.releaseGrace }
        ∧ t.notices = { s.notices with coalesceCount := b.coalesceCount, coalesceTime := b.coalesceTime }
        ∧ t.sup = { s.sup with
            port1Role := b.port1Role
            command := { s.sup.command with
              phase := .writing, result := .done, directoryWait := .none
              resultData := [word b.quota1, word b.quota2, word (s.pool.buckets - 1 - b.quota1 - b.quota2 - 64), 0, 0] } }
        ∧ (s.lines.interrupt = true ∨ s.sup.anchor = none → t.lines = s.lines)
        ∧ (∀ a unreturned written, s.sup.anchor = some a → unreturned = a.noticeRingEntries - s.notices.available →
            written = Table.get 0 s.notices.writeTimes ((s.notices.lastHanded + 1) % a.noticeRingEntries) →
          (b.coalesceCount ≤ unreturned → t.lines = { s.lines with interrupt := true })
          ∧ (b.coalesceTime ≠ 0 → 0 < unreturned → written + b.coalesceTime < s.timer.now / 25000 →
              t.lines = { s.lines with interrupt := true })
          ∧ (unreturned < b.coalesceCount → b.coalesceTime = 0 ∨ unreturned = 0
                ∨ s.timer.now / 25000 ≤ written + b.coalesceTime →
              t.lines = s.lines))
        ∧ t.mem = s.mem ∧ t.part = s.part ∧ t.clock = s.clock ∧ t.groups = s.groups ∧ t.health = s.health)
    ∧ (byteOf (s.cmdWord 2) 3 = 0 →
        2 ≤ byteOf (s.cmdWord 2) 0 ∨ s.pool.buckets - 65 < (s.cmdWord 3).toNat + (s.cmdWord 4).toNat
          ∨ 65535 < (s.cmdWord 5).toNat ∨ byteOf (s.cmdWord 6) 0 < 20 ∨ 48 < byteOf (s.cmdWord 6) 0
          ∨ byteOf (s.cmdWord 6) 1 = 0 ∨ 12 < byteOf (s.cmdWord 6) 1 ∨ byteOf (s.cmdWord 6) 2 = 0
          ∨ 3 < byteOf (s.cmdWord 6) 2 ∨ (s.cmdWord 7).toNat < 4 ∨ 255 < (s.cmdWord 7).toNat
          ∨ lowHalf (s.cmdWord 8) = 0 ∨ 64 < lowHalf (s.cmdWord 8) ∨ 1000 < highHalf (s.cmdWord 8) →
        exec .configureBridge s = .next (s.answerCommand .badParameter []))

/-! ## The setup commands -/

/-- Define Group in STANDBY, not Locked, fields in range, with every other member of the new group's link set ON_MAIN,
its MAIN not FAILED and nothing withheld, as a part in STANDBY has them: the record, the health and the ring of the
group are new, no other group changes, the tallies follow. WindowEnd, which R134 leaves undefined here, is 0 in the new
health record (the model's choice, log 4, unsafe). The new ring has PlayBase 0, every slot EMPTY and its report flags
clear; that every slot carries block 0 until Arm Show is the model's choice (log 40). -/
def Obligations.DefineGroup : Prop :=
  ∀ (s : State) (gr : GroupRecord), s.hand 2 = true → s.sup.locked = false → s.part.state = .standby →
    (7 < s.cmdGroup ∨ 2 ≤ byteOf (s.cmdWord 4) 3 → exec .defineGroup s = .next (s.answerCommand .badParameter []))
    ∧ (byteOf (s.cmdWord 4) 3 = 0 →
        4 < byteOf (s.cmdWord 2) 0 ∨ 16 < byteOf (s.cmdWord 2) 1 ∨ 1 < byteOf (s.cmdWord 3) 0 ∨ 8 < byteOf (s.cmdWord 3) 1
          ∨ 1 < byteOf (s.cmdWord 4) 0 ∨ 1 < byteOf (s.cmdWord 4) 1 ∨ 1 < byteOf (s.cmdWord 4) 2 →
        exec .defineGroup s = .next (s.answerCommand .badParameter []))
    ∧ (s.cmdGroup ≤ 7 →
      (byteOf (s.cmdWord 4) 3 = 1 ∧ gr =
          { defined := true, linkSet := 0, fadeLength := 0, fillMode := .silence, repeatLimit := 2, patch := false
            autoReturn := false, followLine := false, hold := false, selectState := .onMain, targetRole := .main
            switchPoint := 0, fadeEnd := 0, lastSwitchPoint := none, lastSwitchCause := .none, switchCount := 0
            withheldReported := false })
        ∨ (byteOf (s.cmdWord 4) 3 = 0 ∧ gr =
          { defined := true, linkSet := byteOf (s.cmdWord 2) 0, fadeLength := byteOf (s.cmdWord 2) 1
            fillMode := if byteOf (s.cmdWord 3) 0 = 1 then .repeatLast else .silence
            repeatLimit := byteOf (s.cmdWord 3) 1, patch := byteOf (s.cmdWord 4) 0 == 1
            autoReturn := byteOf (s.cmdWord 4) 1 == 1, followLine := byteOf (s.cmdWord 4) 2 == 1
            hold := false, selectState := .onMain, targetRole := .main
            switchPoint := 0, fadeEnd := 0, lastSwitchPoint := none, lastSwitchCause := .none, switchCount := 0
            withheldReported := false }
          ∧ byteOf (s.cmdWord 2) 0 ≤ 4 ∧ byteOf (s.cmdWord 2) 1 ≤ 16 ∧ byteOf (s.cmdWord 3) 0 ≤ 1
          ∧ byteOf (s.cmdWord 3) 1 ≤ 8 ∧ byteOf (s.cmdWord 4) 0 ≤ 1 ∧ byteOf (s.cmdWord 4) 1 ≤ 1
          ∧ byteOf (s.cmdWord 4) 2 ≤ 1) →
      (∀ m ∈ s.definedGroups, m ≠ s.cmdGroup → gr.linkSet ≠ 0 → (s.group m).linkSet = gr.linkSet →
        (s.group m).selectState = .onMain ∧ (s.healthOf m).main.verdict ≠ .failed
          ∧ (s.group m).withheldReported = false) →
      ∃ t, exec .defineGroup s = .next t
        ∧ t.group s.cmdGroup = gr
        ∧ t.healthOf s.cmdGroup =
          { settings :=
              { windowLength := 64, maxDamaged := 0, maxOffTime := 2, maxRepeats := 4, maxMisses := 0
                maxCommonDraws := 65535, leadFloor := 2, missTrip := 3, failAfter := 2, soundAfter := 3, maxDisagree := 0
                divergeAfter := 2, agreeAfter := 2, report := false }
            pendingSettings := none, main := .start, backup := .start, agreement := .start, windowOpen := false
            windowEnd := 0 }
        ∧ t.ring s.cmdGroup = { playBase := 0, slots := [], readerLateReported := false, mapFaultReported := false }
        ∧ (∀ m, m ≠ s.cmdGroup → t.group m = s.group m ∧ t.healthOf m = s.healthOf m ∧ t.ring m = s.ring m)
        ∧ t.lines.tallyMain = true
        ∧ t.lines.tallyBackup = t.definedGroups.any (fun m => (t.group m).targetRole == .backup)
        ∧ t.sup = (s.answerCommand .done [if (s.group s.cmdGroup).defined then 1 else 0]).sup
        ∧ t.mem = s.mem ∧ t.part = s.part ∧ t.clock = s.clock ∧ t.pool = s.pool ∧ t.cache = s.cache
        ∧ t.notices = s.notices)

/-- Set Thresholds, not Locked: the named groups take the set of the entry's words, at once, or as pending while
RUNNING. -/
def Obligations.SetThresholds : Prop :=
  ∀ (s : State) (st : HealthSettings) (named : List Nat), s.hand 3 = true → s.sup.locked = false →
    st = { windowLength := lowHalf (s.cmdWord 2), report := highHalf (s.cmdWord 2) == 1
           maxDamaged := lowHalf (s.cmdWord 3), maxOffTime := highHalf (s.cmdWord 3)
           maxRepeats := lowHalf (s.cmdWord 4), maxMisses := highHalf (s.cmdWord 4)
           maxCommonDraws := lowHalf (s.cmdWord 5), maxDisagree := highHalf (s.cmdWord 5)
           leadFloor := byteOf (s.cmdWord 6) 0, missTrip := byteOf (s.cmdWord 6) 1
           failAfter := byteOf (s.cmdWord 7) 0, soundAfter := byteOf (s.cmdWord 7) 1
           divergeAfter := byteOf (s.cmdWord 7) 2, agreeAfter := byteOf (s.cmdWord 7) 3 } →
    ((s.cmdGroup = 255 ∧ s.definedGroups = []) ∨ (7 < s.cmdGroup ∧ s.cmdGroup ≠ 255)
        ∨ (s.cmdGroup ≤ 7 ∧ (s.group s.cmdGroup).defined = false) →
      exec .setThresholds s = .next (s.answerCommand .badParameter []))
    ∧ (((s.cmdGroup = 255 ∧ s.definedGroups ≠ [] ∧ named = s.definedGroups)
          ∨ (s.cmdGroup ≤ 7 ∧ (s.group s.cmdGroup).defined = true ∧ named = [s.cmdGroup])) →
      (st.windowLength < 8 ∨ 1024 < st.windowLength ∨ 2 ≤ highHalf (s.cmdWord 2) ∨ 48 < st.leadFloor
          ∨ st.failAfter = 0 ∨ 15 < st.failAfter ∨ st.soundAfter = 0 ∨ 15 < st.soundAfter ∨ st.divergeAfter = 0
          ∨ 15 < st.divergeAfter ∨ st.agreeAfter = 0 ∨ 15 < st.agreeAfter →
        exec .setThresholds s = .next (s.answerCommand .badParameter []))
      ∧ (8 ≤ st.windowLength → st.windowLength ≤ 1024 → highHalf (s.cmdWord 2) ≤ 1 → st.leadFloor ≤ 48 →
          1 ≤ st.failAfter → st.failAfter ≤ 15 → 1 ≤ st.soundAfter → st.soundAfter ≤ 15 → 1 ≤ st.divergeAfter →
          st.divergeAfter ≤ 15 → 1 ≤ st.agreeAfter → st.agreeAfter ≤ 15 →
        ∃ t, exec .setThresholds s = .next t
          ∧ t = { s.answerCommand .done [word named.length, if s.part.state = .running then 1 else 0] with
                  health := t.health }
          ∧ (∀ g ∈ named, t.healthOf g = (if s.part.state = .running then
                { s.healthOf g with pendingSettings := some st }
              else { s.healthOf g with settings := st }))
          ∧ (∀ g, g ∉ named → t.healthOf g = s.healthOf g)))

/-- Define Channel in STANDBY, not Locked, asks for the directory read; its answer, or that of Read Context, ends the
command, with the whole entry as it stands at that row (the model's choice, log 57). Undefine Channel clears the entry
at once. Only the 32 bytes of the entry change. -/
def Obligations.ChannelDefinition : Prop :=
  ∀ (s : State) (a : Anchor) (c e : Nat), s.sup.anchor = some a → c = s.cmdChannel →
    e = a.channelDirectoryBase + 32 * c →
    (s.sup.locked = false → s.part.state = .standby → s.hand 4 = true →
      (767 < c ∨ 7 < s.cmdGroup ∨ 1 < (s.cmdWord 2).toNat ∨ (s.group s.cmdGroup).defined = false →
        exec .defineChannel s = .next (s.answerCommand .badParameter []))
      ∧ (c ≤ 767 → s.cmdGroup ≤ 7 → (s.cmdWord 2).toNat ≤ 1 → (s.group s.cmdGroup).defined = true →
        exec .defineChannel s
          = .next { s with sup := { s.sup with command := { s.sup.command with directoryWait := .read } } }))
    ∧ (s.sup.locked = false → s.part.state = .standby → s.hand 5 = true →
      (767 < c → exec .undefineChannel s = .next (s.answerCommand .badParameter []))
      ∧ (c ≤ 767 → ∃ t, exec .undefineChannel s = .next t
        ∧ t = { s.answerCommand .done [] with mem := t.mem }
        ∧ (∀ x, e ≤ x → x < e + 32 → readByte t.mem x = 0)
        ∧ (∀ x, x < e ∨ e + 32 ≤ x → readByte t.mem x = readByte s.mem x)))
    ∧ (s.sup.command.phase = .executing → s.sup.command.directoryWait = .read →
      exec (.commandDirectoryReadDone true) s = .next (s.answerCommand .memoryFault [])
      ∧ (s.sup.command.kind = 4 → ∃ t, exec (.commandDirectoryReadDone false) s = .next t
        ∧ t = { s.answerCommand .done [if (readWord s.mem e).getLsbD 0 then 1 else 0] with mem := t.mem }
        ∧ (readWord t.mem e).toNat = 1 + 4 * (if s.cmdWord 2 = 1 then 1 else 0) + 256 * (s.cmdGroup % 8)
        ∧ readWord t.mem (e + 4) = (if (readWord s.mem e).getLsbD 0 then readWord s.mem (e + 4) else 0)
        ∧ readWord t.mem (e + 8) = (if (readWord s.mem e).getLsbD 0 then readWord s.mem (e + 8) else 0)
        ∧ (∀ x, e + 12 ≤ x → x < e + 32 → readByte t.mem x = 0)
        ∧ (∀ x, x < e ∨ e + 32 ≤ x → readByte t.mem x = readByte s.mem x))
      ∧ (s.sup.command.kind = 6 → ∃ d, exec (.commandDirectoryReadDone false) s = .next (s.answerCommand .noContext d)
        ∧ d.length = 5 ∧ d.getD 1 0 = 0 ∧ d.getD 2 0 = readWord s.mem (e + 4) ∧ d.getD 3 0 = readWord s.mem (e + 8)
        ∧ d.getD 4 0 = 0
        ∧ (d.getD 0 0).toNat = c % 65536 + 65536 * ((readWord s.mem e).toNat / 256 % 8)
            + 16777216 * ((if (readWord s.mem e).getLsbD 2 then 1 else 0)
                + 4 * (if (readWord s.mem e).getLsbD 0 then 1 else 0))))

/-- Read Context answers from the VALID context, or waits for the directory, behind the write-back of its own channel.
Query Coverage answers both its forms from the lists as they stand. Neither changes anything but the Command Unit. A
VALID context is reported Defined (the model's reading, log 25). Coverage of a retained list at m is the length of its
unbroken run from m, reach the distance of its tail, MinCoverage the least coverage at ResolveFront over the Streaming
channels of the group, Gaps the number of those whose list lacks ResolveFront. -/
def Obligations.ReadContextAndQueryCoverage : Prop :=
  (∀ (m : Nat) (es : List Entry), es.Pairwise (fun e f => e.block < f.block) →
    (∀ i, i < coverageFrom m es → ∃ e ∈ es, e.block = m + i) ∧ ∀ e ∈ es, e.block ≠ m + coverageFrom m es)
  ∧ (∀ (m : Nat) (es : List Entry), (es = [] → reach m es = 0)
    ∧ ∀ pre e, es = pre ++ [e] → m ≤ e.block → reach m es = e.block - m + 1)
  ∧ (∀ (s : State) (g : Nat) (r : Rig) (channels streaming : List Context),
    channels = (s.cache.validContexts.map s.context).filter (fun x => decide (x.group = g)) →
    streaming = channels.filter (fun x => x.streaming) →
    (s.contextsOf g).length = channels.length ∧ (s.streamingOf g).length = streaming.length
    ∧ (streaming = [] → s.minCoverage g r = 0)
    ∧ (streaming ≠ [] → ∃ x ∈ streaming, s.minCoverage g r = coverageFrom s.resolver.resolveFront (x.lists.get r))
    ∧ (∀ x ∈ streaming, s.minCoverage g r ≤ coverageFrom s.resolver.resolveFront (x.lists.get r))
    ∧ s.gaps g r = streaming.countP (fun x => (x.lists.get r).all (fun e => e.block != s.resolver.resolveFront)))
  ∧ ∀ s : State,
    (s.hand 6 = true →
      (767 < s.cmdChannel → exec .readContext s = .next (s.answerCommand .badParameter []))
      ∧ (∀ k x, s.cmdChannel ≤ 767 → s.cache.mapEntry s.cmdChannel = some k → x = s.context k →
        exec .readContext s = .next (s.answerCommand .done
          [packHalves x.channel (x.group % 256 + 256 * (x.kind.code + 2 * (if x.streaming then 1 else 0) + 4)),
           packBytes x.lists.rig1.length x.lists.rig2.length
            ((x.lane .rig1 0).state.code + 4 * (x.lane .rig1 1).state.code + 16 * (x.lane .rig1 2).state.code
              + 64 * (x.lane .rig1 3).state.code)
            ((x.lane .rig2 0).state.code + 4 * (x.lane .rig2 1).state.code + 16 * (x.lane .rig2 2).state.code
              + 64 * (x.lane .rig2 3).state.code),
           packHalves x.accepted.rig1 x.accepted.rig2, packHalves x.damaged.rig1 x.damaged.rig2, 0]))
      ∧ (s.cmdChannel ≤ 767 → s.cache.mapEntry s.cmdChannel = none →
        exec .readContext s = .next { s with sup := { s.sup with command := { s.sup.command with
          directoryWait := if s.cache.evicting s.cmdChannel then .writeback else .read } } }))
    ∧ (s.hand 12 = true → s.part.state = .armed ∨ s.part.state = .running →
      (s.cmdWord 1 ≠ 0xFFFFFFFF → 767 < s.cmdChannel → exec .queryCoverage s = .next (s.answerCommand .badParameter []))
      ∧ (s.cmdWord 1 = 0xFFFFFFFF → 7 < s.cmdGroup ∨ (s.group s.cmdGroup).defined = false →
        exec .queryCoverage s = .next (s.answerCommand .badParameter []))
      ∧ (s.cmdWord 1 ≠ 0xFFFFFFFF → s.cmdChannel ≤ 767 → s.cache.mapEntry s.cmdChannel = none →
        exec .queryCoverage s = .next (s.answerCommand .noContext
          [0, 0, blockLow s.resolver.resolveFront, blockHigh s.resolver.resolveFront]))
      ∧ (∀ k x, s.cmdWord 1 ≠ 0xFFFFFFFF → s.cmdChannel ≤ 767 → s.cache.mapEntry s.cmdChannel = some k →
        x = s.context k →
        exec .queryCoverage s = .next (s.answerCommand .done
          [packBytes x.lists.rig1.length x.lists.rig2.length (coverageFrom s.resolver.resolveFront x.lists.rig1)
            (coverageFrom s.resolver.resolveFront x.lists.rig2),
           packBytes (reach s.resolver.resolveFront x.lists.rig1) (reach s.resolver.resolveFront x.lists.rig2)
            (if x.streaming then 1 else 0) 0,
           blockLow s.resolver.resolveFront, blockHigh s.resolver.resolveFront, 0]))
      ∧ (s.cmdWord 1 = 0xFFFFFFFF → s.cmdGroup ≤ 7 → (s.group s.cmdGroup).defined = true →
        exec .queryCoverage s = .next (s.answerCommand .done
          [packBytes (s.contextsOf s.cmdGroup).length (s.streamingOf s.cmdGroup).length 0 0,
           packBytes (s.minCoverage s.cmdGroup .rig1) (s.minCoverage s.cmdGroup .rig2) (s.gaps s.cmdGroup .rig1)
            (s.gaps s.cmdGroup .rig2),
           blockLow s.resolver.resolveFront, blockHigh s.resolver.resolveFront, 0])))

/-! ## Arming and ending the show -/

/-- Arm Show in STANDBY, not Locked: ARMED with Period, StartBlock, ResolveFront and every PlayBase at the parameter,
every slot EMPTY with its number, the switch figures and health records of every defined group at their start.
WindowEnd, which R134 leaves undefined here, keeps its value (the model's choice, log 4, unsafe). -/
def Obligations.ArmShow : Prop :=
  ∀ (s : State) (b : Nat), s.hand 7 = true → s.sup.locked = false → s.part.state = .standby →
    b = (s.cmdWord 2).toNat + 4294967296 * (s.cmdWord 3).toNat →
    (s.definedGroups = [] → exec .armShow s = .next (s.answerCommand .wrongState []))
    ∧ (s.definedGroups ≠ [] →
      (281474976710656 - 1099511627776 ≤ b → exec .armShow s = .next (s.answerCommand .badParameter []))
      ∧ (b < 281474976710656 - 1099511627776 → ∃ t, exec .armShow s = .next t
        ∧ t.part = { s.part with state := .armed, period := b, startBlock := b, startGuard := false }
        ∧ t.resolver.resolveFront = b ∧ t.resolver.readerEarly = 0 ∧ t.resolver.readerFault = 0
        ∧ t.resolver.resolveLead = s.resolver.resolveLead ∧ t.resolver.releaseGrace = s.resolver.releaseGrace
        ∧ t.cache = { s.cache with exhaustReported := false, strayWrites := ⟨0, 0⟩ }
        ∧ t.pool = { s.pool with exhaustReported := ⟨false, false⟩ }
        ∧ t.notices = { s.notices with lost := false }
        ∧ t.sup = (s.answerCommand .done [word s.clock.state.code]).sup
        ∧ t.clock = s.clock ∧ t.mem = s.mem ∧ t.lines = s.lines ∧ t.blend = s.blend
        ∧ (∀ g ∈ s.definedGroups,
            t.group g = { s.group g with switchPoint := b, fadeEnd := b, lastSwitchPoint := none
                                         lastSwitchCause := .none, switchCount := 0, withheldReported := false }
            ∧ t.healthOf g = { s.healthOf g with main := .start, backup := .start, agreement := .start
                                                 windowOpen := false }
            ∧ (t.ring g).playBase = b ∧ (t.ring g).readerLateReported = false ∧ (t.ring g).mapFaultReported = false
            ∧ (∀ k, k < 16 → (t.slot g k).state = .empty ∧ (t.slot g k).outstanding = 0 ∧ b ≤ (t.slot g k).block
                ∧ (t.slot g k).block < b + 16 ∧ (t.slot g k).block % 16 = k))
        ∧ (∀ g, g ∉ s.definedGroups → t.group g = s.group g ∧ t.healthOf g = s.healthOf g ∧ t.ring g = s.ring g)))

/-- End Show in ARMED or RUNNING, not Locked: STANDBY at once, queued jobs and held writes dropped. A running job holds
the teardown; without one every lane is IDLE, every list and slot empty, and the 128 slot records of DRAM are EMPTY
again, behind the Live Directory writes that were in flight; without loads too every context is written back, with
Cached clear and its lifetime counters, and dropped: that every context is FREE in the step that sends the write-backs
is the model's choice (log 45). The held writes are dropped at once (the model's reading, log 16), and the records are
in DRAM with the step that sends them (log 8). -/
def Obligations.EndShow : Prop :=
  ∀ (s : State) (a : Anchor) (empty : Nat → Word), s.hand 8 = true → s.sup.locked = false →
    s.part.state = .armed ∨ s.part.state = .running → s.sup.anchor = some a →
    (∀ j, empty j = if j = 1 ∨ j = 3 then 0xFFFFFFFF else if j = 2 then 0xFFFF else if j = 4 then 1 else 0) →
    ∃ t, exec .endShow s = .next t
      ∧ t.part = { s.part with state := .standby, startGuard := false }
      ∧ t.clock = s.clock ∧ t.timer = s.timer ∧ t.groups = s.groups ∧ t.health = s.health
      ∧ t.cache.ports = ⟨[], []⟩ ∧ t.cache.exhaustReported = false
      ∧ t.blend = s.blend.filter (fun j => j.phase != .queued)
      ∧ t.sup.command = s.sup.command ∧ t.resolver.resolveFront = s.resolver.resolveFront
      ∧ (∀ g, (t.ring g).playBase = (s.ring g).playBase)
      ∧ (t.blend ≠ [] → t.sup.teardown = some .flushing ∧ t.mem = s.mem ∧ t.resolver = s.resolver
          ∧ t.cache.contexts = s.cache.contexts)
      ∧ (t.blend = [] → (∀ g k, (t.slot g k).state = .empty ∧ (t.slot g k).map = []) ∧ t.resolver.writes = []
          ∧ (∀ k r l, (t.lane k r l).state = .idle)
          ∧ (∀ i j, i < 128 → j < 1024 → readWord t.mem (a.liveDirectoryBase + 4096 * i + 4 * j) = empty j)
          ∧ (∀ x, x < a.liveDirectoryBase ∨ a.liveDirectoryBase + 524288 ≤ x →
              readByte t.mem x = readByte (takeWrites s.mem (s.resolver.writes.map (fun w => (w.addr, w.words)))) x)
          ∧ (s.cache.loads ≠ [] → t.sup.teardown = some .waitingLoads ∧ t.cache.channelMap = s.cache.channelMap
              ∧ ∀ k, (t.context k).lists = ⟨[], []⟩ ∧ (t.context k).lastServed = none
                  ∧ (t.context k).residence = (s.context k).residence)
          ∧ (s.cache.loads = [] → t.cache.contexts = [] ∧ t.cache.channelMap = [] ∧ t.cache.lru = []
              ∧ (Table.wf Context.initial s.cache.contexts →
                  t.sup.teardown = some (.writingBack (s.cache.validContexts.map (fun k =>
                    (a.channelDirectoryBase + 32 * (s.context k).channel,
                     [packBytes (1 + (if (s.context k).kind = .data then 4 else 0)) ((s.context k).group % 8) 0 0,
                      packHalves (s.context k).accepted.rig1 (s.context k).accepted.rig2,
                      packHalves (s.context k).damaged.rig1 (s.context k).damaged.rig2, 0, 0, 0, 0, 0])))))))

/-- The end of the teardown: the write-backs are in DRAM and nothing else of it changed, every bucket is FREE, every
defined group is ON_MAIN and unjudged, the result is DONE. Words of the write-backs may be taken before, each once, and
the row takes the rest (log 9): it leaves what it leaves without them. That the words of one write are taken upward by
address, where no rule orders them, is the model's choice (log 50). -/
def Obligations.TeardownEnd : Prop :=
  ∀ (s : State) (ws : List (Nat × List Word)), s.sup.teardown = some (.writingBack ws) →
    (∀ n, exec .teardownEnd (s.took n .teardown) = exec .teardownEnd s
      ∧ ∃ k, k = min n ((ws.map (fun w => w.2.length)).sum - 1) ∧ s.took n .teardown = { s with
          mem := takeWrites s.mem (firstWords k ws)
          sup := { s.sup with teardown := some (.writingBack (afterWords k ws)) } })
    ∧ ∃ t, exec .teardownEnd s = .next t
      ∧ t.sup = { (s.answerCommand .done []).sup with teardown := none }
      ∧ t.mem = takeWrites s.mem ws
      ∧ (∀ x, (∀ w ∈ ws, x < w.1 ∨ w.1 + 4 * w.2.length ≤ x) → readByte t.mem x = readByte s.mem x)
      ∧ t.pool = { s.pool with table := [], freeList := List.range' 1 (s.pool.buckets - 1)
                               exhaustReported := ⟨false, false⟩ }
      ∧ (∀ c, t.pool.inUse c = 0)
      ∧ (∀ g ∈ s.definedGroups,
          t.group g = { s.group g with hold := false, selectState := .onMain, targetRole := .main
                                       withheldReported := false }
          ∧ (t.healthOf g).main = .start ∧ (t.healthOf g).backup = .start ∧ (t.healthOf g).agreement = .start
          ∧ (t.healthOf g).windowOpen = false ∧ (t.healthOf g).pendingSettings = none
          ∧ (t.healthOf g).settings = (s.healthOf g).pendingSettings.getD (s.healthOf g).settings)
      ∧ (∀ g, g ∉ s.definedGroups → t.group g = s.group g ∧ t.healthOf g = s.healthOf g)
      ∧ t.lines.tallyMain = !s.definedGroups.isEmpty ∧ t.lines.tallyBackup = false
      ∧ t.part = s.part ∧ t.clock = s.clock ∧ t.cache = s.cache ∧ t.resolver = s.resolver ∧ t.notices = s.notices

/-- The Switch command on the sets its Group field names. A fading member refuses a Fade with BUSY while RUNNING. Where
no member fades: with form Cut, or in ARMED, every member that is not ON_r moves with length 0; with form Fade while
RUNNING every set that is not wholly ON_r moves with its lengths. A Cut, or a Fade in ARMED, is a cut of each named set,
whatever its members' states (SwitchAndCut states the cut of a set, with its notices and the evaluation behind it); its
result counts the members switched and the fades cut short, and not what the evaluation behind a cut switches (the
model's choice, log 54). A cut of a set that holds fading members puts a member TO_r ON_r at ResolveFront and turns a
member TO_other round with length 0, up to the evaluation. The sets are taken in ascending order (the model's choice,
log 10). -/
def Obligations.SwitchCommand : Prop :=
  (∀ (s : State) (r : Role) (leaders : List Nat), s.hand 9 = true → s.part.state = .armed ∨ s.part.state = .running →
    leaders = (if s.cmdGroup = 255 then
      s.definedGroups.filter (fun g => (s.members g).head? == some g) else [s.cmdGroup]) →
    ((s.cmdGroup ≠ 255 ∧ 7 < s.cmdGroup) ∨ (s.cmdGroup ≤ 7 ∧ (s.group s.cmdGroup).defined = false) →
      exec .switch s = .next (s.answerCommand .badParameter []))
    ∧ (s.cmdGroup = 255 ∨ (s.cmdGroup ≤ 7 ∧ (s.group s.cmdGroup).defined = true) →
      (((s.cmdWord 1 ≠ 1 ∧ s.cmdWord 1 ≠ 2) ∨ (s.cmdWord 2 ≠ 0 ∧ s.cmdWord 2 ≠ 1)) →
        exec .switch s = .next (s.answerCommand .badParameter []))
      ∧ ((s.cmdWord 1 = 1 ∧ r = .main) ∨ (s.cmdWord 1 = 2 ∧ r = .backup) → s.cmdWord 2 = 0 ∨ s.cmdWord 2 = 1 →
        (s.cmdWord 2 = 0 → s.part.state = .running → (∃ m ∈ s.namedMembers, (s.group m).selectState.fading = true) →
          exec .switch s = .next (s.answerCommand .busy []))
        ∧ (s.cmdWord 2 = 1 ∨ s.part.state = .armed →
          exec .switch s = .next ((leaders.foldl (fun t g => t.cutSet r .command g) s).answerCommand .done
            [word ((leaders.flatMap s.members).countP
                (fun m => (s.group m).selectState == .on r.other || (s.group m).selectState == .to r.other)),
             word ((leaders.flatMap s.members).countP (fun m => (s.group m).selectState == .to r)),
             blockLow s.resolver.resolveFront, blockHigh s.resolver.resolveFront]))
        ∧ ((∀ m ∈ s.namedMembers, (s.group m).selectState.fading = false) → ∃ t, exec .switch s = .next t
          ∧ t.sup.command.phase = .writing ∧ t.sup.command.result = .done
          ∧ t.sup.command.resultData =
              [word (s.namedMembers.countP (fun m => (s.group m).selectState != .on r)), 0,
               blockLow s.resolver.resolveFront, blockHigh s.resolver.resolveFront, 0]
          ∧ t.mem = s.mem ∧ t.part = s.part ∧ t.pool = s.pool ∧ t.cache = s.cache ∧ t.resolver = s.resolver
          ∧ t.health = s.health ∧ t.blend = s.blend
          ∧ (∀ g ∈ s.namedMembers, (s.group g).selectState ≠ .on r →
              (t.group g).targetRole = r ∧ (t.group g).switchPoint = s.resolver.resolveFront
              ∧ (t.group g).lastSwitchCause = .command ∧ (t.group g).switchCount = sat16 (s.group g).switchCount
              ∧ (s.cmdWord 2 = 1 ∨ s.part.state = .armed →
                  (t.group g).selectState = .on r ∧ (t.group g).fadeEnd = s.resolver.resolveFront)
              ∧ (s.cmdWord 2 = 0 → s.part.state = .running →
                  (t.group g).selectState = (if (s.group g).fadeLength = 0 then .on r else .to r)
                  ∧ (t.group g).fadeEnd = s.resolver.resolveFront + (s.group g).fadeLength))
          ∧ (∀ g, g ∉ s.namedMembers → t.group g = s.group g)))))
  ∧ ∀ (s : State) (r : Role) (g : Nat) (ms : List Nat), ms = s.members g → ms.Nodup →
    (∃ m ∈ ms, (s.group m).selectState.fading = true) → s.part.state ≠ .quiet →
    ∃ u : State, s.cutSet r .command g = u.evaluate g
      ∧ u = { s with groups := u.groups, notices := u.notices, lines := u.lines }
      ∧ (∀ m ∈ ms, (s.group m).selectState = .on r ∨ (s.group m).selectState = .to r →
          (u.group m).targetRole = (s.group m).targetRole ∧ (u.group m).selectState = .on r
          ∧ (u.group m).switchPoint = (s.group m).switchPoint ∧ (u.group m).fadeEnd = (s.group m).fadeEnd
          ∧ (u.group m).lastSwitchCause = (s.group m).lastSwitchCause
          ∧ (u.group m).switchCount = (s.group m).switchCount
          ∧ (u.group m).lastSwitchPoint
              = (if (s.group m).selectState = .to r then some s.resolver.resolveFront else (s.group m).lastSwitchPoint))
      ∧ (∀ m ∈ ms, (s.group m).selectState = .on r.other ∨ (s.group m).selectState = .to r.other →
          u.group m = { s.group m with
            switchPoint := s.resolver.resolveFront, targetRole := r, selectState := .on r
            fadeEnd := s.resolver.resolveFront, lastSwitchPoint := some s.resolver.resolveFront
            lastSwitchCause := .command, switchCount := sat16 (s.group m).switchCount, withheldReported := false })
      ∧ ∀ m, m ∉ ms → u.group m = s.group m

/-- Hold sets Hold in every member of the named sets and changes nothing else of any group; Release Hold clears it and
then evaluates each named set (SwitchAndCut states an evaluation), in ascending order (the model's choice, log 10). The
result counts the groups whose Hold changed. -/
def Obligations.HoldAndRelease : Prop :=
  ∀ (s : State) (leaders : List Nat), s.part.state = .armed ∨ s.part.state = .running →
    leaders = (if s.cmdGroup = 255 then
      s.definedGroups.filter (fun g => (s.members g).head? == some g) else [s.cmdGroup]) →
    s.cmdGroup = 255 ∨ (s.cmdGroup ≤ 7 ∧ (s.group s.cmdGroup).defined = true) →
    (s.hand 10 = true → ∃ t, exec .hold s = .next t
      ∧ t = { s.answerCommand .done [word ((leaders.flatMap s.members).countP (fun m => (s.group m).hold != true))] with
              groups := t.groups }
      ∧ (∀ g ∈ leaders.flatMap s.members, t.group g = { s.group g with hold := true })
      ∧ (∀ g, g ∉ leaders.flatMap s.members → t.group g = s.group g))
    ∧ (s.hand 11 = true → ∃ u t : State, exec .releaseHold s = .next t
      ∧ u = { s with groups := u.groups }
      ∧ (∀ g ∈ leaders.flatMap s.members, u.group g = { s.group g with hold := false })
      ∧ (∀ g, g ∉ leaders.flatMap s.members → u.group g = s.group g)
      ∧ t = (leaders.foldl (fun v g => v.evaluate g) u).answerCommand .done
          [word ((leaders.flatMap s.members).countP (fun m => (s.group m).hold != false))]
      ∧ (∀ g ∈ leaders.flatMap s.members, (t.group g).hold = false)
      ∧ (∀ g, g ∉ leaders.flatMap s.members → t.group g = s.group g)
      ∧ t.mem = s.mem ∧ t.part = s.part ∧ t.pool = s.pool ∧ t.cache = s.cache ∧ t.resolver = s.resolver
      ∧ t.health = s.health)

/-! ## The notice ring and the status record -/

/-- Notice Return, with no Local Port read under way (LocalPortWrites states the other form) and RESET_N high
(ResetCommand states the rest): out of range and past the entries written are faults, no entry is nothing, else the
entries are handed back and the interrupt falls when none stays unreturned. -/
def Obligations.NoticeReturn : Prop :=
  ∀ (v : Word) (en : Enables) (s : State), s.burst = none → s.lines.resetLow = false →
    (en ≠ 15 ∨ s.sup.anchor = none → exec (.noticeReturn v en) s = .next { s with mem := writeEnabled s.mem 48 v en })
    ∧ ∀ a n count, s.sup.anchor = some a → s.part.state ≠ .quiet → n = a.noticeRingEntries →
      count = (v.toNat + n - s.notices.lastHanded) % n →
      (n ≤ v.toNat → exec (.noticeReturn v 15) s = .next { s with
        mem := writeWord s.mem 48 v
        notices := s.notices.post
          { group := none, source := none, period := s.part.period, body := .ringFault 4 v.toNat } })
      ∧ (v.toNat < n →
        (count = 0 → exec (.noticeReturn v 15) s = .next { s with mem := writeWord s.mem 48 v })
        ∧ (n - s.notices.available < count → exec (.noticeReturn v 15) s = .next { s with
          mem := writeWord s.mem 48 v
          notices := s.notices.post
            { group := none, source := none, period := s.part.period, body := .ringFault 5 v.toNat } })
        ∧ (count ≠ 0 → count ≤ n - s.notices.available → exec (.noticeReturn v 15) s = .next { s with
          mem := writeWord s.mem 48 v
          notices := { s.notices with available := s.notices.available + count, lastHanded := v.toNat }
          lines := { s.lines with
            interrupt := s.lines.interrupt && (n - (s.notices.available + count) != 0) } }))

/-- A notice is written into entry WriteIndex, its OWN word last and clear, with the kind code and the words of its kind
as R181 lays them out, field by field, and the code values of R179; it leaves the queue, and the interrupt line rises by
the count. The block words of a MemoryFault that names no block are 0 (the model's choice, log 49). The interrupt rises
by the time too, at a test of the local timer. What is not due changes nothing (the model's choice, log 1). Words of the
entry may be taken before its OWN word, each once, and the row takes the rest (log 9): it leaves what it leaves without
them. That the words of one write are taken upward by address, where no rule orders them, is the model's choice (log
50). -/
def Obligations.NoticeWrite : Prop :=
  ((∀ e k g r, (NoticeBody.commandDone e k g r).kind = 1 ∧ (NoticeBody.commandDone e k g r).words
        = [BitVec.ofNat 32 e, BitVec.ofNat 32 k, BitVec.ofNat 32 g, BitVec.ofNat 32 r.code])
    ∧ (∀ b n, (NoticeBody.showStarted b n).kind = 2
        ∧ (NoticeBody.showStarted b n).words = [blockLow b, blockHigh b, BitVec.ofNat 32 n])
    ∧ (∀ o n why q, (NoticeBody.clockChange o n why q).kind = 3 ∧ (NoticeBody.clockChange o n why q).words
        = [BitVec.ofNat 32 o.code, BitVec.ofNat 32 n.code, BitVec.ofNat 32 why, BitVec.ofNat 32 q])
    ∧ (∀ f t c l x ls n, l < 256 → x < 281474976710656 → ls < 256 →
        (NoticeBody.switchStarted f t c l x ls n).kind = 4 ∧ (NoticeBody.switchStarted f t c l x ls n).words
          = [BitVec.ofNat 32 (f.code + 256 * t.code + 65536 * c.code + 16777216 * l), BitVec.ofNat 32 x,
             BitVec.ofNat 32 (x / 4294967296 + 65536 * ls), BitVec.ofNat 32 n])
    ∧ (∀ r e c x, (NoticeBody.switchFinished r e c x).kind = 5 ∧ (NoticeBody.switchFinished r e c x).words
        = [BitVec.ofNat 32 (r.code + 256 * e.code + 65536 * c.code), blockLow x, blockHigh x])
    ∧ (∀ ls r why m, ls < 256 → m < 256 →
        (NoticeBody.switchWithheld ls r why m).kind = 6 ∧ (NoticeBody.switchWithheld ls r why m).words
          = [BitVec.ofNat 32 (ls + 256 * r.code + 65536 * why.code + 16777216 * m)])
    ∧ (∀ r o n trip b g, b < 65536 → g < 65536 →
        (NoticeBody.rigVerdictChanged r o n trip b g).kind = 7 ∧ (NoticeBody.rigVerdictChanged r o n trip b g).words
          = [BitVec.ofNat 32 (r.code + 256 * o.code + 65536 * n.code + 16777216 * (if trip = true then 2 else 1)),
             BitVec.ofNat 32 (b + 65536 * g)])
    ∧ (∀ o n b g, b < 65536 → g < 65536 →
        (NoticeBody.agreementChanged o n b g).kind = 7 ∧ (NoticeBody.agreementChanged o n b g).words
          = [BitVec.ofNat 32 (3 + 256 * o.code + 65536 * n.code + 16777216), BitVec.ofNat 32 (b + 65536 * g)])
    ∧ (∀ c d o r m cd lead trip oob cmp dis, c < 65536 → d < 65536 → o < 65536 → r < 65536 → m < 65536 → cd < 65536 →
        (∀ y, lead = some y → y < 256) → cmp < 65536 → dis < 65536 →
        (NoticeBody.windowReport c d o r m cd lead trip oob cmp dis).kind = 8
        ∧ (NoticeBody.windowReport c d o r m cd lead trip oob cmp dis).words
          = [BitVec.ofNat 32 (c + 65536 * d), BitVec.ofNat 32 (o + 65536 * r), BitVec.ofNat 32 (m + 65536 * cd),
             BitVec.ofNat 32 (lead.getD 255 + (if trip = true then 256 else 0) + (if oob = true then 512 else 0)),
             BitVec.ofNat 32 (cmp + 65536 * dis)])
    ∧ (∀ c l v st, (NoticeBody.contextExhausted c l v st).kind = 9 ∧ (NoticeBody.contextExhausted c l v st).words
        = [BitVec.ofNat 32 c, BitVec.ofNat 32 l, BitVec.ofNat 32 v, BitVec.ofNat 32 st])
    ∧ (∀ c l r q f, c < 65536 → l < 65536 →
        (NoticeBody.poolExhausted c l r q f).kind = 10 ∧ (NoticeBody.poolExhausted c l r q f).words
          = [BitVec.ofNat 32 (c + 65536 * l), BitVec.ofNat 32 r.code, BitVec.ofNat 32 q, BitVec.ofNat 32 f])
    ∧ (∀ b, (NoticeBody.readerLate b).kind = 11 ∧ (NoticeBody.readerLate b).words = [blockLow b, blockHigh b])
    ∧ (∀ why x, (NoticeBody.ringFault why x).kind = 12
        ∧ (NoticeBody.ringFault why x).words = [BitVec.ofNat 32 why, BitVec.ofNat 32 x])
    ∧ (∀ c, (NoticeBody.memoryFaultLoad c).kind = 13 ∧ (NoticeBody.memoryFaultLoad c).words = [1, BitVec.ofNat 32 c])
    ∧ (∀ c i b, (NoticeBody.memoryFaultBlend c i b).kind = 13 ∧ (NoticeBody.memoryFaultBlend c i b).words
        = [2, BitVec.ofNat 32 c, if i = .old then 0 else 1, blockLow b, blockHigh b])
    ∧ (∀ c k, (NoticeBody.memoryFaultMap c k).kind = 13
        ∧ (NoticeBody.memoryFaultMap c k).words = [3, BitVec.ofNat 32 c, BitVec.ofNat 32 k])
    ∧ (∀ n, blockLow n = BitVec.ofNat 32 n ∧ blockHigh n = BitVec.ofNat 32 (n / 4294967296 % 65536))
    ∧ [ClockState.noClock, .locked, .flywheel].map ClockState.code = [0, 1, 2]
    ∧ [Role.main, .backup].map Role.code = [1, 2]
    ∧ [RigVerdict.unknown, .sound, .suspect, .failed].map RigVerdict.code = [1, 2, 3, 4]
    ∧ [AgreementVerdict.unproven, .agreed, .diverged].map AgreementVerdict.code = [1, 2, 3]
    ∧ [SwitchCause.none, .verdict, .command, .line, .return].map SwitchCause.code = [0, 1, 2, 3, 4]
    ∧ [SwitchEnding.faded, .immediate, .cutShort].map SwitchEnding.code = [1, 2, 3]
    ∧ [WithheldReason.held, .backupNotSound, .mainNotSound, .diverged].map WithheldReason.code = [1, 2, 3, 4]
    ∧ [ResultCode.done, .wrongState, .locked, .badParameter, .busy, .unknownCommand, .noContext, .memoryFault,
        .badAnchor].map ResultCode.code = [1, 2, 3, 4, 5, 6, 7, 8, 9])
  ∧ ∀ (dt : Nat) (s : State) (a : Anchor), s.sup.anchor = some a →
    (s.notices.writing = true ∨ s.notices.queue = [] ∨ s.notices.available = 0 ∨ s.sup.take ≠ none →
      exec .noticeWriteBegin s = .next s)
    ∧ (s.notices.writing = false → s.notices.queue ≠ [] → 0 < s.notices.available → s.sup.take = none →
      exec .noticeWriteBegin s = .next { s with notices := { s.notices with writing := true } })
    ∧ (∀ n rest e, s.notices.writing = true → s.notices.queue = n :: rest →
        e = a.noticeRingBase + 32 * s.notices.writeIndex → s.landed.notice ≤ 7 →
      (∀ k, exec (.noticeWriteEnd dt) (s.took k .notice) = exec (.noticeWriteEnd dt) s
        ∧ ∃ u, u = s.took k .notice
          ∧ u = { s with mem := u.mem, landed := { s.landed with notice := min (s.landed.notice + k) 7 } }
          ∧ (∀ i, s.landed.notice ≤ i → i < u.landed.notice → readWord u.mem (e + 4 + 4 * i)
              = ([blockLow n.period, blockHigh n.period] ++ n.body.words).getD i 0)
          ∧ (∀ x, x < e + 4 + 4 * s.landed.notice ∨ e + 4 + 4 * u.landed.notice ≤ x →
              readByte u.mem x = readByte s.mem x))
      ∧ ∃ t, exec (.noticeWriteEnd dt) s = .next t
        ∧ t = { s.advance dt with
            mem := t.mem, notices := t.notices, lines := t.lines, landed := { s.landed with notice := 0 } }
        ∧ t.notices = { s.notices with
            queue := rest, writing := false, writeIndex := (s.notices.writeIndex + 1) % a.noticeRingEntries
            available := s.notices.available - 1, writeTimes := t.notices.writeTimes }
        ∧ Table.get 0 t.notices.writeTimes s.notices.writeIndex = (s.advance dt).timer.now / 25000
        ∧ t.lines = { s.lines with
            interrupt := s.lines.interrupt
              || decide (s.notices.coalesceCount ≤ a.noticeRingEntries - (s.notices.available - 1)) }
        ∧ (readWord t.mem e).toNat = n.body.kind + 256 * (n.group.getD 255 % 256)
            + 65536 * (if n.source = none then 0 else if n.source = some .rig1 then 1 else 2)
        ∧ (∀ i, s.landed.notice ≤ i → i < 7 → readWord t.mem (e + 4 + 4 * i)
            = ([blockLow n.period, blockHigh n.period] ++ n.body.words).getD i 0)
        ∧ (∀ x, x < e ∨ (e + 4 ≤ x ∧ x < e + 4 + 4 * s.landed.notice) ∨ e + 32 ≤ x →
            readByte t.mem x = readByte s.mem x))
    ∧ (s.timer.refclkStopped = false →
      (s.notices.coalesceTime ≠ 0 → 0 < a.noticeRingEntries - s.notices.available →
          Table.get 0 s.notices.writeTimes ((s.notices.lastHanded + 1) % a.noticeRingEntries) + s.notices.coalesceTime
            < (s.timer.now + dt) / 25000 →
        exec (.coalesceTimeout dt) s = .next { s.advance dt with lines := { s.lines with interrupt := true } })
      ∧ (s.notices.coalesceTime = 0 ∨ a.noticeRingEntries - s.notices.available = 0
          ∨ (s.timer.now + dt) / 25000 ≤ Table.get 0 s.notices.writeTimes
              ((s.notices.lastHanded + 1) % a.noticeRingEntries) + s.notices.coalesceTime →
        exec (.coalesceTimeout dt) s = .next (s.advance dt)))

/-- The status record: the write that ends is in DRAM and nothing else changed there; a request kept begins a write with
the sequence one higher, whose 128 words are one snapshot between two equal sequence words. With no write in flight
nothing changes (the model's choice, log 1). A request kept stays kept while a take runs, and while a Go waits that only
this write, or a notice write, held up (log 13). The snapshot is that of the step's end (log 34). Words of the record
may be taken before, each once, and the row takes the rest (log 9): it leaves what it leaves without them. That the
words of one write are taken upward by address, where no rule orders them, is the model's choice (log 50). -/
def Obligations.StatusRecord : Prop :=
  ∀ s : State,
    (s.sup.status.writing = none → exec .statusWriteEnd s = .next s)
    ∧ (∀ n, exec .statusWriteEnd (s.took n .status) = exec .statusWriteEnd s)
    ∧ (∀ w n k, s.sup.status.writing = some w → k = min n (w.words.length - 1) → s.took n .status = { s with
        mem := writeWords s.mem w.base (w.words.take k)
        sup := { s.sup with status := { s.sup.status with
          writing := some { base := w.base + 4 * k, words := w.words.drop k } } } })
    ∧ (∀ w, s.sup.status.writing = some w → ∃ t, exec .statusWriteEnd s = .next t
      ∧ t = { s with mem := t.mem, sup := { s.sup with status := t.sup.status } }
      ∧ (∀ i, i < w.words.length → readWord t.mem (w.base + 4 * i) = w.words.getD i 0)
      ∧ (∀ x, x < w.base ∨ w.base + 4 * w.words.length ≤ x → readByte t.mem x = readByte s.mem x)
      ∧ (s.sup.status.followUp = false ∨ s.sup.take ≠ none ∨ s.sup.anchor = none →
          t.sup.status = { s.sup.status with writing := none })
      ∧ (s.sup.goPending = true → s.sup.command.phase = .idle → s.sup.teardown = none →
          s.part.state = .quiet ∨ s.part.state = .standby →
          t.sup.status = { s.sup.status with writing := none })
      ∧ (∀ a, s.sup.status.followUp = true → s.sup.take = none → s.sup.anchor = some a →
          s.sup.goPending = false ∨ s.sup.command.phase ≠ .idle ∨ s.sup.teardown ≠ none ∨ s.part.state = .armed
            ∨ s.part.state = .running →
          t.sup.status.sequence = s.sup.status.sequence + 1 ∧ t.sup.status.followUp = false
          ∧ ∃ u, t.sup.status.writing = some u ∧ u.base = a.statusBase ∧ u.words.length = 128
            ∧ u.words.getD 0 0 = s.sup.status.sequence + 1 ∧ u.words.getD 127 0 = s.sup.status.sequence + 1
            ∧ (u.words.getD 1 0).toNat = s.part.state.code + 256 * s.clock.state.code
                + 65536 * ((if s.notices.lost then 1 else 0) + 2 * (if s.sup.locked then 1 else 0))
            ∧ u.words.getD 2 0 = blockLow s.part.period ∧ u.words.getD 3 0 = blockHigh s.part.period
            ∧ u.words.getD 4 0 = blockLow s.resolver.resolveFront ∧ u.words.getD 5 0 = blockHigh s.resolver.resolveFront
            ∧ u.words.getD 6 0
                = word (s.cache.contexts.countP (fun e => decide (e.2.residence = .valid)))
            ∧ u.words.getD 7 0 = packHalves s.resolver.readerEarly s.resolver.readerFault
            ∧ u.words.getD 8 0 = word (s.pool.inUse (.quota .rig1)) ∧ u.words.getD 9 0 = word (s.pool.inUse (.quota .rig2))
            ∧ u.words.getD 10 0 = word (s.pool.inUse (.common .rig1))
            ∧ u.words.getD 11 0 = word (s.pool.inUse (.common .rig2))
            ∧ u.words.getD 12 0 = word (s.pool.buckets - 1 - s.pool.quota.rig1 - s.pool.quota.rig2 - 64
                - (s.pool.inUse (.common .rig1) + s.pool.inUse (.common .rig2)))
            ∧ u.words.getD 13 0 = word (s.pool.inUse .blend)
            ∧ u.words.getD 14 0 = packHalves s.cache.strayWrites.rig1 s.cache.strayWrites.rig2
            ∧ (∀ g, g < 8 → (s.group g).defined = true →
                u.words.getD (16 + 4 * g) 0 = blockLow (s.ring g).playBase
                ∧ u.words.getD (17 + 4 * g) 0 = blockHigh (s.ring g).playBase
                ∧ u.words.getD (18 + 4 * g) 0 = packBytes (s.group g).selectState.code (s.group g).targetRole.code
                    (if (s.group g).hold then 1 else 0) 0
                ∧ u.words.getD (19 + 4 * g) 0 = packBytes (s.healthOf g).main.verdict.code
                    (s.healthOf g).backup.verdict.code (s.healthOf g).agreement.verdict.code 1)
            ∧ (∀ g i, g < 8 → (s.group g).defined = false → i < 4 → u.words.getD (16 + 4 * g + i) 0 = 0)
            ∧ (∀ i, i = 15 ∨ (48 ≤ i ∧ i ≤ 126) → u.words.getD i 0 = 0)))

/-! ## Capture -/

/-- The Source Window's places; what a rig port drops, holds behind a held write, or holds for a context load. In ARMED
and RUNNING all four write rows are one arrival at the port, by the address alone. A load that opens sends its directory
read behind the write-backs of the Channel Cache in flight (the model's reading, log 43). A read is taken in the port's
order, reads included behind a held write; with nothing held it is answered at once in every part state: zeros, with
Error when a word lies above the Source Window. Reads taken one after another are all answered, in their order. The
record of the answers is the model's own (log 15). While RESET_N is low ResetCommand states the form. -/
def Obligations.RigPorts : Prop :=
  (∀ (a : Word) (c l o : Nat), c < 768 → l < 4 → o < 1024 → a.toNat = 4096 * c + 1024 * l + o →
    rigPlace a = (if o < 512 then .payload c l (o / 4) else if o < 536 then .header c l ((o - 512) / 4)
      else if o < 540 then .commit c l else .unused))
  ∧ (∀ a : Word, 3145728 ≤ a.toNat → rigPlace a = .outside)
  ∧ (∀ (s : State) (r : Rig) (a v : Word) (en : Enables), s.lines.resetLow = false →
    (s.part.state = .quiet ∨ s.part.state = .standby →
      exec (.payloadWrite r a v en) s = .next s ∧ exec (.headerWrite r a v en) s = .next s
      ∧ exec (.commit r a v en) s = .next s ∧ exec (.rigPortUnusedWrite r a v en) s = .next s)
    ∧ (s.part.state = .armed ∨ s.part.state = .running →
      (∀ t, t = s.rigRequest r (.write ⟨a, v, en⟩) →
        exec (.payloadWrite r a v en) s = .next t ∧ exec (.headerWrite r a v en) s = .next t
        ∧ exec (.commit r a v en) s = .next t ∧ exec (.rigPortUnusedWrite r a v en) s = .next t)
      ∧ (s.cache.ports.get r = [] → rigPlace a = .unused ∨ rigPlace a = .outside →
        exec (.rigPortUnusedWrite r a v en) s = .next s)
      ∧ (s.cache.ports.get r ≠ [] →
        exec (.payloadWrite r a v en) s = .next { s with
          cache := { s.cache with ports := s.cache.ports.set r (s.cache.ports.get r ++ [.write ⟨a, v, en⟩]) } })
      ∧ (∀ c l i, s.cache.ports.get r = [] →
        rigPlace a = .payload c l i ∨ rigPlace a = .header c l i ∨ rigPlace a = .commit c l →
        s.cache.mapEntry c = none →
        (s.cache.loading c = false →
          exec (.payloadWrite r a v en) s = .next { s with
            cache := { s.cache with
              ports := s.cache.ports.set r [.write ⟨a, v, en⟩]
              loads := s.cache.loads ++
                [{ channel := c, starter := r, starterLane := l, waiting := (⟨false, false⟩ : PerRig Bool).set r true
                   stage := if s.cache.evicting c then .waitWriteback else .reading }]
              sends := if s.cache.evicting c = true ∨ s.cache.sends = [] then s.cache.sends
                else s.cache.sends ++ [.read c] } })
        ∧ (s.cache.loading c = true →
          exec (.payloadWrite r a v en) s = .next { s with
            cache := { s.cache with
              ports := s.cache.ports.set r [.write ⟨a, v, en⟩]
              loads := s.cache.loads.map
                (fun q => if q.channel = c then { q with waiting := q.waiting.set r true } else q) } }))))
  ∧ (∀ (s : State) (r : Rig) (x n : Nat), s.lines.resetLow = false →
    exec (.liveWindowRead (.rigPort r x) n []) s = .next (s.rigRequest r (.read x n))
    ∧ (s.cache.ports.get r = [] → ∀ er, (er = true ↔ 0 < n ∧ 3145728 ≤ x + 4 * (n - 1)) →
        exec (.liveWindowRead (.rigPort r x) n []) s = .next { s with
          rigAnswers := s.rigAnswers.set r (s.rigAnswers.get r ++ [{ data := List.replicate n 0, error := er }]) })
    ∧ (s.cache.ports.get r ≠ [] →
        exec (.liveWindowRead (.rigPort r x) n []) s = .next { s with
          cache := { s.cache with ports := s.cache.ports.set r (s.cache.ports.get r ++ [.read x n]) } }))
  ∧ ∀ (s : State) (r : Rig) (reads : List (Nat × Nat)) (answer : Nat × Nat → ReadAnswer),
    s.cache.ports.get r = [] →
    (∀ q, ∃ er, (er = true ↔ 0 < q.2 ∧ 3145728 ≤ q.1 + 4 * (q.2 - 1)) ∧ answer q = ⟨List.replicate q.2 0, er⟩) →
    s.arrive r (reads.map (fun q => .read q.1 q.2))
      = { s with rigAnswers := s.rigAnswers.set r (s.rigAnswers.get r ++ reads.map answer) }

/-- A lane that is open: the payload word it expects is stored where the bucket holds it and enters the CRC, a header
word enters its buffer, any other payload word or a sub-word write spoils it, a SPOILED or STARVED lane takes a write
without effect. Every other lane, every other context, every other byte of DRAM and all else stays. While RESET_N is low
ResetCommand states the form. -/
def Obligations.OpenLaneWrites : Prop :=
  ∀ (s : State) (r : Rig) (a v : Word) (en : Enables) (c l i k : Nat) (ln : Lane),
    s.lines.resetLow = false → s.part.state = .armed ∨ s.part.state = .running → s.cache.ports.get r = [] → s.cache.mapEntry c = some k →
    ln = s.lane k r l →
    (rigPlace a = .payload c l i → ln.state = .spoiled ∨ ln.state = .starved →
      exec (.payloadWrite r a v en) s = .next s)
    ∧ (rigPlace a = .header c l i → ln.state = .spoiled ∨ ln.state = .starved →
      exec (.headerWrite r a v en) s = .next s)
    ∧ (∀ b, rigPlace a = .payload c l i → ln.state = .filling → ln.bucket = some b → en = 15 → i = ln.nextWord →
      i < 128 →
      ∃ t, exec (.payloadWrite r a v en) s = .next t
        ∧ t = { s with mem := t.mem, cache := { s.cache with contexts := t.cache.contexts } }
        ∧ t.context k = { s.context k with lanes := (t.context k).lanes }
        ∧ t.lane k r l = { ln with nextWord := i + 1, crc := crcWord ln.crc v }
        ∧ (∀ k', k' ≠ k → t.context k' = s.context k')
        ∧ (∀ k' r' l', k' ≠ k ∨ r' ≠ r ∨ l' ≠ l → t.lane k' r' l' = s.lane k' r' l')
        ∧ readWord t.mem (s.pool.base + b * 512 + 4 * i) = v
        ∧ (∀ x, x < s.pool.base + b * 512 + 4 * i ∨ s.pool.base + b * 512 + 4 * i + 4 ≤ x →
            readByte t.mem x = readByte s.mem x))
    ∧ (rigPlace a = .payload c l i → ln.state = .filling → en ≠ 15 ∨ i ≠ ln.nextWord ∨ 128 ≤ i →
      ∃ t, exec (.payloadWrite r a v en) s = .next t
        ∧ t = { s with cache := { s.cache with contexts := t.cache.contexts } }
        ∧ t.context k = { s.context k with lanes := (t.context k).lanes }
        ∧ t.lane k r l = { ln with state := .spoiled }
        ∧ (∀ k', k' ≠ k → t.context k' = s.context k')
        ∧ (∀ k' r' l', k' ≠ k ∨ r' ≠ r ∨ l' ≠ l → t.lane k' r' l' = s.lane k' r' l'))
    ∧ (rigPlace a = .header c l i → ln.state = .filling →
      ∃ t, exec (.headerWrite r a v en) s = .next t
        ∧ t = { s with cache := { s.cache with contexts := t.cache.contexts } }
        ∧ t.context k = { s.context k with lanes := (t.context k).lanes }
        ∧ (en ≠ 15 → t.lane k r l = { ln with state := .spoiled })
        ∧ (en = 15 → t.lane k r l = { ln with header := (t.lane k r l).header }
            ∧ (t.lane k r l).headerWord i = v
            ∧ ∀ h, h ≠ i → (t.lane k r l).headerWord h = ln.headerWord h)
        ∧ (∀ k', k' ≠ k → t.context k' = s.context k')
        ∧ (∀ k' r' l', k' ≠ k ∨ r' ≠ r ∨ l' ≠ l → t.lane k' r' l' = s.lane k' r' l'))

/-- The order of accounts for a lane (R25), and the lane that opens on it: with a bucket FILLING, without one STARVED. A
payload or a header write opens an IDLE lane: the whole of payload word 0 is stored and summed, a whole header word is
buffered, any other payload word or a sub-word write spoils the lane just opened, and a STARVED lane takes the write
without effect. While RESET_N is low ResetCommand states the form. -/
def Obligations.LaneOpens : Prop :=
  (∀ (p : Pool) (r : Rig) (target : Bool) (free : Nat),
    free = p.buckets - 1 - p.quota.rig1 - p.quota.rig2 - 64
      - (p.inUse (.common .rig1) + p.inUse (.common .rig2)) →
    p.laneCharge r target =
      (if p.inUse (.quota r) < p.quota.get r then some (.quota r)
       else if p.commonGuard < free then some (.common r)
       else if 0 < free ∧ target = true then some (.common r) else none))
  ∧ ∀ (s : State) (r : Rig) (a v : Word) (en : Enables) (c l i k g : Nat) (write : Instr) (payload : Bool),
    s.lines.resetLow = false → s.part.state = .armed ∨ s.part.state = .running → s.cache.ports.get r = [] → s.cache.mapEntry c = some k →
    (payload = true ∧ write = .payloadWrite r a v en ∧ rigPlace a = .payload c l i
      ∨ payload = false ∧ write = .headerWrite r a v en ∧ rigPlace a = .header c l i) →
    (s.lane k r l).state = .idle → g = (s.context k).group →
    (∀ ch b rest, s.pool.laneCharge r (s.roleOf r == (s.group g).targetRole) = some ch → s.pool.freeList = b :: rest →
      ∃ t, exec write s = .next t
        ∧ t = { s with
            mem := t.mem, health := t.health
            pool := { s.pool with
              table := t.pool.table, freeList := rest, exhaustReported := s.pool.exhaustReported.set r false }
            cache := { s.cache with
              contexts := t.cache.contexts, lru := s.cache.lru.filter (fun j => j != k) ++ [k] } }
        ∧ t.context k = { s.context k with lanes := (t.context k).lanes }
        ∧ (payload = true → en = 15 → i = 0 →
            t.lane k r l = { state := .filling, bucket := some b, nextWord := 1, crc := crcWord 0xFFFFFFFF v, header := []
                             openPeriod := s.part.period }
            ∧ readWord t.mem (s.pool.base + b * 512) = v
            ∧ ∀ x, x < s.pool.base + b * 512 ∨ s.pool.base + b * 512 + 4 ≤ x → readByte t.mem x = readByte s.mem x)
        ∧ ((payload = true ∧ (en ≠ 15 ∨ i ≠ 0)) ∨ (payload = false ∧ en ≠ 15) →
            t.lane k r l = { state := .spoiled, bucket := some b, nextWord := 0, crc := 0xFFFFFFFF, header := []
                             openPeriod := s.part.period }
            ∧ t.mem = s.mem)
        ∧ (payload = false → en = 15 →
            t.lane k r l = { state := .filling, bucket := some b, nextWord := 0, crc := 0xFFFFFFFF
                             header := (t.lane k r l).header, openPeriod := s.part.period }
            ∧ (t.lane k r l).headerWord i = v ∧ (∀ h, h ≠ i → (t.lane k r l).headerWord h = 0) ∧ t.mem = s.mem)
        ∧ (∀ k', k' ≠ k → t.context k' = s.context k')
        ∧ (∀ k' r' l', k' ≠ k ∨ r' ≠ r ∨ l' ≠ l → t.lane k' r' l' = s.lane k' r' l')
        ∧ t.pool.bucket b = { state := .filling, pinCount := 0, charged := ch }
        ∧ (∀ b', b' ≠ b → t.pool.bucket b' = s.pool.bucket b')
        ∧ (ch = .common r → s.part.state = .running →
            t.healthOf g = (s.healthOf g).modifyRecord (fun m => { m with commonDraws := sat16 m.commonDraws }) (s.roleOf r)
            ∧ ∀ g', g' ≠ g → t.healthOf g' = s.healthOf g')
        ∧ (ch = .quota r ∨ s.part.state = .armed → t.health = s.health))
    ∧ (s.pool.laneCharge r (s.roleOf r == (s.group g).targetRole) = none →
      ∃ t, exec write s = .next t
        ∧ t = { s with
            pool := { s.pool with exhaustReported := s.pool.exhaustReported.set r true }
            cache := { s.cache with
              contexts := t.cache.contexts, lru := s.cache.lru.filter (fun j => j != k) ++ [k] }
            notices := if s.pool.exhaustReported.get r then s.notices else s.notices.post
              { group := some g, source := some r, period := s.part.period
                body := .poolExhausted (s.context k).channel l (s.roleOf r) (s.pool.inUse (.quota r))
                  s.pool.commonFree } }
        ∧ t.context k = { s.context k with lanes := (t.context k).lanes }
        ∧ t.lane k r l = { state := .starved, bucket := none, nextWord := 0, crc := 0xFFFFFFFF, header := []
                           openPeriod := s.part.period }
        ∧ (∀ k', k' ≠ k → t.context k' = s.context k')
        ∧ ∀ k' r' l', k' ≠ k ∨ r' ≠ r ∨ l' ≠ l → t.lane k' r' l' = s.lane k' r' l')

/-- A commit closes the lane with the first outcome of R42's table that is given; the block enters the list or its
bucket is freed, and the outcome is counted as R48 states: in the lifetime counters, and while RUNNING in the rig's
health record. A Replaced block's bucket is retained and the bucket of the entry it replaces is freed. A commit to an
IDLE lane is only counted as Damaged. While RESET_N is low ResetCommand states the form. -/
def Obligations.CommitWrite : Prop :=
  ∀ (s : State) (r : Rig) (a v : Word) (en : Enables) (c l k n : Nat) (ln : Lane) (x : Context) (o : LaneOutcome),
    s.lines.resetLow = false → s.part.state = .armed ∨ s.part.state = .running → s.cache.ports.get r = [] → s.cache.mapEntry c = some k →
    rigPlace a = .commit c l → x = s.context k → ln = x.lane r l → n = ln.blockNumber →
    (ln.state = .idle → ∃ t, exec (.commit r a v en) s = .next t
      ∧ t = { s with cache := { s.cache with contexts := t.cache.contexts }, health := t.health }
      ∧ t.context k = { x with damaged := x.damaged.set r (sat16 (x.damaged.get r)) }
      ∧ (∀ k', k' ≠ k → t.context k' = s.context k')
      ∧ (s.part.state = .armed → t.health = s.health)
      ∧ (∀ m, s.part.state = .running → m = (s.healthOf x.group).record (s.roleOf r) →
          t.healthOf x.group = (s.healthOf x.group).modifyRecord (fun _ => { m with damaged := sat16 m.damaged }) (s.roleOf r)
          ∧ ∀ g, g ≠ x.group → t.healthOf g = s.healthOf g))
    ∧ (ln.state ≠ .idle →
      o = (if ¬(en = 15 ∧ v = 1) then .abandoned else if ln.state = .starved then .starved
        else if ln.state = .spoiled then .spoiled else if ln.nextWord < 128 then .incomplete
        else if (ln.headerWord 0).toNat % 65536 ≠ 1 ∨ (ln.headerWord 1).toNat ≠ x.channel
            ∨ (ln.headerWord 3).toNat / 65536 ≠ 0 then .malformed
        else if ln.crc ^^^ 0xFFFFFFFF ≠ ln.headerWord 4 then .crcMismatch
        else if n < s.resolver.resolveFront then .late
        else if (s.ring x.group).playBase + s.cache.horizon ≤ n then .tooEarly
        else if ∃ e ∈ x.lists.get r, e.block = n then .replaced else .accepted) →
      ∃ t, exec (.commit r a v en) s = .next t
        ∧ t = { s with
            pool := { s.pool with table := t.pool.table, freeList := t.pool.freeList }
            cache := { s.cache with contexts := t.cache.contexts, lru := t.cache.lru }
            health := t.health }
        ∧ t.lane k r l = { ln with state := .idle, bucket := none }
        ∧ (∀ k' r' l', k' ≠ k ∨ r' ≠ r ∨ l' ≠ l → t.lane k' r' l' = s.lane k' r' l')
        ∧ (∀ k', k' ≠ k → t.context k' = s.context k')
        ∧ t.context k = { x with
            lanes := (t.context k).lanes, lists := (t.context k).lists, streaming := (t.context k).streaming
            lastCommit := (t.context k).lastCommit, accepted := (t.context k).accepted
            damaged := (t.context k).damaged }
        ∧ (∀ r', r' ≠ r → (t.context k).lists.get r' = x.lists.get r')
        ∧ (o ≠ .accepted → o ≠ .replaced → (t.context k).lists = x.lists ∧ (t.context k).streaming = x.streaming
            ∧ (t.context k).lastCommit = x.lastCommit ∧ t.cache.lru = s.cache.lru
            ∧ (ln.bucket = none → t.pool = s.pool)
            ∧ ∀ b, ln.bucket = some b → (s.pool.bucket b).state = .filling →
              t.pool.freeList = s.pool.freeList ++ [b] ∧ t.pool.bucket b = ⟨.free, 0, .none⟩
              ∧ ∀ b', b' ≠ b → t.pool.bucket b' = s.pool.bucket b')
        ∧ (o = .accepted ∨ o = .replaced → (t.context k).streaming = true ∧ (t.context k).lastCommit = s.part.period
            ∧ t.cache.lru = s.cache.lru.filter (fun j => j != k) ++ [k])
        ∧ (∀ b, o = .accepted → ln.bucket = some b →
            (∀ e, e ∈ (t.context k).lists.get r ↔
              e = ⟨n, b, ln.headerWord 5, (ln.headerWord 0).getLsbD 16⟩ ∨ e ∈ x.lists.get r)
            ∧ ((x.lists.get r).Pairwise (fun e f => e.block < f.block) →
                ((t.context k).lists.get r).Pairwise (fun e f => e.block < f.block))
            ∧ ((s.pool.bucket b).state = .filling →
                t.pool.bucket b = { s.pool.bucket b with state := .retained } ∧ t.pool.freeList = s.pool.freeList
                ∧ ∀ b', b' ≠ b → t.pool.bucket b' = s.pool.bucket b'))
        ∧ (∀ b, o = .replaced → ln.bucket = some b →
            (t.context k).lists.get r = (x.lists.get r).map
              (fun e => if e.block = n then ⟨n, b, ln.headerWord 5, (ln.headerWord 0).getLsbD 16⟩ else e)
            ∧ ∀ old, findEntry n (x.lists.get r) = some old → (s.pool.bucket b).state = .filling →
                (s.pool.bucket old.bucket).state = .retained →
              t.pool.bucket b = { s.pool.bucket b with state := .retained }
              ∧ t.pool.bucket old.bucket = ⟨.free, 0, .none⟩ ∧ t.pool.freeList = s.pool.freeList ++ [old.bucket]
              ∧ ∀ b', b' ≠ b → b' ≠ old.bucket → t.pool.bucket b' = s.pool.bucket b')
        ∧ (t.context k).accepted = (if o = .accepted ∨ o = .replaced then
            x.accepted.set r (sat16 (x.accepted.get r)) else x.accepted)
        ∧ (t.context k).damaged = (if o = .starved ∨ o = .spoiled ∨ o = .incomplete ∨ o = .malformed
            ∨ o = .crcMismatch then x.damaged.set r (sat16 (x.damaged.get r)) else x.damaged)
        ∧ (s.part.state = .armed → t.health = s.health)
        ∧ (∀ m m', s.part.state = .running → m = (s.healthOf x.group).record (s.roleOf r) →
            m' = (if o = .abandoned then m
              else if o = .late ∨ o = .tooEarly then { m with offTime := sat16 m.offTime }
              else if o = .replaced then { m with commits := sat16 m.commits, repeats := sat16 m.repeats }
              else if o = .accepted then { m with commits := sat16 m.commits }
              else { m with damaged := sat16 m.damaged }) →
            t.healthOf x.group = (s.healthOf x.group).modifyRecord (fun _ => m') (s.roleOf r)
            ∧ ∀ g, g ≠ x.group → t.healthOf g = s.healthOf g))

/-- The period checks of a lane and of a context: a lane more than 8 periods old closes Stale, a Streaming context more
than ExpectSpan periods after its last commit expires; a check that is not due changes nothing. A check that is not due
changing nothing is the model's choice (log 1). -/
def Obligations.StaleLanesAndExpiry : Prop :=
  ∀ (s : State) (c l k : Nat) (r : Rig) (x : Context) (ln : Lane), x = s.context k → ln = x.lane r l →
    (s.cache.mapEntry c = none →
      exec (.laneStale c r l) s = .next s ∧ exec (.streamingExpiry c) s = .next s)
    ∧ (s.cache.mapEntry c = some k →
      (s.part.state ≠ .running ∨ ln.state = .idle ∨ s.part.period ≤ ln.openPeriod + 8 →
        exec (.laneStale c r l) s = .next s)
      ∧ (s.part.state = .running → ln.state ≠ .idle → ln.openPeriod + 8 < s.part.period →
        ∃ t, exec (.laneStale c r l) s = .next t
          ∧ t = { s with
              pool := { s.pool with table := t.pool.table, freeList := t.pool.freeList }
              cache := { s.cache with contexts := t.cache.contexts }, health := t.health }
          ∧ t.lane k r l = { ln with state := .idle, bucket := none }
          ∧ t.context k = { x with
              lanes := (t.context k).lanes, damaged := x.damaged.set r (sat16 (x.damaged.get r)) }
          ∧ (∀ k', k' ≠ k → t.context k' = s.context k')
          ∧ (∀ k' r' l', k' ≠ k ∨ r' ≠ r ∨ l' ≠ l → t.lane k' r' l' = s.lane k' r' l')
          ∧ (∀ b, ln.bucket = some b → (s.pool.bucket b).state = .filling →
              t.pool.freeList = s.pool.freeList ++ [b] ∧ t.pool.bucket b = ⟨.free, 0, .none⟩
              ∧ ∀ b', b' ≠ b → t.pool.bucket b' = s.pool.bucket b')
          ∧ (ln.bucket = none → t.pool = s.pool)
          ∧ t.healthOf x.group
              = (s.healthOf x.group).modifyRecord (fun m => { m with damaged := sat16 m.damaged }) (s.roleOf r)
          ∧ ∀ g, g ≠ x.group → t.healthOf g = s.healthOf g)
      ∧ (s.part.state ≠ .running ∨ x.streaming = false ∨ s.part.period ≤ x.lastCommit + s.cache.expectSpan →
        exec (.streamingExpiry c) s = .next s)
      ∧ (s.part.state = .running → x.streaming = true → x.lastCommit + s.cache.expectSpan < s.part.period →
        ∃ t, exec (.streamingExpiry c) s = .next t
          ∧ t = { s with pool := t.pool, cache := { s.cache with contexts := t.cache.contexts } }
          ∧ t.context k = { x with streaming := false, lastServed := none, repeatRun := 0 }
          ∧ (∀ k', k' ≠ k → t.context k' = s.context k')
          ∧ (x.lastServed = none → t.pool = s.pool)
          ∧ ∀ b, x.lastServed = some b → t.pool = s.pool.unpin b))

/-! ## Context loads -/

/-- The end of the directory read of a load: an error and an undefined channel end the load, a defined channel fills
the lowest FREE context, or sends the write-back of the first evictable one, or is abandoned with one notice, which
counts the contexts that are VALID then (the model's choice, log 53). Where the load ends without a context each
waiting port's held write is dropped and the port goes on with the requests behind it; where the context is filled the
held write is handled with it first. Rig Port 1's queue goes on before Rig Port 2's (the model's choice, log 35).
Cached is in DRAM at once unless a write-back is in flight before it (the model's choice, log 43). In an End Show
teardown the last load to end lets the write-backs of step 5 begin, with every context FREE as they are sent (the
model's choice, log 45). With no such read in progress, or while a write-back that was sent before it is in flight (the
model's reading, log 43), nothing changes (the model's choice, log 1). The lowest FREE context and the victim: a
context is evictable when it is VALID, its lanes are IDLE, its lists are empty, Streaming is clear and LastServed is
none, and the victim is the first evictable one of the LRU order. The entry is read whole at the row of the answer (the
model's choice, log 57). -/
def Obligations.ContextLoad : Prop :=
  (∀ x : Cache,
    (∀ k, x.lowestFree = some k ↔
      k < 96 ∧ (x.context k).residence = .free ∧ ∀ j, j < k → (x.context j).residence ≠ .free)
    ∧ (x.lowestFree = none ↔ ∀ k, k < 96 → (x.context k).residence ≠ .free)
    ∧ (∀ k, x.victim = some k ↔ ∃ before behind, x.lru = before ++ k :: behind ∧ (x.context k).evictable = true
        ∧ ∀ j ∈ before, (x.context j).evictable = false)
    ∧ (x.victim = none ↔ ∀ k ∈ x.lru, (x.context k).evictable = false))
  ∧ (∀ y : Context, (y.evictable = true ↔ y.residence = .valid ∧ (∀ r, ∀ e ∈ y.lanes.get r, e.2.state = .idle)
      ∧ y.lists = ⟨[], []⟩ ∧ y.streaming = false ∧ y.lastServed = none)
    ∧ (y.evictable = true → ∀ r l, (y.lane r l).state = .idle))
  ∧ ∀ (s : State) (c : Nat) (q : LoadRequest) (d : DirEntry) (emptied next behind : PerRig (List RigRequest)),
    d = s.dirEntry c →
    (∀ r, emptied.get r = (if q.waiting.get r then [] else s.cache.ports.get r)
      ∧ next.get r = (if q.waiting.get r then s.cache.ports.get r else [])
      ∧ behind.get r = (if q.waiting.get r then (s.cache.ports.get r).tail else [])) →
    (s.cache.readingRequest c = none ∨ CacheSend.read c ∈ s.cache.sends →
      ∀ error, exec (.contextLoadReadDone c error) s = .next s)
    ∧ (s.sup.teardown = none → s.cache.readingRequest c = some q → CacheSend.read c ∉ s.cache.sends →
      (∀ u : State, u = { s with
          cache := { s.cache with loads := s.cache.loads.filter (fun p => p.channel != c), ports := emptied }
          notices := if s.part.state = .quiet then s.notices else s.notices.post
            { group := none, source := some q.starter, period := s.part.period, body := .memoryFaultLoad c } } →
        exec (.contextLoadReadDone c true) s = .next ((u.arrive .rig1 behind.rig1).arrive .rig2 behind.rig2))
      ∧ (∀ (u : State) (stray : PerRig Nat), d.defined = false →
        (∀ r, ((q.waiting.get r = true ∧ ∃ w ws c' l, s.cache.ports.get r = .write w :: ws ∧ rigPlace w.addr = .commit c' l) →
              stray.get r = sat16 (s.cache.strayWrites.get r))
          ∧ ((q.waiting.get r = false ∨ ∀ w ws c' l, s.cache.ports.get r = .write w :: ws → rigPlace w.addr ≠ .commit c' l) →
              stray.get r = s.cache.strayWrites.get r)) →
        u = { s with cache := { s.cache with
          loads := s.cache.loads.filter (fun p => p.channel != c), ports := emptied, strayWrites := stray } } →
        exec (.contextLoadReadDone c false) s = .next ((u.arrive .rig1 behind.rig1).arrive .rig2 behind.rig2))
      ∧ (∀ k, d.defined = true → s.cache.lowestFree = some k →
        ∃ u : State, exec (.contextLoadReadDone c false) s = .next ((u.arrive .rig1 next.rig1).arrive .rig2 next.rig2)
          ∧ (∀ r w l, q.waiting = (⟨false, false⟩ : PerRig Bool).set r true → s.cache.ports.get r = [.write w] →
              (rigPlace w.addr).lane = some (c, l) →
              exec (.contextLoadReadDone c false) s = .next (u.handleLaneWrite k r w))
          ∧ u = { s with
              mem := u.mem
              cache := { s.cache with
                contexts := u.cache.contexts, channelMap := u.cache.channelMap, lru := s.cache.lru ++ [k]
                loads := s.cache.loads.filter (fun p => p.channel != c), ports := emptied, sends := u.cache.sends
                exhaustReported := false } }
          ∧ u.context k = { residence := .valid, channel := c, group := d.group, kind := d.kind, lanes := ⟨[], []⟩
                            lists := ⟨[], []⟩, streaming := false, lastCommit := s.part.period, lastServed := none
                            repeatRun := 0, accepted := d.accepted, damaged := d.damaged }
          ∧ (∀ k', k' ≠ k → u.context k' = s.context k')
          ∧ u.cache.mapEntry c = some k ∧ (∀ c', c' ≠ c → u.cache.mapEntry c' = s.cache.mapEntry c')
          ∧ (s.cache.sends = [] → u.cache.sends = []
              ∧ (readWord u.mem (s.dirEntryAddr c)).toNat
                  = 3 + 4 * (if d.kind = .data then 1 else 0) + 256 * (d.group % 8)
              ∧ ∀ y, y < s.dirEntryAddr c ∨ s.dirEntryAddr c + 4 ≤ y → readByte u.mem y = readByte s.mem y)
          ∧ (∀ j rest, s.cache.sends = .writeback j :: rest →
              u.mem = s.mem ∧ u.cache.sends = s.cache.sends ++ [.cached c d]))
      ∧ (∀ k, d.defined = true → s.cache.lowestFree = none → s.cache.victim = some k →
        ∃ t, exec (.contextLoadReadDone c false) s = .next t
          ∧ t = { s with cache := t.cache }
          ∧ t.context k = { s.context k with residence := .evicting }
          ∧ (∀ k', k' ≠ k → t.context k' = s.context k')
          ∧ t.cache.mapEntry (s.context k).channel = none
          ∧ t.cache.lru = s.cache.lru.filter (fun j => j != k) ∧ t.cache.exhaustReported = false
          ∧ t.cache.loads = s.cache.loads.map
              (fun p => if p.channel = c then { p with stage := .evicting k d } else p)
          ∧ t.cache.ports = s.cache.ports ∧ t.cache.sends = s.cache.sends ++ [.writeback k])
      ∧ (∀ u : State, d.defined = true → s.cache.lowestFree = none → s.cache.victim = none →
        u = { s with
          cache := { s.cache with
            loads := s.cache.loads.filter (fun p => p.channel != c), ports := emptied, exhaustReported := true }
          notices := if s.cache.exhaustReported = true ∨ s.part.state = .quiet then s.notices else s.notices.post
            { group := some d.group, source := some q.starter, period := s.part.period
              body := .contextExhausted c q.starterLane s.cache.validContexts.length s.cache.streamingCount } } →
        exec (.contextLoadReadDone c false) s = .next ((u.arrive .rig1 behind.rig1).arrive .rig2 behind.rig2)))
    ∧ (s.sup.teardown = some .waitingLoads → s.cache.readingRequest c = some q → CacheSend.read c ∉ s.cache.sends →
      s.cache.loads = [q] → q.waiting = ⟨false, false⟩ →
      exec (.contextLoadReadDone c true) s = .next { s with
        cache := { s.cache with contexts := [], channelMap := [], lru := [], loads := [] }
        notices := if s.part.state = .quiet then s.notices else s.notices.post
          { group := none, source := some q.starter, period := s.part.period, body := .memoryFaultLoad c }
        sup := { s.sup with teardown := some (.writingBack (s.cache.validContexts.map
          (fun k => (s.dirEntryAddr (s.context k).channel, (s.context k).dirEntry.words)))) } })

/-- The end of an eviction's write-back, the first access of the Channel Cache in flight: the old channel's entry is in
DRAM with its counters, the read that waited on that entry is sent, what stood behind the write-back is taken up to the
next write-back, the context is VALID for the new channel with Cached set behind it (the write lands with this step
unless another write-back is before it: the model's choice, log 43), and each waiting port goes on, its held write
first; Rig Port 1 before Rig Port 2 (the model's choice, log 35). In an End Show teardown the last load to end lets the
write-backs of step 5 begin, that of the context just filled among them, with every context FREE as they are sent (the
model's choice, log 45). With no such write-back first in flight nothing changes (the model's choice, log 1). Words of
the write-back may be taken before, each once, and the row takes the rest (log 9): it leaves what it leaves without
them. That the words of one write are taken upward by address, where no rule orders them, is the model's choice (log
50). -/
def Obligations.Eviction : Prop :=
  ∀ (s : State) (k e f : Nat) (x : Context) (q : LoadRequest) (d : DirEntry) (rest reads : List CacheSend)
    (emptied next : PerRig (List RigRequest)), x = s.context k → e = s.dirEntryAddr x.channel →
    f = s.dirEntryAddr q.channel →
    reads = (if rest ≠ [] ∧ ∃ p ∈ s.cache.loads, p.channel = x.channel ∧ p.stage = .waitWriteback then [.read x.channel]
      else []) →
    (∀ r, emptied.get r = (if q.waiting.get r then [] else s.cache.ports.get r)
      ∧ next.get r = (if q.waiting.get r then s.cache.ports.get r else [])) →
    (s.cache.sends.head? ≠ some (.writeback k) → exec (.evictionWritebackEnd k) s = .next s)
    ∧ (s.cache.sends.head? = some (.writeback k) → s.landed.writeback ≤ 7 → ∀ n,
        exec (.evictionWritebackEnd k) (s.took n .writeback) = exec (.evictionWritebackEnd k) s
        ∧ ∃ m, m = min (s.landed.writeback + n) 7 ∧ s.took n .writeback = { s with
            mem := writeWords s.mem (e + 4 * s.landed.writeback)
              ((x.dirEntry.words.drop s.landed.writeback).take (m - s.landed.writeback))
            landed := { s.landed with writeback := m } })
    ∧ (s.sup.teardown = none → s.cache.sends = .writeback k :: rest → s.cache.evictingRequest k = some (q, d) →
      ∃ u : State, exec (.evictionWritebackEnd k) s = .next ((u.arrive .rig1 next.rig1).arrive .rig2 next.rig2)
        ∧ (∀ r w l, q.waiting = (⟨false, false⟩ : PerRig Bool).set r true → s.cache.ports.get r = [.write w] →
            (rigPlace w.addr).lane = some (q.channel, l) →
            exec (.evictionWritebackEnd k) s = .next (u.handleLaneWrite k r w))
        ∧ u = { s with
            mem := u.mem
            landed := { s.landed with writeback := 0 }
            cache := { s.cache with
              contexts := u.cache.contexts, channelMap := u.cache.channelMap, lru := s.cache.lru ++ [k]
              loads := (s.cache.loads.map (fun p => if p.channel = x.channel ∧ p.stage = .waitWriteback then
                  { p with stage := .reading } else p)).filter (fun p => p.channel != q.channel)
              ports := emptied, sends := u.cache.sends }
            sup := { s.sup with command := { s.sup.command with
              directoryWait := if s.sup.command.directoryWait = .writeback ∧ s.cmdChannel = x.channel then .read
                else s.sup.command.directoryWait } } }
        ∧ u.context k = { residence := .valid, channel := q.channel, group := d.group, kind := d.kind, lanes := ⟨[], []⟩
                          lists := ⟨[], []⟩, streaming := false, lastCommit := s.part.period, lastServed := none
                          repeatRun := 0, accepted := d.accepted, damaged := d.damaged }
        ∧ (∀ k', k' ≠ k → u.context k' = s.context k')
        ∧ u.cache.mapEntry q.channel = some k
        ∧ (∀ c', c' ≠ q.channel → u.cache.mapEntry c' = s.cache.mapEntry c')
        ∧ (∀ taken flying, rest ++ reads ++ [.cached q.channel d] = taken ++ flying →
            (∀ j, CacheSend.writeback j ∉ taken) → (∀ p, flying.head? = some p → ∃ j, p = .writeback j) →
            u.cache.sends = flying
            ∧ u.mem = takeWrites (writeWords s.mem (e + 4 * min s.landed.writeback 8)
                (x.dirEntry.words.drop s.landed.writeback)) (taken.map s.cacheWrite))
        ∧ (∀ p c', s.cacheWrite (.cached c' p) = (s.dirEntryAddr c', [{ p with cached := true }.word0])
            ∧ (s.cacheWrite (.read c')).2 = [])
        ∧ (rest = [] → q.channel ≠ x.channel → s.landed.writeback = 0 → u.cache.sends = []
            ∧ (readWord u.mem e).toNat = 1 + 4 * (if x.kind = .data then 1 else 0) + 256 * (x.group % 8)
            ∧ readWord u.mem (e + 4) = packHalves x.accepted.rig1 x.accepted.rig2
            ∧ readWord u.mem (e + 8) = packHalves x.damaged.rig1 x.damaged.rig2
            ∧ (d.defined = true → (readWord u.mem f).toNat
                = 3 + 4 * (if d.kind = .data then 1 else 0) + 256 * (d.group % 8))
            ∧ ∀ y, y < e ∨ e + 32 ≤ y → y < f ∨ f + 4 ≤ y → readByte u.mem y = readByte s.mem y))
    ∧ (s.sup.teardown = none → s.cache.sends = .writeback k :: rest → s.cache.evictingRequest k = none →
      ∃ t, exec (.evictionWritebackEnd k) s = .next t ∧ (t.context k).residence = .free
        ∧ (rest = [] → ∀ y, y < e ∨ e + 32 ≤ y → readByte t.mem y = readByte s.mem y))
    ∧ (s.sup.teardown = some .waitingLoads → s.cache.sends = [.writeback k] → s.cache.evictingRequest k = some (q, d) →
      s.cache.loads = [q] → q.waiting = ⟨false, false⟩ →
      ∃ t, exec (.evictionWritebackEnd k) s = .next t
        ∧ t.cache.contexts = [] ∧ t.cache.channelMap = [] ∧ t.cache.lru = [] ∧ t.cache.loads = [] ∧ t.cache.sends = []
        ∧ t.mem = takeWrites (writeWords s.mem (e + 4 * min s.landed.writeback 8)
            (x.dirEntry.words.drop s.landed.writeback)) [s.cacheWrite (.cached q.channel d)]
        ∧ ∃ ws, t.sup.teardown = some (.writingBack ws)
          ∧ (f, (Context.loaded q.channel d s.part.period).dirEntry.words) ∈ ws)

/-! ## The Live Ring -/

/-- The source of a channel at a resolution: both copies blend or the target's serves; the target's copy alone serves;
the other's alone covers when it may; none gives a fill, or Idle when the channel does not stream. What the choice
does: the map entry and the count of its source in the slot of the block, the block gone from both lists, the pins and
frees of the buckets, RepeatRun, the Last flag's end of Streaming, LastServed, and for a blend its output bucket and
its job. A group's resolution first releases each slot still held for a number 16 or more below, as if it were READY
(Releases states that release and the recycle behind it), from the one that carries PlayBase on and before the overdue
slots of a later group (the model's choice, log 56), then opens its slot, resolves its contexts in ascending order (the
model's choice, log 10) and sends the record, BLENDING while jobs are outstanding, else READY. A resolution takes every
group's sources before it sends any sample (the model's reading, log 12), and takes the report of a fade's last block
in the same step, before any cut that meets it (the model's choice, log 52). A period event raises Period, then takes
the acts the world put before the resolution, then the resolution, and asks for the status record last: the model's
choice (logs 11 and 34). -/
def Obligations.SourceChoice : Prop :=
  (∀ (x : Context) (gr : GroupRecord) (tv : RigVerdict) (av : AgreementVerdict) (n : Nat) (t o : Entry) (room : Bool)
    (fill : Option Entry → Choice),
    (∀ u b, x.kind = .audio → gr.fillMode = .repeatLast → x.repeatRun < gr.repeatLimit → x.lastServed = some b →
      fill u = .repeatFill b u) →
    (∀ u, x.kind = .data ∨ gr.fillMode = .silence ∨ gr.repeatLimit ≤ x.repeatRun ∨ x.lastServed = none →
      fill u = .silence u) →
    (x.streaming = false → chooseSource x gr tv av n none none room = .idle)
    ∧ (x.streaming = true → chooseSource x gr tv av n none none room = fill none)
    ∧ (gr.selectState.fading = true ∧ gr.switchPoint ≤ n ∧ n < gr.fadeEnd ∧ x.kind = .audio ∧ room = true →
        chooseSource x gr tv av n (some t) (some o) room = .blend t o)
    ∧ (gr.selectState.fading = false ∨ n < gr.switchPoint ∨ gr.fadeEnd ≤ n ∨ x.kind = .data ∨ room = false →
        chooseSource x gr tv av n (some t) (some o) room = .target t (some o))
    ∧ chooseSource x gr tv av n (some t) none room = .target t none
    ∧ (av ≠ .diverged → gr.patch = true ∨ tv = .failed →
        chooseSource x gr tv av n none (some o) room = .other o)
    ∧ (av = .diverged ∨ (gr.patch = false ∧ tv ≠ .failed) →
        chooseSource x gr tv av n none (some o) room = fill (some o)))
  ∧ (∀ (s : State) (g n k : Nat) (x : Context) (gr : GroupRecord) (h : GroupHealth) (ch : Choice), x = s.context k →
    gr = s.group g → h = s.healthOf g →
    ch = chooseSource x gr (h.record gr.targetRole).verdict h.agreement.verdict n
      (findEntry n (x.lists.get (s.rigOf gr.targetRole))) (findEntry n (x.lists.get (s.rigOf gr.targetRole.other)))
      (decide (s.blend.length < 48) && decide (s.pool.inUse .blend < s.pool.blendSize) && !s.pool.freeList.isEmpty) →
    s.resolveChannel g n k = s.applyChoice g n k ch)
  ∧ (∀ (s t : State) (g n k : Nat) (ch : Choice) (x : Context) (gr : GroupRecord) (sl : Slot)
    (mine other : Role) (used : Entry → Context) (claims : Entry → Pool → Pool) (lists : PerRig (List Entry)),
    t = s.applyChoice g n k ch → x = s.context k → gr = s.group g → sl = s.slot g (n % 16) → mine = gr.targetRole →
    other = mine.other →
    lists = ⟨x.lists.rig1.filter (fun e => e.block != n), x.lists.rig2.filter (fun e => e.block != n)⟩ →
    (∀ e, used e = { x with
        lists := lists, repeatRun := 0, streaming := x.streaming && !e.last
        lastServed := if e.last = true then none
          else if x.kind = .audio ∧ gr.fillMode = .repeatLast ∧ x.streaming = true then some e.bucket else x.lastServed }) →
    (∀ e p, claims e p = (if e.last = true then p.unpinOpt x.lastServed
      else if x.kind = .audio ∧ gr.fillMode = .repeatLast ∧ x.streaming = true then
        (p.pin e.bucket).unpinOpt x.lastServed else p)) →
    t = { s with
      pool := t.pool, cache := { s.cache with contexts := t.cache.contexts }
      resolver := { s.resolver with rings := t.resolver.rings }, blend := t.blend }
    ∧ (ch = .idle → t = s)
    ∧ (∀ k', k' ≠ k → t.context k' = s.context k')
    ∧ (∀ g' k', g' ≠ g ∨ k' ≠ n % 16 → t.slot g' k' = s.slot g' k')
    ∧ (∀ c, c ≠ x.channel →
        Table.get MapEntry.idle (t.slot g (n % 16)).map c = Table.get MapEntry.idle sl.map c)
    ∧ ((∀ e o, ch ≠ .blend e o) → t.blend = s.blend)
    ∧ (∀ e unused, ch = .target e unused →
        t.context k = used e ∧ t.pool = claims e ((s.pool.pin e.bucket).freeOpt (unused.map (fun o => o.bucket)))
        ∧ Table.get MapEntry.idle (t.slot g (n % 16)).map x.channel
            = { bucket := e.bucket, source := if mine = .main then .main else .backup }
        ∧ t.slot g (n % 16) = { sl with
            map := (t.slot g (n % 16)).map
            counts := { sl.counts with
              main := sl.counts.main + (if mine = .main then 1 else 0)
              backup := sl.counts.backup + (if mine = .backup then 1 else 0) } })
    ∧ (∀ o, ch = .other o →
        t.context k = used o ∧ t.pool = claims o (s.pool.pin o.bucket)
        ∧ Table.get MapEntry.idle (t.slot g (n % 16)).map x.channel
            = { bucket := o.bucket, source := if other = .main then .main else .backup }
        ∧ t.slot g (n % 16) = { sl with
            map := (t.slot g (n % 16)).map
            counts := { sl.counts with
              main := sl.counts.main + (if other = .main then 1 else 0)
              backup := sl.counts.backup + (if other = .backup then 1 else 0)
              patched := sl.counts.patched + 1 } })
    ∧ (∀ b unused, ch = .repeatFill b unused →
        t.context k = { x with lists := lists, repeatRun := x.repeatRun + 1 }
        ∧ t.pool = (s.pool.pin b).freeOpt (unused.map (fun o => o.bucket))
        ∧ Table.get MapEntry.idle (t.slot g (n % 16)).map x.channel = { bucket := b, source := .repeatFill }
        ∧ t.slot g (n % 16) = { sl with
            map := (t.slot g (n % 16)).map, counts := { sl.counts with fill := sl.counts.fill + 1 } })
    ∧ (∀ unused, ch = .silence unused →
        t.context k = { x with lists := lists } ∧ t.pool = s.pool.freeOpt (unused.map (fun o => o.bucket))
        ∧ Table.get MapEntry.idle (t.slot g (n % 16)).map x.channel = { bucket := 0, source := .silence }
        ∧ t.slot g (n % 16) = { sl with
            map := (t.slot g (n % 16)).map, counts := { sl.counts with fill := sl.counts.fill + 1 } })
    ∧ (∀ e o out rest (p : Pool) (job : BlendJob), ch = .blend e o → s.pool.inUse .blend < s.pool.blendSize →
        s.pool.freeList = out :: rest →
        p = { s.pool.setBucket out { state := .held, pinCount := 1, charged := .blend } with freeList := rest } →
        job = { group := g, block := n, channel := x.channel, old := o.bucket, new := e.bucket, output := out
                fadeIndex := n - gr.switchPoint, fadeLength := gr.fadeLength, phase := .queued, samples := none } →
        t.context k = used e ∧ t.pool = claims e ((p.pin e.bucket).pin o.bucket)
        ∧ Table.get MapEntry.idle (t.slot g (n % 16)).map x.channel = { bucket := out, source := .blend }
        ∧ t.slot g (n % 16) = { sl with
            map := (t.slot g (n % 16)).map, counts := { sl.counts with blend := sl.counts.blend + 1 }
            outstanding := sl.outstanding + 1 }
        ∧ (s.blend = [] → t.blend = [{ job with phase := .reading }])
        ∧ (∀ j js, s.blend = j :: js → j.phase ≠ .queued → t.blend = s.blend ++ [job])))
  ∧ (∀ (s : State) (g n : Nat) (gr : GroupRecord) (contexts : List Nat), gr = s.group g →
    contexts = s.cache.validContexts.filter (fun k => decide ((s.context k).group = g)) →
    ∃ cleared opened done : State,
      cleared = ((List.range 16).map (fun i => ((s.ring g).playBase + i) % 16)).foldl (fun t k =>
        if (t.slot g k).block + 16 ≤ n ∧ (t.slot g k).state ≠ .released then t.partRelease g k else t) s
      ∧ ((∀ k, k < 16 → n < (s.slot g k).block + 16 ∨ (s.slot g k).state = .released) → cleared = s)
      ∧ opened = { cleared with resolver := { cleared.resolver with rings := opened.resolver.rings } }
      ∧ opened.slot g (n % 16) = { cleared.slot g (n % 16) with
          block := n, outstanding := 0, map := [], counts := Counts.zero, servedRole := gr.targetRole
          switchMark := decide (gr.switchPoint = n ∧ gr.lastSwitchCause ≠ .none)
          fadeMark := decide (gr.selectState.fading = true ∧ gr.switchPoint ≤ n ∧ n < gr.fadeEnd)
          awaitingRecord := true, awaitingHeader := false }
      ∧ (∀ g' k, g' ≠ g ∨ k ≠ n % 16 → opened.slot g' k = cleared.slot g' k)
      ∧ done = contexts.foldl (fun t k => t.resolveChannel g n k) opened
      ∧ s.resolveGroup g n = { done with resolver := { done.resolver with
          writes := done.resolver.writes ++
            [{ kind := .record, group := g, slot := n % 16, block := (done.slot g (n % 16)).block
               addr := done.recordAddr g (n % 16)
               words := (done.slot g (n % 16)).record (if 0 < (done.slot g (n % 16)).outstanding then
                 SlotState.blending.code else SlotState.ready.code) }] } })
  ∧ (∀ (s chosen sampled : State) (n : Nat) (groups : List Nat), n = s.resolver.resolveFront →
    groups = (List.range 8).filter (fun g => (s.group g).defined) →
    (∃ u, u = groups.foldl (fun t g => t.resolveGroup g n) s
      ∧ chosen = { u with resolver := { u.resolver with resolveFront := n + 1 } }) →
    sampled = groups.foldl (fun t g => t.sendSamples s g n) chosen →
    s.resolve = groups.foldl (fun t g => if (s.group g).selectState.fading = true ∧ (s.group g).switchPoint ≤ n
      ∧ n + 1 = (s.group g).fadeEnd then t.fadeEndReport g n else t) sampled)
  ∧ ∀ (s u : State) (early : List PeriodWork),
    u = { s with part := { s.part with period := s.part.period + 1, startGuard := false } } →
    s.periodEvent early = ((early.foldl State.doWork u).resolve).requestStatus

/-- The Memory Port takes the record of a slot, or its READY header, with the Live Directory writes sent before it: the
slot is BLENDING while jobs are outstanding, else READY; a slot that becomes READY with its release already due is
released by the part at that moment (Releases states that release). A slot whose header is sent and not taken stays
BLENDING (the model's reading, log 21). A write no event waits for, the header of a recycled slot or a cancelled job's
entry or counts, is taken alone when it is the first in flight, or with the write that comes after it (the model's
choice, log 9). With no such write in flight nothing changes (the model's choice, log 1). Words of these writes may be
taken before, each once and in the order sent; the last word of a record or a READY header stays for its own row (log
9), which leaves what it leaves without them. That the words of one write are taken upward by address, where no rule
orders them, is the model's choice (log 50). -/
def Obligations.SlotWritesTaken : Prop :=
  (∀ (s : State) (g k : Nat) (pre rest : List SlotWrite) (w : SlotWrite),
    s.resolver.writes = pre ++ w :: rest → (∀ p ∈ pre, p.kind = .other) → w.group = g → w.slot = k →
    w.block = (s.slot g k).block →
    ∃ u : State, u = { s with
        mem := takeWrites s.mem ((pre ++ [w]).map (fun p => (p.addr, p.words)))
        resolver := { s.resolver with rings := u.resolver.rings, writes := rest } }
      ∧ (∀ g' k', g' ≠ g ∨ k' ≠ k → u.slot g' k' = s.slot g' k')
      ∧ (∀ g', u.ring g' = { s.ring g' with slots := (u.ring g').slots })
      ∧ (w.kind = .record → (s.slot g k).awaitingRecord = true →
          0 < (s.slot g k).outstanding ∨ (s.slot g k).awaitingHeader = true →
        u.slot g k = { s.slot g k with state := .blending, awaitingRecord := false }
        ∧ exec (.slotRecordWritten g k) s = .next u)
      ∧ ∀ taken : Instr,
          (w.kind = .record ∧ taken = .slotRecordWritten g k ∧ (s.slot g k).awaitingRecord = true
              ∧ (s.slot g k).outstanding = 0 ∧ (s.slot g k).awaitingHeader = false)
            ∨ (w.kind = .readyHeader ∧ taken = .slotHeaderWritten g (.ready k) ∧ (s.slot g k).awaitingHeader = true) →
        u.slot g k = { s.slot g k with state := .ready, awaitingRecord := false, awaitingHeader := false }
        ∧ (s.part.state ≠ .running ∨ (s.group g).defined = false
            ∨ s.part.period < (s.slot g k).block + s.resolver.releaseGrace → exec taken s = .next u)
        ∧ (s.part.state = .running → (s.group g).defined = true →
            (s.slot g k).block + s.resolver.releaseGrace ≤ s.part.period →
            exec taken s = .next (u.partRelease g k) ∧ exec taken s = exec (.forcedRelease g k) u))
  ∧ (∀ (s : State) (g k : Nat) (w : SlotWrite) (rest : List SlotWrite), s.resolver.writes = w :: rest → w.kind = .other →
    w.group = g → w.slot = k →
    exec (.slotHeaderWritten g (.other k)) s
      = .next { s with mem := writeWords s.mem w.addr w.words, resolver := { s.resolver with writes := rest } })
  ∧ (∀ (s : State) (n g k : Nat),
    (takeThrough .record g k s.resolver.writes ≠ none →
      exec (.slotRecordWritten g k) (s.took n .slots) = exec (.slotRecordWritten g k) s)
    ∧ (takeThrough .readyHeader g k s.resolver.writes ≠ none →
      exec (.slotHeaderWritten g (.ready k)) (s.took n .slots) = exec (.slotHeaderWritten g (.ready k)) s)
    ∧ (s.resolver.writes = [] → s.took n .slots = s)
    ∧ (∀ w rest, s.resolver.writes = w :: rest → w.kind ≠ .other ∨ n < w.words.length → ∀ m,
        m = min n (w.words.length - 1) →
        s.took n .slots = { s with
          mem := writeWords s.mem w.addr (w.words.take m)
          resolver := { s.resolver with writes := { w with addr := w.addr + 4 * m, words := w.words.drop m } :: rest } })
    ∧ (∀ w rest, s.resolver.writes = w :: rest → w.kind = .other → w.words.length ≤ n →
        s.took n .slots = ({ s with
          mem := writeWords s.mem w.addr w.words
          resolver := { s.resolver with writes := rest } } : State).took (n - w.words.length) .slots))
  ∧ ∀ (s : State) (g k : Nat),
    ((∀ w ∈ s.resolver.writes, ¬(w.kind = .record ∧ w.group = g ∧ w.slot = k)) →
      exec (.slotRecordWritten g k) s = .next s)
    ∧ ((∀ w ∈ s.resolver.writes, ¬(w.kind = .readyHeader ∧ w.group = g ∧ w.slot = k)) →
      exec (.slotHeaderWritten g (.ready k)) s = .next s)
    ∧ ((∀ w rest, s.resolver.writes = w :: rest → ¬(w.kind = .other ∧ w.group = g ∧ w.slot = k)) →
      exec (.slotHeaderWritten g (.other k)) s = .next s)

/-- Local Port reads. A request begins a read, or waits behind the one under way; the events of the Memory Port follow
it one by one. An answer gives the next word of the read under way, decoded by its own address as the state then stands:
a DRAM word as it stands; Error where there is no memory; zeros in the Live Window outside a show, in an undefined group
and in a hole, and before the slot is READY, counted once for a read; else the bucket word its slot's map entry in DRAM
names. With the map entry alone answered the word stays under way, and the next answer gives the bucket word that then
stands, whatever the slot has become (R85). Behind its last word the read is answered, behind the answers before it, and
the requests that waited are taken in their order. Between two answers the Memory Port may take words of the part's
writes in flight (R162; the rows that end those writes state them). That the Memory Port's events are operands, and that
one answer may stand for both reads of a word, is the model's choice (logs 14, 15, 18). With no read under way an answer
changes nothing (the model's choice, log 1). While RESET_N is low ResetCommand states the form. -/
def Obligations.LocalPortReads : Prop :=
  (∀ (s : State) (x n m : Nat) (ev : List PortEvent), s.lines.resetLow = false →
    (s.burst = none → exec (.liveWindowRead (.localPort x) (n + 1) ev) s
      = exec (.liveWindowRead .burst m ev) { s with
          burst := some
            { addr := x, left := n + 1, data := [], error := false, early := false, entry := none, waiting := [] } })
    ∧ (∀ b, s.burst = some b → exec (.liveWindowRead (.localPort x) n ev) s
      = exec (.liveWindowRead .burst m ev) { s with burst := some { b with waiting := b.waiting ++ [.read x n] } })
    ∧ exec (.liveWindowRead .burst m []) s = .next s
    ∧ ∀ e, ∃ t, exec (.liveWindowRead .burst m [e]) s = .next t
        ∧ exec (.liveWindowRead .burst m (e :: ev)) s = exec (.liveWindowRead .burst m ev) t)
  ∧ (∀ (s : State) (m n : Nat) (w : Writer), s.lines.resetLow = false →
      exec (.liveWindowRead .burst m [.took w n]) s = .next (s.took n w))
  ∧ (∀ (s : State) (m : Nat) (st : ReadStatus), s.burst = none → s.lines.resetLow = false →
      exec (.liveWindowRead .burst m [.answer st]) s = .next s)
  ∧ ∀ (s : State) (m : Nat) (st : ReadStatus) (b : ReadBurst) (after : ReadBurst → State → Word → Bool → State),
    s.lines.resetLow = false → s.burst = some b → 0 < b.left →
    (∀ c u w e, after c u w e = if c.left = 1 then
        c.waiting.foldl State.localRequest
          { u with burst := none, answers := u.answers ++ [⟨c.data ++ [w], c.error || e⟩] }
      else { u with burst := some { c with
        addr := c.addr + 4, left := c.left - 1, data := c.data ++ [w], error := c.error || e, entry := none } }) →
    (∀ y, b.entry = some y →
      (st = .ok ∨ st = .entryRead →
        exec (.liveWindowRead .burst m [.answer st]) s = .next (after b s (readWord s.mem y) false))
      ∧ (st = .firstError ∨ st = .secondError →
        exec (.liveWindowRead .burst m [.answer st]) s = .next (after b s 0 true)))
    ∧ (b.entry = none →
      (b.addr < s.lines.dramSize → b.addr < 4294967296 →
        (st = .ok ∨ st = .entryRead →
          exec (.liveWindowRead .burst m [.answer st]) s = .next (after b s (readWord s.mem b.addr) false))
        ∧ (st = .firstError ∨ st = .secondError →
          exec (.liveWindowRead .burst m [.answer st]) s = .next (after b s 0 true)))
      ∧ (4294967296 + 67108864 ≤ b.addr ∨ (s.lines.dramSize ≤ b.addr ∧ b.addr < 4294967296) →
        exec (.liveWindowRead .burst m [.answer st]) s = .next (after b s 0 true))
      ∧ ∀ g k c o, g < 8 → k < 16 → c < 1024 → o < 512 →
        b.addr = 4294967296 + 8388608 * g + 524288 * k + 512 * c + o →
        (s.part.state = .quiet ∨ s.part.state = .standby ∨ (s.group g).defined = false ∨ 768 ≤ c →
          exec (.liveWindowRead .burst m [.answer st]) s = .next (after b s 0 false))
        ∧ (s.part.state = .armed ∨ s.part.state = .running → (s.group g).defined = true → c < 768 →
          ((s.slot g k).state = .empty ∨ (s.slot g k).state = .blending →
            (b.early = true →
              exec (.liveWindowRead .burst m [.answer st]) s = .next (after b s 0 false))
            ∧ (b.early = false →
              exec (.liveWindowRead .burst m [.answer st]) s = .next (after { b with early := true }
                { s with resolver := { s.resolver with readerEarly := sat16 s.resolver.readerEarly } } 0 false)))
          ∧ ((s.slot g k).state = .ready ∨ (s.slot g k).state = .released → ∀ a y, s.sup.anchor = some a →
            y = s.pool.base + (readWord s.mem (a.liveDirectoryBase + 4096 * (16 * g + k) + 64 + 4 * c)).toNat % 131072 * 512
              + o →
            ∃ good bad : State, good = { s with resolver := { s.resolver with rings := good.resolver.rings } }
              ∧ good.ring g = { s.ring g with mapFaultReported := false }
              ∧ (∀ h, h ≠ g → good.ring h = s.ring h)
              ∧ bad = { s with
                  resolver := { s.resolver with rings := bad.resolver.rings }
                  notices := if (s.ring g).mapFaultReported then s.notices else s.notices.post
                    { group := some g, source := none, period := s.part.period, body := .memoryFaultMap c k } }
              ∧ bad.ring g = { s.ring g with mapFaultReported := true } ∧ (∀ h, h ≠ g → bad.ring h = s.ring h)
              ∧ (st = .ok → exec (.liveWindowRead .burst m [.answer st]) s = .next (after b good (readWord s.mem y) false))
              ∧ (st = .entryRead → exec (.liveWindowRead .burst m [.answer st]) s
                  = .next { good with burst := some { b with entry := some y } })
              ∧ (st = .secondError → exec (.liveWindowRead .burst m [.answer st]) s = .next (after b good 0 true))
              ∧ (st = .firstError → exec (.liveWindowRead .burst m [.answer st]) s = .next (after b bad 0 true)))))

/-- The release of a slot, by the reader's whole-word write of the block number to its release word or by the part when
ReleaseGrace has run out: a slot that does not carry PlayBase becomes RELEASED; the one that does is recycled, its pins
dropped in ascending channel number (the model's choice, log 10), its EMPTY header for the number 16 higher sent, and
PlayBase rises; it goes on rising over every RELEASED slot that follows. A wrong release counts as a ReaderFault; a
release that is not due changes nothing. A slot released by the part is reported late until a reader release of the
group succeeds. The reader's forms stand with no Local Port read under way (LocalPortWrites states the other form) and
RESET_N high (ResetCommand states the rest). Before the first take, and for a forced release that is not due, nothing
changes (the model's choice, log 1). -/
def Obligations.Releases : Prop :=
  (∀ (s : State) (g k : Nat), s.releaseSlot g k
      = (s.modifySlot g k (fun sl => { sl with state := .released })).advancePlayBase g 16
    ∧ ∃ u : State, s.partRelease g k = u.releaseSlot g k ∧ u = { s with
        resolver := { s.resolver with rings := u.resolver.rings }
        notices := if (s.ring g).readerLateReported = true ∨ s.part.state = .quiet then s.notices else s.notices.post
          { group := some g, source := none, period := s.part.period, body := .readerLate (s.slot g k).block } }
      ∧ u.ring g = { s.ring g with readerLateReported := true } ∧ ∀ h, h ≠ g → u.ring h = s.ring h)
  ∧ (∀ (s : State) (g m : Nat), m ≤ 16 → (∀ i, i < m → (s.slot g (((s.ring g).playBase + i) % 16)).state = .released) →
      (m < 16 → (s.slot g (((s.ring g).playBase + m) % 16)).state ≠ .released) →
      s.advancePlayBase g 16 = (List.range m).foldl (fun t _ => t.recycle g) s)
  ∧ (∀ (s : State) (g k base : Nat), base = (s.ring g).playBase → k = base % 16 →
      ∃ t, t = s.recycle g
        ∧ t = { s with
            pool := (s.slot g k).map.foldl (fun p e => if e.2.bucket = 0 then p else p.unpin e.2.bucket) s.pool
            resolver := { s.resolver with
              rings := t.resolver.rings
              writes := s.resolver.writes ++
                [{ kind := .other, group := g, slot := k, block := base + 16, addr := s.recordAddr g k
                   words := [0, blockLow (base + 16), blockHigh (base + 16), 0xFFFFFFFF, 1, 0, 0, 0, 0, 0, 0, 0, 0, 0, 0,
                     0] }] } }
        ∧ t.slot g k = { s.slot g k with
            state := .empty, block := base + 16, outstanding := 0, counts := Counts.zero, servedRole := .main
            switchMark := false, fadeMark := false, awaitingRecord := false, awaitingHeader := false }
        ∧ t.ring g = { s.ring g with playBase := base + 1, slots := (t.ring g).slots }
        ∧ ∀ g' k', g' ≠ g ∨ k' ≠ k → t.slot g' k' = s.slot g' k')
  ∧ ∀ (s : State) (g k : Nat) (v : Word) (base : Nat), g < 8 → k < 16 → base = (s.ring g).playBase → s.burst = none →
    s.lines.resetLow = false →
    (s.sup.anchor = none → ∀ en, exec (.readerRelease g k v en) s = .next s)
    ∧ (∀ a, s.sup.anchor = some a → a.ok s.lines.dramSize = true →
      s.part.state = .quiet ∨ s.part.state = .standby ∨ (s.group g).defined = false →
      exec (.readerRelease g k v 15) s
          = .next { s with mem := writeWord s.mem (a.liveDirectoryBase + 4096 * (16 * g + k) + 12) v }
        ∧ ∀ en, en ≠ 15 → exec (.readerRelease g k v en) s = .next s)
    ∧ (∀ a, s.sup.anchor = some a → a.ok s.lines.dramSize = true →
      s.part.state = .armed ∨ s.part.state = .running → (s.group g).defined = true →
      (∀ en, en ≠ 15 → exec (.readerRelease g k v en) s
        = .next { s with resolver := { s.resolver with readerFault := sat16 s.resolver.readerFault } })
      ∧ ((s.slot g k).state ≠ .ready ∨ v ≠ BitVec.ofNat 32 (s.slot g k).block →
        exec (.readerRelease g k v 15) s = .next { s with
          mem := writeWord s.mem (a.liveDirectoryBase + 4096 * (16 * g + k) + 12) v
          resolver := { s.resolver with readerFault := sat16 s.resolver.readerFault } })
      ∧ ((s.slot g k).state = .ready → v = BitVec.ofNat 32 (s.slot g k).block →
        ∃ u : State, exec (.readerRelease g k v 15) s = .next (u.releaseSlot g k)
          ∧ u = { s with mem := writeWord s.mem (a.liveDirectoryBase + 4096 * (16 * g + k) + 12) v
                         resolver := { s.resolver with rings := u.resolver.rings } }
          ∧ u.ring g = { s.ring g with readerLateReported := false } ∧ ∀ h, h ≠ g → u.ring h = s.ring h)
      ∧ ((s.slot g k).state = .ready → v = BitVec.ofNat 32 (s.slot g k).block → k ≠ base % 16 →
        (s.slot g (base % 16)).state ≠ .released →
        ∃ t, exec (.readerRelease g k v 15) s = .next t
          ∧ t = { s with mem := writeWord s.mem (a.liveDirectoryBase + 4096 * (16 * g + k) + 12) v
                         resolver := { s.resolver with rings := t.resolver.rings } }
          ∧ t.slot g k = { s.slot g k with state := .released }
          ∧ (t.ring g).playBase = base ∧ (t.ring g).readerLateReported = false
          ∧ (∀ g' k', g' ≠ g ∨ k' ≠ k → t.slot g' k' = s.slot g' k'))
      ∧ ((s.slot g k).state = .ready → v = BitVec.ofNat 32 (s.slot g k).block → k = base % 16 →
        (s.slot g ((base + 1) % 16)).state ≠ .released →
        ∃ t, exec (.readerRelease g k v 15) s = .next t
          ∧ t.mem = writeWord s.mem (a.liveDirectoryBase + 4096 * (16 * g + k) + 12) v
          ∧ (t.ring g).playBase = base + 1 ∧ (t.ring g).readerLateReported = false
          ∧ (t.slot g k).state = .empty ∧ (t.slot g k).block = base + 16 ∧ (t.slot g k).outstanding = 0
          ∧ t.pool = (s.slot g k).map.foldl (fun p e => if e.2.bucket = 0 then p else p.unpin e.2.bucket) s.pool
          ∧ t.resolver.writes.length = s.resolver.writes.length + 1
          ∧ t.cache = s.cache ∧ t.part = s.part ∧ t.groups = s.groups
          ∧ (∀ g' k', g' ≠ g ∨ k' ≠ k → t.slot g' k' = s.slot g' k')))
    ∧ (s.part.state ≠ .running ∨ (s.group g).defined = false ∨ (s.slot g k).state ≠ .ready
          ∨ s.part.period < (s.slot g k).block + s.resolver.releaseGrace →
        exec (.forcedRelease g k) s = .next s)
    ∧ (s.part.state = .running → (s.group g).defined = true → (s.slot g k).state = .ready →
        (s.slot g k).block + s.resolver.releaseGrace ≤ s.part.period →
        exec (.forcedRelease g k) s = .next (s.partRelease g k))
    ∧ (s.part.state = .running → (s.group g).defined = true → (s.slot g k).state = .ready →
        (s.slot g k).block + s.resolver.releaseGrace ≤ s.part.period → k ≠ base % 16 →
        (s.slot g (base % 16)).state ≠ .released →
        ∃ t, exec (.forcedRelease g k) s = .next t
          ∧ t = { s with notices := t.notices, resolver := { s.resolver with rings := t.resolver.rings } }
          ∧ t.slot g k = { s.slot g k with state := .released } ∧ (t.ring g).readerLateReported = true
          ∧ (∀ g' k', g' ≠ g ∨ k' ≠ k → t.slot g' k' = s.slot g' k')
          ∧ t.notices = (if (s.ring g).readerLateReported then s.notices else s.notices.post
              { group := some g, source := none, period := s.part.period, body := .readerLate (s.slot g k).block }))
    ∧ (s.part.state = .running → (s.group g).defined = true → (s.slot g k).state = .ready →
        (s.slot g k).block + s.resolver.releaseGrace ≤ s.part.period → k = base % 16 →
        (s.slot g ((base + 1) % 16)).state ≠ .released →
        ∃ t, exec (.forcedRelease g k) s = .next t ∧ t.mem = s.mem
          ∧ (t.ring g).playBase = base + 1 ∧ (t.ring g).readerLateReported = true
          ∧ (t.slot g k).state = .empty ∧ (t.slot g k).block = base + 16
          ∧ t.pool = (s.slot g k).map.foldl (fun p e => if e.2.bucket = 0 then p else p.unpin e.2.bucket) s.pool
          ∧ (∀ g' k', g' ≠ g ∨ k' ≠ k → t.slot g' k' = s.slot g' k'))

/-! ## The Blend Engine -/

/-- R109: the weight of each sample of a fade, and its bounds; and the sample it gives, between the two it is formed
from. -/
def Obligations.CrossfadeArithmetic : Prop :=
  (∀ f l i : Nat, fadeWeight f l i = 65536 * (f * 128 + i + 1) / (128 * l + 1))
  ∧ (∀ f l i : Nat, f < l → i < 128 →
      65536 / (128 * l + 1) ≤ fadeWeight f l i ∧ fadeWeight f l i ≤ 65536 * (128 * l) / (128 * l + 1)
      ∧ fadeWeight f l i ≤ 65535 ∧ (l ≤ 16 → 31 ≤ fadeWeight f l i))
  ∧ (∀ (a b : Word) (w : Nat), w ≤ 65536 →
      (crossfade a b w).toInt = (a.toInt * (65536 - (w : Int)) + b.toInt * (w : Int)) / 65536
      ∧ min a.toInt b.toInt ≤ (crossfade a b w).toInt ∧ (crossfade a b w).toInt ≤ max a.toInt b.toInt)
  ∧ ∀ (s : State) (j : BlendJob), (s.jobSamples j).length = 128 ∧ ∀ i, i < 128 →
      (s.jobSamples j).getD i 0 = crossfade (readWord s.mem (s.pool.base + j.old * 512 + 4 * i))
        (readWord s.mem (s.pool.base + j.new * 512 + 4 * i)) (fadeWeight j.fadeIndex j.fadeLength i)

/-- The running job: its reads are answered, its output is taken, its discarded output is taken after the deadline, or
a read of it fails. That the 256 input words are all taken at the row that ends the reads is the model's choice (log
57). A job cancelled while it reads ends its reads first, and no output word is written before. Its slot is told as
long as it carries the job's block. The Source of a MemoryFault is the rig port of the failing input's role: New is the
served role's, Old the other's. After a read error the rewritten entry is sent before the counts, each a write of its
own, and the READY header behind them (the model's choice, log 46). In an End Show flush the end of the job, by its
last output word or by a read error, drops the pins it still holds without notice or report, and the teardown goes on.
Words of the output may be taken before, each once, and the row takes the rest (log 9): it leaves what it leaves
without them. In a phase an act does not fit nothing changes (the model's choice, log 1), and a DRAINING job's output
is written to the end (log 23). That the words of one write are taken upward by address, where no rule orders them, is
the model's choice (log 50). -/
def Obligations.BlendJobEnds : Prop :=
  ∀ (s : State) (j : BlendJob) (js : List BlendJob) (k : Nat) (sl : Slot), s.blend = j :: js → k = j.block % 16 →
    sl = s.slot j.group k →
    (j.phase = .queued ∨ j.phase = .writing ∨ (j.phase = .draining ∧ j.samples ≠ none) →
      exec .blendReadingDone s = .next s ∧ ∀ i, exec (.blendReadError i) s = .next s)
    ∧ (j.phase = .reading →
      exec .blendReadingDone s
        = .next { s with blend := { j with phase := .writing, samples := some (s.jobSamples j) } :: js })
    ∧ (j.phase = .draining → j.samples = none →
      exec .blendReadingDone s = .next { s with blend := { j with samples := some (s.jobSamples j) } :: js })
    ∧ (j.phase ≠ .writing → exec .blendJobComplete s = .next s)
    ∧ (j.phase ≠ .draining ∨ j.samples = none → exec .blendDrainEnd s = .next s)
    ∧ (∀ (out : List Word) (d : Nat) (p : Pool), j.samples = some out → d = min s.landed.blend out.length →
      (∀ n, (j.phase = .writing → exec .blendJobComplete (s.took n .blend) = exec .blendJobComplete s)
        ∧ (j.phase = .draining → exec .blendDrainEnd (s.took n .blend) = exec .blendDrainEnd s)
        ∧ ∃ m, m = min n (out.length - d - 1) ∧ s.took n .blend = { s with
            mem := writeWords s.mem (s.pool.base + j.output * 512 + 4 * d) ((out.drop d).take m)
            landed := { s.landed with blend := s.landed.blend + m } })
      ∧ ∃ taken : State, taken = { s with
          mem := writeWords s.mem (s.pool.base + j.output * 512 + 4 * d) (out.drop d)
          landed := { s.landed with blend := 0 } }
        ∧ (∀ x, x < s.pool.base + j.output * 512 + 4 * d ∨ s.pool.base + j.output * 512 + 4 * out.length ≤ x →
            readByte taken.mem x = readByte s.mem x)
        ∧ (s.sup.teardown = none → j.phase = .writing → p = (s.pool.unpin j.new).unpin j.old →
          (sl.block ≠ j.block → exec .blendJobComplete s = .next { taken with pool := p, blend := startHead js })
          ∧ (sl.block = j.block → ∃ t, exec .blendJobComplete s = .next t
            ∧ t = { taken with
                pool := p
                blend := startHead js
                resolver := { s.resolver with rings := t.resolver.rings, writes := t.resolver.writes } }
            ∧ t.slot j.group k = { sl with
                outstanding := sl.outstanding - 1
                awaitingHeader := sl.awaitingHeader || decide (sl.outstanding ≤ 1) }
            ∧ (∀ g i, g ≠ j.group ∨ i ≠ k → t.slot g i = s.slot g i)
            ∧ (2 ≤ sl.outstanding → t.resolver.writes = s.resolver.writes)
            ∧ (sl.outstanding ≤ 1 → t.resolver.writes = s.resolver.writes ++
                [{ kind := .readyHeader, group := j.group, slot := k, block := sl.block
                   addr := s.recordAddr j.group k, words := (t.slot j.group k).header SlotState.ready.code }])))
        ∧ (s.sup.teardown = none → j.phase = .draining →
          exec .blendDrainEnd s
            = .next { taken with pool := (s.pool.unpin j.output).unpin j.old, blend := startHead js })
        ∧ (s.sup.teardown = some .flushing → js = [] → j.phase = .writing →
          p = ((s.pool.unpin j.output).unpin j.new).unpin j.old →
          exec .blendJobComplete s = .next { taken with pool := p, blend := [] }.advanceTeardown)
        ∧ (s.sup.teardown = some .flushing → js = [] → j.phase = .draining → p = (s.pool.unpin j.output).unpin j.old →
          exec .blendDrainEnd s = .next { taken with pool := p, blend := [] }.advanceTeardown))
    ∧ (∀ (i : BlendInput) (src : Rig) (post : NoticeUnit) (p : Pool), s.sup.teardown = none → j.phase = .reading →
      (i = .new → src = s.rigOf sl.servedRole) →
      (i = .old → src = s.rigOf (if sl.servedRole = .main then .backup else .main)) →
      post = (if s.part.state = .quiet then s.notices else s.notices.post
        { group := some j.group, source := some src, period := s.part.period
          body := .memoryFaultBlend j.channel i j.block }) →
      p = (s.pool.unpin j.output).unpin j.old →
      (sl.block ≠ j.block →
        exec (.blendReadError i) s = .next { s with pool := p, blend := startHead js, notices := post })
      ∧ (sl.block = j.block → ∃ t, exec (.blendReadError i) s = .next t
        ∧ t = { s with
            pool := p
            blend := startHead js
            notices := post
            resolver := { s.resolver with rings := t.resolver.rings, writes := t.resolver.writes } }
        ∧ t.slot j.group k = { sl with
            map := (t.slot j.group k).map
            counts := { sl.counts with
              blend := sl.counts.blend - 1
              main := sl.counts.main + (if sl.servedRole = .main then 1 else 0)
              backup := sl.counts.backup + (if sl.servedRole = .main then 0 else 1) }
            outstanding := sl.outstanding - 1
            awaitingHeader := sl.awaitingHeader || decide (sl.outstanding ≤ 1) }
        ∧ (∀ e, e = { bucket := j.new, source := if sl.servedRole = .main then .main else .backup : MapEntry } →
            Table.get MapEntry.idle (t.slot j.group k).map j.channel = e
            ∧ ∃ counts ready : SlotWrite, t.resolver.writes = s.resolver.writes ++
                { kind := .other, group := j.group, slot := k, block := sl.block
                  addr := s.recordAddr j.group k + 64 + 4 * j.channel, words := [e.word] } :: counts
                  :: (if sl.outstanding ≤ 1 then [ready] else [])
              ∧ counts = { kind := .other, group := j.group, slot := k, block := sl.block
                           addr := s.recordAddr j.group k + 24
                           words := [word (t.slot j.group k).counts.main, word (t.slot j.group k).counts.backup,
                             word (t.slot j.group k).counts.blend] }
              ∧ ready = { kind := .readyHeader, group := j.group, slot := k, block := sl.block
                          addr := s.recordAddr j.group k
                          words := (t.slot j.group k).header SlotState.ready.code })
        ∧ (∀ c, c ≠ j.channel →
            Table.get MapEntry.idle (t.slot j.group k).map c = Table.get MapEntry.idle sl.map c)
        ∧ (∀ g i', g ≠ j.group ∨ i' ≠ k → t.slot g i' = s.slot g i')))
    ∧ (∀ (i : BlendInput) (p : Pool), j.samples = none →
      (s.sup.teardown = none → j.phase = .draining → p = (s.pool.unpin j.output).unpin j.old →
        exec (.blendReadError i) s = .next { s with pool := p, blend := startHead js })
      ∧ (s.sup.teardown = some .flushing → js = [] → j.phase = .draining → p = (s.pool.unpin j.output).unpin j.old →
        exec (.blendReadError i) s = .next { s with pool := p, blend := [] }.advanceTeardown)
      ∧ (s.sup.teardown = some .flushing → js = [] → j.phase = .reading →
        p = ((s.pool.unpin j.output).unpin j.new).unpin j.old →
        exec (.blendReadError i) s = .next { s with pool := p, blend := [] }.advanceTeardown))
    ∧ (∀ u : State, u.sup.teardown = some .flushing → u.blend = [] →
      u.advanceTeardown.blend = [] ∧ u.advanceTeardown.notices = u.notices
      ∧ u.advanceTeardown.sup.teardown ≠ some .flushing ∧ u.advanceTeardown.sup.teardown ≠ none
      ∧ (∀ g i, (u.advanceTeardown.slot g i).state = .empty)
      ∧ ∀ c i l, (u.advanceTeardown.lane c i l).state = .idle)

/-- The deadline of the current Period: outside RUNNING nothing; while RUNNING no job of a block heard by now is left
but as DRAINING, and later jobs stay. A queued job behind the running one leaves the queue with its pins on Output and
Old dropped; the running job becomes DRAINING and keeps them. Each cancelled job's channel is cut to the target's block:
its map entry, the counts and Outstanding of its slot, and at the last of them the READY header, each of these writes
with its words; that the entry is sent before the counts, each a write of its own, is the model's choice (log 46).
Outside RUNNING nothing changes (the model's choice, log 1); which blocks are heard by now, log 23; the order of the
jobs, log 38. -/
def Obligations.BlendDeadline : Prop :=
  ∀ s : State,
    (s.part.state ≠ .running → exec .blendDeadline s = .next s)
    ∧ (s.part.state = .running → ∃ t, exec .blendDeadline s = .next t
      ∧ t = { s with
          pool := t.pool, blend := t.blend
          resolver := { s.resolver with rings := t.resolver.rings, writes := t.resolver.writes } }
      ∧ (∀ j ∈ t.blend, j.block ≤ s.part.period → j.phase = .draining)
      ∧ (t.blend.map (fun j => (j.group, j.block, j.channel)))
          = (s.blend.filter (fun j => !(decide (j.block ≤ s.part.period) && j.phase == .queued))).map
              (fun j => (j.group, j.block, j.channel))
      ∧ (∀ j js, s.blend = j :: js → j.phase ≠ .queued → (∀ i ∈ js, i.phase = .queued) →
          t.blend = (if j.block ≤ s.part.period then { j with phase := .draining } else j)
            :: js.filter (fun i => decide (s.part.period < i.block))
          ∧ t.pool = (js.filter (fun i => decide (i.block ≤ s.part.period))).foldl
              (fun p i => (p.unpin i.output).unpin i.old) s.pool)
      ∧ (∃ extra, t.resolver.writes = s.resolver.writes ++ extra)
      ∧ ∀ (g k n : Nat) (due : List BlendJob) (sl : Slot) (cut : Source), k < 16 → sl = s.slot g k →
          cut = (if sl.servedRole = .main then .main else .backup) →
          due = s.blend.filter (fun j => decide (j.block ≤ s.part.period ∧ j.phase ≠ .draining ∧ j.group = g
            ∧ j.block % 16 = k ∧ sl.block = j.block)) →
          n = due.length →
        t.slot g k = { sl with
          map := (t.slot g k).map
          outstanding := sl.outstanding - n
          counts := { sl.counts with
            blend := sl.counts.blend - n
            main := sl.counts.main + (if sl.servedRole = .main then n else 0)
            backup := sl.counts.backup + (if sl.servedRole = .main then 0 else n) }
          awaitingHeader := sl.awaitingHeader || decide (1 ≤ n ∧ sl.outstanding ≤ n) }
        ∧ (∀ j ∈ due, (∀ i ∈ due, i.channel = j.channel → i = j) →
            Table.get MapEntry.idle (t.slot g k).map j.channel = { bucket := j.new, source := cut })
        ∧ (∀ c, (∀ j ∈ due, j.channel ≠ c) →
            Table.get MapEntry.idle (t.slot g k).map c = Table.get MapEntry.idle sl.map c)
        ∧ ∀ (main backup blend : Nat → Nat) (extra : List SlotWrite),
            (∀ i, main i = sl.counts.main + (if sl.servedRole = .main then i else 0)) →
            (∀ i, backup i = sl.counts.backup + (if sl.servedRole = .main then 0 else i)) →
            (∀ i, blend i = sl.counts.blend - i) →
            t.resolver.writes = s.resolver.writes ++ extra →
            extra.filter (fun w => decide (w.group = g ∧ w.slot = k)) = due.zipIdx.flatMap (fun p =>
              [{ kind := .other, group := g, slot := k, block := sl.block, addr := s.recordAddr g k + 64 + 4 * p.1.channel
                 words := [BitVec.ofNat 32 (p.1.new % 131072 + 16777216 * (if sl.servedRole = .main then 1 else 2))] },
               { kind := .other, group := g, slot := k, block := sl.block, addr := s.recordAddr g k + 24
                 words := [main (p.2 + 1), backup (p.2 + 1), blend (p.2 + 1)].map (BitVec.ofNat 32) }]
              ++ (if sl.outstanding ≤ p.2 + 1 then
                [{ kind := .readyHeader, group := g, slot := k, block := sl.block, addr := s.recordAddr g k
                   words := [2, BitVec.ofNat 32 sl.block, BitVec.ofNat 32 (sl.block / 4294967296 % 65536), 0xFFFFFFFF,
                     if sl.servedRole = .main then 1 else 2,
                     BitVec.ofNat 32 ((if sl.switchMark = true then 1 else 0) + (if sl.fadeMark = true then 2 else 0)),
                     BitVec.ofNat 32 (main (p.2 + 1)), BitVec.ofNat 32 (backup (p.2 + 1)), BitVec.ofNat 32 (blend (p.2 + 1)),
                     BitVec.ofNat 32 sl.counts.fill, BitVec.ofNat 32 sl.counts.patched, 0, 0, 0, 0, 0] }]
                else [])))

/-! ## Health -/

/-- The close of a group's window: each rig's record is judged in and out of bounds, the Agreement Record is judged on
its comparisons, every count of the window is cleared, pending settings adopted, and the next window begins; a changed
verdict is posted and evaluated, and the window is reported if Report is set. The order of the notices is the model's
choice (log 42). A close that is not due changes nothing (the model's choice, log 1). The samples of a resolution: one
comparison per channel that both rigs hold, the shortest lead of each rig over the Streaming channels, and a Miss per
role that lacks the block of one, MAIN's before BACKUP's (the model's choice, log 37). A Miss that raises Misses to
MissTrip trips: the record is FAILED at once, posted, and evaluated; that VerdictChanged joins the queue before the
notices of the evaluation is the model's choice (log 47). -/
def Obligations.HealthWindowClose : Prop :=
  (∀ (s : State) (g : Nat) (h : GroupHealth) (st next : HealthSettings) (bad : HealthRecord → Prop)
    (rec : HealthRecord → HealthRecord) (agr : AgreementRecord), h = s.healthOf g → st = h.settings →
    next = h.pendingSettings.getD st →
    (∀ x, bad x ↔ st.maxDamaged < x.damaged ∨ st.maxOffTime < x.offTime ∨ st.maxRepeats < x.repeats
      ∨ st.maxMisses < x.misses ∨ st.maxCommonDraws < x.commonDraws
      ∨ x.commits = 65535 ∨ x.damaged = 65535 ∨ x.offTime = 65535 ∨ x.repeats = 65535 ∨ x.misses = 65535
      ∨ x.commonDraws = 65535 ∨ (∃ m, x.leadMin = some m ∧ m < st.leadFloor) ∨ x.tripReported = true) →
    (∀ x, (bad x → rec x = { x with
          badRun := if x.badRun < 15 then x.badRun + 1 else x.badRun, goodRun := 0
          verdict := if st.failAfter ≤ (if x.badRun < 15 then x.badRun + 1 else x.badRun) ∨ x.verdict = .failed then
            .failed else .suspect })
      ∧ (¬bad x → rec x = { x with
          badRun := 0, goodRun := if x.goodRun < 15 then x.goodRun + 1 else x.goodRun
          verdict := if st.soundAfter ≤ (if x.goodRun < 15 then x.goodRun + 1 else x.goodRun) then .sound
            else x.verdict })) →
    (h.agreement.compared = 0 → agr = h.agreement) →
    (0 < h.agreement.compared → st.maxDisagree < h.agreement.disagreed → agr = { h.agreement with
      goodRun := 0, badRun := if h.agreement.badRun < 15 then h.agreement.badRun + 1 else h.agreement.badRun
      verdict := if st.divergeAfter ≤ (if h.agreement.badRun < 15 then h.agreement.badRun + 1 else h.agreement.badRun)
        then .diverged else h.agreement.verdict }) →
    (0 < h.agreement.compared → h.agreement.disagreed ≤ st.maxDisagree → agr = { h.agreement with
      badRun := 0, goodRun := if h.agreement.goodRun < 15 then h.agreement.goodRun + 1 else h.agreement.goodRun
      verdict := if st.agreeAfter ≤ (if h.agreement.goodRun < 15 then h.agreement.goodRun + 1 else h.agreement.goodRun)
        then .agreed else h.agreement.verdict }) →
    (s.part.state ≠ .running ∨ (s.group g).defined = false ∨ h.windowOpen = false ∨ s.part.period < h.windowEnd →
      exec (.healthWindowClose g) s = .next s)
    ∧ (s.part.state = .running → (s.group g).defined = true → h.windowOpen = true → h.windowEnd ≤ s.part.period →
      ∃ judged told t : State, exec (.healthWindowClose g) s = .next t
        ∧ judged = { s with health := judged.health, notices := judged.notices }
        ∧ judged.healthOf g = { h with main := rec h.main, backup := rec h.backup, agreement := agr }
        ∧ (∀ g', g' ≠ g → judged.healthOf g' = s.healthOf g')
        ∧ (∃ n1 n2 : NoticeUnit,
            n1 = (if (rec h.main).verdict = h.main.verdict then s.notices else s.notices.post
              { group := some g, source := some (s.rigOf .main), period := s.part.period
                body := .rigVerdictChanged .main h.main.verdict (rec h.main).verdict false (rec h.main).badRun
                  (rec h.main).goodRun })
            ∧ n2 = (if (rec h.backup).verdict = h.backup.verdict then n1 else n1.post
              { group := some g, source := some (s.rigOf .backup), period := s.part.period
                body := .rigVerdictChanged .backup h.backup.verdict (rec h.backup).verdict false (rec h.backup).badRun
                  (rec h.backup).goodRun })
            ∧ judged.notices = (if agr.verdict = h.agreement.verdict then n2 else n2.post
              { group := some g, source := none, period := s.part.period
                body := .agreementChanged h.agreement.verdict agr.verdict agr.badRun agr.goodRun }))
        ∧ told = (if (rec h.main).verdict = h.main.verdict ∧ (rec h.backup).verdict = h.backup.verdict
            ∧ agr.verdict = h.agreement.verdict then judged else judged.evaluate g)
        ∧ t = { told with health := t.health, notices := t.notices }
        ∧ (∀ g', g' ≠ g → t.healthOf g' = s.healthOf g')
        ∧ t.healthOf g = { h with
            main := { rec h.main with
              commits := 0, damaged := 0, offTime := 0, repeats := 0, misses := 0, commonDraws := 0, leadMin := none
              tripReported := false }
            backup := { rec h.backup with
              commits := 0, damaged := 0, offTime := 0, repeats := 0, misses := 0, commonDraws := 0, leadMin := none
              tripReported := false }
            agreement := { agr with compared := 0, disagreed := 0 }
            settings := next, pendingSettings := none, windowOpen := true
            windowEnd := s.part.period + next.windowLength }
        ∧ (st.report = false → t.notices = told.notices)
        ∧ (∀ report : Role → Notice, st.report = true →
            (∀ r x, x = h.record r →
              ∃ out, (out = true ↔ bad x) ∧ report r =
                { group := some g, source := some (s.rigOf r), period := s.part.period
                  body := .windowReport x.commits x.damaged x.offTime x.repeats x.misses x.commonDraws x.leadMin
                    x.tripReported out h.agreement.compared h.agreement.disagreed }) →
            t.notices = (told.notices.post (report .main)).post (report .backup))))
  ∧ (∀ (s : State) (g : Nat) (r : Role) (h : HealthRecord) (st : HealthSettings), h = (s.healthOf g).record r →
    st = (s.healthOf g).settings →
    (s.part.state ≠ .running → s.sampleMiss r g = s)
    ∧ (s.part.state = .running →
      ∃ u : State, (∀ g', g' ≠ g → u.healthOf g' = s.healthOf g')
        ∧ (st.missTrip = 0 ∨ h.misses + 1 ≠ st.missTrip ∨ 65535 ≤ h.misses →
            s.sampleMiss r g = u ∧ u = { s with health := u.health }
            ∧ u.healthOf g = (s.healthOf g).modifyRecord
                (fun _ => { h with misses := if h.misses < 65535 then h.misses + 1 else h.misses }) r)
        ∧ (st.missTrip ≠ 0 → h.misses + 1 = st.missTrip → h.misses < 65535 →
            s.sampleMiss r g = (if h.verdict = .failed then u else u.evaluate g)
            ∧ u = { s with
              health := u.health
              notices := if h.verdict = .failed then s.notices else s.notices.post
                { group := some g, source := some (s.rigOf r), period := s.part.period
                  body := .rigVerdictChanged r h.verdict .failed true st.failAfter 0 } }
            ∧ u.healthOf g = (s.healthOf g).modifyRecord
                (fun _ => { h with
                  misses := h.misses + 1, tripReported := true, badRun := st.failAfter, goodRun := 0
                  verdict := .failed }) r)))
  ∧ (∀ (m : Nat) (es : List Entry), es.Pairwise (fun e f => e.block < f.block) →
    (∀ i, i < coverageFrom m es → ∃ e ∈ es, e.block = m + i) ∧ ∀ e ∈ es, e.block ≠ m + coverageFrom m es)
  ∧ ∀ (s before : State) (g n : Nat) (channels streaming : List Context) (h : GroupHealth) (both differ : Context → Bool),
    s.part.state = .running → h = s.healthOf g →
    channels = (before.cache.validContexts.map before.context).filter (fun x => decide (x.group = g)) →
    streaming = channels.filter (fun x => x.streaming) →
    (∀ x, both x = ((findEntry n x.lists.rig1).isSome && (findEntry n x.lists.rig2).isSome)) →
    (∀ x, differ x = (both x && ((findEntry n x.lists.rig1).map (fun e => e.sceneTag)
      != (findEntry n x.lists.rig2).map (fun e => e.sceneTag)))) →
    ∃ u v : State, u = { s with health := u.health }
      ∧ (∀ g', g' ≠ g → u.healthOf g' = s.healthOf g')
      ∧ (u.healthOf g) = { h with
          main := { h.main with leadMin := (u.healthOf g).main.leadMin }
          backup := { h.backup with leadMin := (u.healthOf g).backup.leadMin }
          agreement := { h.agreement with
            compared := min (h.agreement.compared + channels.countP both) (max 65535 h.agreement.compared)
            disagreed := min (h.agreement.disagreed + channels.countP differ) (max 65535 h.agreement.disagreed) } }
      ∧ (∀ (r : Rig) (old : Option Nat), old = (h.record (s.roleOf r)).leadMin →
          (streaming = [] → ((u.healthOf g).record (s.roleOf r)).leadMin = old)
          ∧ ∀ lead, (∃ x ∈ streaming, coverageFrom (n + 1) (x.lists.get r) = lead) →
            (∀ x ∈ streaming, lead ≤ coverageFrom (n + 1) (x.lists.get r)) →
            (old = none → ((u.healthOf g).record (s.roleOf r)).leadMin = some lead)
            ∧ ∀ m, old = some m → ((u.healthOf g).record (s.roleOf r)).leadMin = some (min m lead))
      ∧ ((∃ x ∈ streaming, findEntry n (x.lists.get (before.rigOf .main)) = none) → v = u.sampleMiss .main g)
      ∧ ((∀ x ∈ streaming, findEntry n (x.lists.get (before.rigOf .main)) ≠ none) → v = u)
      ∧ ((∃ x ∈ streaming, findEntry n (x.lists.get (before.rigOf .backup)) = none) →
          s.sendSamples before g n = v.sampleMiss .backup g)
      ∧ ((∀ x ∈ streaming, findEntry n (x.lists.get (before.rigOf .backup)) ≠ none) → s.sendSamples before g n = v)

/-! ## The Local Port -/

/-- A Local Port write behind a read under way waits, in the order of arrival, and nothing else changes, whichever of
the five rows brings it; a release write before the first anchor take, when no release word exists, changes nothing at
all (the model's choice, log 1). Else it is taken: dropped in the Live Window, outside memory and in the guarded
regions; passed through elsewhere, to the bytes whose enables are set and no other. While RESET_N is low ResetCommand
states the form. -/
def Obligations.LocalPortWrites : Prop :=
  (∀ (m : Memory) (x y : Nat) (v : Word) (en : Enables),
    ((∀ i, i < 4 → y = x + i → en.getLsbD i = false) → readByte (writeEnabled m x v en) y = readByte m y)
    ∧ (∀ i, i < 4 → y = x + i → en.getLsbD i = true →
        readByte (writeEnabled m x v en) y = (v >>> (8 * i)).setWidth 8))
  ∧ (∀ (s : State) (b : ReadBurst) (v : Word) (en : Enables) (waits : LocalRequest → State), s.burst = some b →
    s.lines.resetLow = false →
    (∀ q, waits q = { s with burst := some { b with waiting := b.waiting ++ [q] } }) →
    (∀ x, exec (.localPortWrite x v en) s = .next (waits (.write x v en)))
    ∧ exec (.goWrite v en) s = .next (waits (.write 0 v en))
    ∧ exec (.commandKick v en) s = .next (waits (.write 44 v en))
    ∧ exec (.noticeReturn v en) s = .next (waits (.write 48 v en))
    ∧ (∀ g k a, s.sup.anchor = some a → exec (.readerRelease g k v en) s
        = .next (waits (.write (a.liveDirectoryBase + 4096 * (16 * g + k) + 12) v en)))
    ∧ (∀ g k, s.sup.anchor = none → exec (.readerRelease g k v en) s = .next s))
  ∧ (∀ (s : State) (x : Nat) (v : Word) (en : Enables) (g k : Nat) (a : Anchor), s.burst = none →
    s.lines.resetLow = false →
    exec (.localPortWrite x v en) s = .next (s.localRequest (.write x v en))
    ∧ exec (.goWrite v en) s = .next (s.localRequest (.write 0 v en))
    ∧ exec (.commandKick v en) s = .next (s.localRequest (.write 44 v en))
    ∧ exec (.noticeReturn v en) s = .next (s.localRequest (.write 48 v en))
    ∧ (s.sup.anchor = some a → exec (.readerRelease g k v en) s
        = .next (s.localRequest (.write (a.liveDirectoryBase + 4096 * (16 * g + k) + 12) v en))))
  ∧ ∀ (s : State) (x : Nat) (v : Word) (en : Enables), x % 4 = 0 → s.burst = none → s.lines.resetLow = false →
    (4294967296 ≤ x ∨ s.lines.dramSize ≤ x → exec (.localPortWrite x v en) s = .next s)
    ∧ (x < s.lines.dramSize → x < 4294967296 →
      (s.sup.anchor = none → x ≠ 0 →
        exec (.localPortWrite x v en) s = .next { s with mem := writeEnabled s.mem x v en })
      ∧ ∀ a, s.sup.anchor = some a → a.ok s.lines.dramSize = true →
        (a.channelDirectoryBase ≤ x ∧ x < a.channelDirectoryBase + 24576
            ∨ a.poolBase ≤ x ∧ x < a.poolBase + a.poolBuckets * 512
            ∨ a.statusBase ≤ x ∧ x < a.statusBase + 512
            ∨ a.noticeRingBase ≤ x ∧ x < a.noticeRingBase + a.noticeRingEntries * 32
                ∧ (x - a.noticeRingBase) % 32 ≠ 0
            ∨ a.liveDirectoryBase ≤ x ∧ x < a.liveDirectoryBase + 524288 ∧ (x - a.liveDirectoryBase) % 4096 ≠ 12 →
          exec (.localPortWrite x v en) s = .next s)
        ∧ (x ≠ 0 → x ≠ 44 → x ≠ 48 →
            ¬(a.channelDirectoryBase ≤ x ∧ x < a.channelDirectoryBase + 24576) →
            ¬(a.poolBase ≤ x ∧ x < a.poolBase + a.poolBuckets * 512) →
            ¬(a.statusBase ≤ x ∧ x < a.statusBase + 512) →
            ¬(a.liveDirectoryBase ≤ x ∧ x < a.liveDirectoryBase + 524288) →
            ¬(a.noticeRingBase ≤ x ∧ x < a.noticeRingBase + a.noticeRingEntries * 32
                ∧ (x - a.noticeRingBase) % 32 ≠ 0) →
          exec (.localPortWrite x v en) s = .next { s with mem := writeEnabled s.mem x v en }))

/-! ## Invariants -/

/-- Every step keeps DRAM in its canonical form and the laws of the bucket pool. -/
def Obligations.InvariantKept : Prop := ∀ s t : State, s.Inv → step s = .next t → t.Inv

/-- Every step of a state under the invariant keeps the order of the block: the accounts, the rest outside shows, the
anchor take alone. In a state under both it keeps the shape of the queues and lists: only the head of the Blend Job
Queue runs and the head never is QUEUED, outside a teardown every load request has a waiting port, the block numbers of
a retained list strictly increase, the first access of the Channel Cache in flight is a write-back and a read in flight
belongs to a load that reads, a Local Port read under way has words left, a part held in reset stands at the values of
reset (log 24), no Go waits while a take runs, and words are counted as taken of a write in flight alone, never its
last, and of an anchor take no more than its regions hold. What is counted as taken, and that the last word waits for
its row, is the model's reading (log 9); that no rig port holds a request outside shows is the model's reading too (log
16). -/
def Obligations.OrderKept : Prop :=
  (∀ s t : State, s.Inv → s.Order → step s = .next t → t.Order)
  ∧ ∀ s t : State, s.Inv → s.Order → s.Shape → step s = .next t → t.Shape

/-- The state after reset is under the invariant, in order and in shape. -/
def Obligations.InvariantAtReset : Prop := State.reset.Inv ∧ State.reset.Order ∧ State.reset.Shape
end

