-- ==== Sys2Proof/Laws/State.lean ====
section
/-! SUPPORT. What each named update of the state leaves as it was and what it writes: one lemma per field. -/

namespace Sys2Proof.Machine

/-! ### advance -/

section
variable (s : State) (dt : Nat)
@[simp] theorem State.advance_pending : (s.advance dt).pending = s.pending := rfl
@[simp] theorem State.advance_freeCount : (s.advance dt).freeCount = s.freeCount := rfl
@[simp] theorem State.advance_timer : (s.advance dt).timer = { now := if s.timer.refclkStopped && s.timer.heldCounted then s.timer.now else s.timer.now + dt, refclkStopped := s.timer.refclkStopped, heldCounted := s.timer.refclkStopped } := rfl
@[simp] theorem State.advance_clock : (s.advance dt).clock = s.clock := rfl
@[simp] theorem State.advance_part : (s.advance dt).part = s.part := rfl
@[simp] theorem State.advance_lines : (s.advance dt).lines = s.lines := rfl
@[simp] theorem State.advance_mem : (s.advance dt).mem = s.mem := rfl
@[simp] theorem State.advance_pool : (s.advance dt).pool = s.pool := rfl
@[simp] theorem State.advance_cache : (s.advance dt).cache = s.cache := rfl
@[simp] theorem State.advance_resolver : (s.advance dt).resolver = s.resolver := rfl
@[simp] theorem State.advance_blend : (s.advance dt).blend = s.blend := rfl
@[simp] theorem State.advance_health : (s.advance dt).health = s.health := rfl
@[simp] theorem State.advance_groups : (s.advance dt).groups = s.groups := rfl
@[simp] theorem State.advance_sup : (s.advance dt).sup = s.sup := rfl
@[simp] theorem State.advance_notices : (s.advance dt).notices = s.notices := rfl
@[simp] theorem State.advance_landed : (s.advance dt).landed = s.landed := rfl
@[simp] theorem State.advance_answers : (s.advance dt).answers = s.answers := rfl
@[simp] theorem State.advance_burst : (s.advance dt).burst = s.burst := rfl
@[simp] theorem State.advance_rigAnswers : (s.advance dt).rigAnswers = s.rigAnswers := rfl
end

/-! ### tick -/

section
variable (s : State)
@[simp] theorem State.tick_pending : (s.tick).pending = s.pending := rfl
@[simp] theorem State.tick_freeCount : (s.tick).freeCount = s.freeCount := rfl
@[simp] theorem State.tick_timer : (s.tick).timer = { s.timer with now := if s.timer.refclkStopped then s.timer.now else s.timer.now + 1 } := rfl
@[simp] theorem State.tick_clock : (s.tick).clock = s.clock := rfl
@[simp] theorem State.tick_part : (s.tick).part = s.part := rfl
@[simp] theorem State.tick_lines : (s.tick).lines = s.lines := rfl
@[simp] theorem State.tick_mem : (s.tick).mem = s.mem := rfl
@[simp] theorem State.tick_pool : (s.tick).pool = s.pool := rfl
@[simp] theorem State.tick_cache : (s.tick).cache = s.cache := rfl
@[simp] theorem State.tick_resolver : (s.tick).resolver = s.resolver := rfl
@[simp] theorem State.tick_blend : (s.tick).blend = s.blend := rfl
@[simp] theorem State.tick_health : (s.tick).health = s.health := rfl
@[simp] theorem State.tick_groups : (s.tick).groups = s.groups := rfl
@[simp] theorem State.tick_sup : (s.tick).sup = s.sup := rfl
@[simp] theorem State.tick_notices : (s.tick).notices = s.notices := rfl
@[simp] theorem State.tick_landed : (s.tick).landed = s.landed := rfl
@[simp] theorem State.tick_answers : (s.tick).answers = s.answers := rfl
@[simp] theorem State.tick_burst : (s.tick).burst = s.burst := rfl
@[simp] theorem State.tick_rigAnswers : (s.tick).rigAnswers = s.rigAnswers := rfl
end

/-! ### drawn -/

section
variable (s : State)
@[simp] theorem State.drawn_pending : (s.drawn).pending = s.pending := rfl
@[simp] theorem State.drawn_freeCount : (s.drawn).freeCount = s.freeCount + 1 := rfl
@[simp] theorem State.drawn_timer : (s.drawn).timer = s.timer := rfl
@[simp] theorem State.drawn_clock : (s.drawn).clock = s.clock := rfl
@[simp] theorem State.drawn_part : (s.drawn).part = s.part := rfl
@[simp] theorem State.drawn_lines : (s.drawn).lines = s.lines := rfl
@[simp] theorem State.drawn_mem : (s.drawn).mem = s.mem := rfl
@[simp] theorem State.drawn_pool : (s.drawn).pool = s.pool := rfl
@[simp] theorem State.drawn_cache : (s.drawn).cache = s.cache := rfl
@[simp] theorem State.drawn_resolver : (s.drawn).resolver = s.resolver := rfl
@[simp] theorem State.drawn_blend : (s.drawn).blend = s.blend := rfl
@[simp] theorem State.drawn_health : (s.drawn).health = s.health := rfl
@[simp] theorem State.drawn_groups : (s.drawn).groups = s.groups := rfl
@[simp] theorem State.drawn_sup : (s.drawn).sup = s.sup := rfl
@[simp] theorem State.drawn_notices : (s.drawn).notices = s.notices := rfl
@[simp] theorem State.drawn_landed : (s.drawn).landed = s.landed := rfl
@[simp] theorem State.drawn_answers : (s.drawn).answers = s.answers := rfl
@[simp] theorem State.drawn_burst : (s.drawn).burst = s.burst := rfl
@[simp] theorem State.drawn_rigAnswers : (s.drawn).rigAnswers = s.rigAnswers := rfl
end

/-! ### post -/

section
variable (s : State) (g : Option Nat) (r : Option Rig) (b : NoticeBody)
@[simp] theorem State.post_pending : (s.post g r b).pending = s.pending := rfl
@[simp] theorem State.post_freeCount : (s.post g r b).freeCount = s.freeCount := rfl
@[simp] theorem State.post_timer : (s.post g r b).timer = s.timer := rfl
@[simp] theorem State.post_clock : (s.post g r b).clock = s.clock := rfl
@[simp] theorem State.post_part : (s.post g r b).part = s.part := rfl
@[simp] theorem State.post_lines : (s.post g r b).lines = s.lines := rfl
@[simp] theorem State.post_mem : (s.post g r b).mem = s.mem := rfl
@[simp] theorem State.post_pool : (s.post g r b).pool = s.pool := rfl
@[simp] theorem State.post_cache : (s.post g r b).cache = s.cache := rfl
@[simp] theorem State.post_resolver : (s.post g r b).resolver = s.resolver := rfl
@[simp] theorem State.post_blend : (s.post g r b).blend = s.blend := rfl
@[simp] theorem State.post_health : (s.post g r b).health = s.health := rfl
@[simp] theorem State.post_groups : (s.post g r b).groups = s.groups := rfl
@[simp] theorem State.post_sup : (s.post g r b).sup = s.sup := rfl
@[simp] theorem State.post_notices : (s.post g r b).notices = if s.part.state = .quiet then s.notices else s.notices.post ⟨g, r, s.part.period, b⟩ := rfl
@[simp] theorem State.post_landed : (s.post g r b).landed = s.landed := rfl
@[simp] theorem State.post_answers : (s.post g r b).answers = s.answers := rfl
@[simp] theorem State.post_burst : (s.post g r b).burst = s.burst := rfl
@[simp] theorem State.post_rigAnswers : (s.post g r b).rigAnswers = s.rigAnswers := rfl
end

/-! ### modifyGroup -/

section
variable (s : State) (g : Nat) (f : GroupRecord → GroupRecord)
@[simp] theorem State.modifyGroup_pending : (s.modifyGroup g f).pending = s.pending := rfl
@[simp] theorem State.modifyGroup_freeCount : (s.modifyGroup g f).freeCount = s.freeCount := rfl
@[simp] theorem State.modifyGroup_timer : (s.modifyGroup g f).timer = s.timer := rfl
@[simp] theorem State.modifyGroup_clock : (s.modifyGroup g f).clock = s.clock := rfl
@[simp] theorem State.modifyGroup_part : (s.modifyGroup g f).part = s.part := rfl
@[simp] theorem State.modifyGroup_lines : (s.modifyGroup g f).lines = s.lines := rfl
@[simp] theorem State.modifyGroup_mem : (s.modifyGroup g f).mem = s.mem := rfl
@[simp] theorem State.modifyGroup_pool : (s.modifyGroup g f).pool = s.pool := rfl
@[simp] theorem State.modifyGroup_cache : (s.modifyGroup g f).cache = s.cache := rfl
@[simp] theorem State.modifyGroup_resolver : (s.modifyGroup g f).resolver = s.resolver := rfl
@[simp] theorem State.modifyGroup_blend : (s.modifyGroup g f).blend = s.blend := rfl
@[simp] theorem State.modifyGroup_health : (s.modifyGroup g f).health = s.health := rfl
@[simp] theorem State.modifyGroup_groups : (s.modifyGroup g f).groups = Table.set GroupRecord.initial s.groups g (f (s.group g)) := rfl
@[simp] theorem State.modifyGroup_sup : (s.modifyGroup g f).sup = s.sup := rfl
@[simp] theorem State.modifyGroup_notices : (s.modifyGroup g f).notices = s.notices := rfl
@[simp] theorem State.modifyGroup_landed : (s.modifyGroup g f).landed = s.landed := rfl
@[simp] theorem State.modifyGroup_answers : (s.modifyGroup g f).answers = s.answers := rfl
@[simp] theorem State.modifyGroup_burst : (s.modifyGroup g f).burst = s.burst := rfl
@[simp] theorem State.modifyGroup_rigAnswers : (s.modifyGroup g f).rigAnswers = s.rigAnswers := rfl
end

/-! ### modifyHealth -/

section
variable (s : State) (g : Nat) (f : GroupHealth → GroupHealth)
@[simp] theorem State.modifyHealth_pending : (s.modifyHealth g f).pending = s.pending := rfl
@[simp] theorem State.modifyHealth_freeCount : (s.modifyHealth g f).freeCount = s.freeCount := rfl
@[simp] theorem State.modifyHealth_timer : (s.modifyHealth g f).timer = s.timer := rfl
@[simp] theorem State.modifyHealth_clock : (s.modifyHealth g f).clock = s.clock := rfl
@[simp] theorem State.modifyHealth_part : (s.modifyHealth g f).part = s.part := rfl
@[simp] theorem State.modifyHealth_lines : (s.modifyHealth g f).lines = s.lines := rfl
@[simp] theorem State.modifyHealth_mem : (s.modifyHealth g f).mem = s.mem := rfl
@[simp] theorem State.modifyHealth_pool : (s.modifyHealth g f).pool = s.pool := rfl
@[simp] theorem State.modifyHealth_cache : (s.modifyHealth g f).cache = s.cache := rfl
@[simp] theorem State.modifyHealth_resolver : (s.modifyHealth g f).resolver = s.resolver := rfl
@[simp] theorem State.modifyHealth_blend : (s.modifyHealth g f).blend = s.blend := rfl
@[simp] theorem State.modifyHealth_health : (s.modifyHealth g f).health = Table.set GroupHealth.initial s.health g (f (s.healthOf g)) := rfl
@[simp] theorem State.modifyHealth_groups : (s.modifyHealth g f).groups = s.groups := rfl
@[simp] theorem State.modifyHealth_sup : (s.modifyHealth g f).sup = s.sup := rfl
@[simp] theorem State.modifyHealth_notices : (s.modifyHealth g f).notices = s.notices := rfl
@[simp] theorem State.modifyHealth_landed : (s.modifyHealth g f).landed = s.landed := rfl
@[simp] theorem State.modifyHealth_answers : (s.modifyHealth g f).answers = s.answers := rfl
@[simp] theorem State.modifyHealth_burst : (s.modifyHealth g f).burst = s.burst := rfl
@[simp] theorem State.modifyHealth_rigAnswers : (s.modifyHealth g f).rigAnswers = s.rigAnswers := rfl
end

/-! ### modifyRing -/

section
variable (s : State) (g : Nat) (f : Ring → Ring)
@[simp] theorem State.modifyRing_pending : (s.modifyRing g f).pending = s.pending := rfl
@[simp] theorem State.modifyRing_freeCount : (s.modifyRing g f).freeCount = s.freeCount := rfl
@[simp] theorem State.modifyRing_timer : (s.modifyRing g f).timer = s.timer := rfl
@[simp] theorem State.modifyRing_clock : (s.modifyRing g f).clock = s.clock := rfl
@[simp] theorem State.modifyRing_part : (s.modifyRing g f).part = s.part := rfl
@[simp] theorem State.modifyRing_lines : (s.modifyRing g f).lines = s.lines := rfl
@[simp] theorem State.modifyRing_mem : (s.modifyRing g f).mem = s.mem := rfl
@[simp] theorem State.modifyRing_pool : (s.modifyRing g f).pool = s.pool := rfl
@[simp] theorem State.modifyRing_cache : (s.modifyRing g f).cache = s.cache := rfl
@[simp] theorem State.modifyRing_resolver : (s.modifyRing g f).resolver = { s.resolver with rings := Table.set Ring.initial s.resolver.rings g (f (s.ring g)) } := rfl
@[simp] theorem State.modifyRing_blend : (s.modifyRing g f).blend = s.blend := rfl
@[simp] theorem State.modifyRing_health : (s.modifyRing g f).health = s.health := rfl
@[simp] theorem State.modifyRing_groups : (s.modifyRing g f).groups = s.groups := rfl
@[simp] theorem State.modifyRing_sup : (s.modifyRing g f).sup = s.sup := rfl
@[simp] theorem State.modifyRing_notices : (s.modifyRing g f).notices = s.notices := rfl
@[simp] theorem State.modifyRing_landed : (s.modifyRing g f).landed = s.landed := rfl
@[simp] theorem State.modifyRing_answers : (s.modifyRing g f).answers = s.answers := rfl
@[simp] theorem State.modifyRing_burst : (s.modifyRing g f).burst = s.burst := rfl
@[simp] theorem State.modifyRing_rigAnswers : (s.modifyRing g f).rigAnswers = s.rigAnswers := rfl
end

/-! ### modifySlot -/

section
variable (s : State) (g k : Nat) (f : Slot → Slot)
@[simp] theorem State.modifySlot_pending : (s.modifySlot g k f).pending = s.pending := rfl
@[simp] theorem State.modifySlot_freeCount : (s.modifySlot g k f).freeCount = s.freeCount := rfl
@[simp] theorem State.modifySlot_timer : (s.modifySlot g k f).timer = s.timer := rfl
@[simp] theorem State.modifySlot_clock : (s.modifySlot g k f).clock = s.clock := rfl
@[simp] theorem State.modifySlot_part : (s.modifySlot g k f).part = s.part := rfl
@[simp] theorem State.modifySlot_lines : (s.modifySlot g k f).lines = s.lines := rfl
@[simp] theorem State.modifySlot_mem : (s.modifySlot g k f).mem = s.mem := rfl
@[simp] theorem State.modifySlot_pool : (s.modifySlot g k f).pool = s.pool := rfl
@[simp] theorem State.modifySlot_cache : (s.modifySlot g k f).cache = s.cache := rfl
@[simp] theorem State.modifySlot_resolver : (s.modifySlot g k f).resolver = { s.resolver with rings := Table.set Ring.initial s.resolver.rings g ((s.ring g).modifySlot k f) } := rfl
@[simp] theorem State.modifySlot_blend : (s.modifySlot g k f).blend = s.blend := rfl
@[simp] theorem State.modifySlot_health : (s.modifySlot g k f).health = s.health := rfl
@[simp] theorem State.modifySlot_groups : (s.modifySlot g k f).groups = s.groups := rfl
@[simp] theorem State.modifySlot_sup : (s.modifySlot g k f).sup = s.sup := rfl
@[simp] theorem State.modifySlot_notices : (s.modifySlot g k f).notices = s.notices := rfl
@[simp] theorem State.modifySlot_landed : (s.modifySlot g k f).landed = s.landed := rfl
@[simp] theorem State.modifySlot_answers : (s.modifySlot g k f).answers = s.answers := rfl
@[simp] theorem State.modifySlot_burst : (s.modifySlot g k f).burst = s.burst := rfl
@[simp] theorem State.modifySlot_rigAnswers : (s.modifySlot g k f).rigAnswers = s.rigAnswers := rfl
end

/-! ### modifyContext -/

section
variable (s : State) (k : Nat) (f : Context → Context)
@[simp] theorem State.modifyContext_pending : (s.modifyContext k f).pending = s.pending := rfl
@[simp] theorem State.modifyContext_freeCount : (s.modifyContext k f).freeCount = s.freeCount := rfl
@[simp] theorem State.modifyContext_timer : (s.modifyContext k f).timer = s.timer := rfl
@[simp] theorem State.modifyContext_clock : (s.modifyContext k f).clock = s.clock := rfl
@[simp] theorem State.modifyContext_part : (s.modifyContext k f).part = s.part := rfl
@[simp] theorem State.modifyContext_lines : (s.modifyContext k f).lines = s.lines := rfl
@[simp] theorem State.modifyContext_mem : (s.modifyContext k f).mem = s.mem := rfl
@[simp] theorem State.modifyContext_pool : (s.modifyContext k f).pool = s.pool := rfl
@[simp] theorem State.modifyContext_cache : (s.modifyContext k f).cache = s.cache.modifyContext k f := rfl
@[simp] theorem State.modifyContext_resolver : (s.modifyContext k f).resolver = s.resolver := rfl
@[simp] theorem State.modifyContext_blend : (s.modifyContext k f).blend = s.blend := rfl
@[simp] theorem State.modifyContext_health : (s.modifyContext k f).health = s.health := rfl
@[simp] theorem State.modifyContext_groups : (s.modifyContext k f).groups = s.groups := rfl
@[simp] theorem State.modifyContext_sup : (s.modifyContext k f).sup = s.sup := rfl
@[simp] theorem State.modifyContext_notices : (s.modifyContext k f).notices = s.notices := rfl
@[simp] theorem State.modifyContext_landed : (s.modifyContext k f).landed = s.landed := rfl
@[simp] theorem State.modifyContext_answers : (s.modifyContext k f).answers = s.answers := rfl
@[simp] theorem State.modifyContext_burst : (s.modifyContext k f).burst = s.burst := rfl
@[simp] theorem State.modifyContext_rigAnswers : (s.modifyContext k f).rigAnswers = s.rigAnswers := rfl
end

/-! ### claim -/

section
variable (s : State) (f : Pool → Pool)
@[simp] theorem State.claim_pending : (s.claim f).pending = s.pending := rfl
@[simp] theorem State.claim_freeCount : (s.claim f).freeCount = s.freeCount := rfl
@[simp] theorem State.claim_timer : (s.claim f).timer = s.timer := rfl
@[simp] theorem State.claim_clock : (s.claim f).clock = s.clock := rfl
@[simp] theorem State.claim_part : (s.claim f).part = s.part := rfl
@[simp] theorem State.claim_lines : (s.claim f).lines = s.lines := rfl
@[simp] theorem State.claim_mem : (s.claim f).mem = s.mem := rfl
@[simp] theorem State.claim_pool : (s.claim f).pool = f s.pool := rfl
@[simp] theorem State.claim_cache : (s.claim f).cache = s.cache := rfl
@[simp] theorem State.claim_resolver : (s.claim f).resolver = s.resolver := rfl
@[simp] theorem State.claim_blend : (s.claim f).blend = s.blend := rfl
@[simp] theorem State.claim_health : (s.claim f).health = s.health := rfl
@[simp] theorem State.claim_groups : (s.claim f).groups = s.groups := rfl
@[simp] theorem State.claim_sup : (s.claim f).sup = s.sup := rfl
@[simp] theorem State.claim_notices : (s.claim f).notices = s.notices := rfl
@[simp] theorem State.claim_landed : (s.claim f).landed = s.landed := rfl
@[simp] theorem State.claim_answers : (s.claim f).answers = s.answers := rfl
@[simp] theorem State.claim_burst : (s.claim f).burst = s.burst := rfl
@[simp] theorem State.claim_rigAnswers : (s.claim f).rigAnswers = s.rigAnswers := rfl
end

/-! ### setTallies -/

section
variable (s : State)
@[simp] theorem State.setTallies_pending : (s.setTallies).pending = s.pending := rfl
@[simp] theorem State.setTallies_freeCount : (s.setTallies).freeCount = s.freeCount := rfl
@[simp] theorem State.setTallies_timer : (s.setTallies).timer = s.timer := rfl
@[simp] theorem State.setTallies_clock : (s.setTallies).clock = s.clock := rfl
@[simp] theorem State.setTallies_part : (s.setTallies).part = s.part := rfl
@[simp] theorem State.setTallies_lines : (s.setTallies).lines = { s.lines with tallyMain := s.tallyOf .main, tallyBackup := s.tallyOf .backup } := rfl
@[simp] theorem State.setTallies_mem : (s.setTallies).mem = s.mem := rfl
@[simp] theorem State.setTallies_pool : (s.setTallies).pool = s.pool := rfl
@[simp] theorem State.setTallies_cache : (s.setTallies).cache = s.cache := rfl
@[simp] theorem State.setTallies_resolver : (s.setTallies).resolver = s.resolver := rfl
@[simp] theorem State.setTallies_blend : (s.setTallies).blend = s.blend := rfl
@[simp] theorem State.setTallies_health : (s.setTallies).health = s.health := rfl
@[simp] theorem State.setTallies_groups : (s.setTallies).groups = s.groups := rfl
@[simp] theorem State.setTallies_sup : (s.setTallies).sup = s.sup := rfl
@[simp] theorem State.setTallies_notices : (s.setTallies).notices = s.notices := rfl
@[simp] theorem State.setTallies_landed : (s.setTallies).landed = s.landed := rfl
@[simp] theorem State.setTallies_answers : (s.setTallies).answers = s.answers := rfl
@[simp] theorem State.setTallies_burst : (s.setTallies).burst = s.burst := rfl
@[simp] theorem State.setTallies_rigAnswers : (s.setTallies).rigAnswers = s.rigAnswers := rfl
end

/-! ### assertInterrupt -/

section
variable (s : State) (due : Bool)
@[simp] theorem State.assertInterrupt_pending : (s.assertInterrupt due).pending = s.pending := rfl
@[simp] theorem State.assertInterrupt_freeCount : (s.assertInterrupt due).freeCount = s.freeCount := rfl
@[simp] theorem State.assertInterrupt_timer : (s.assertInterrupt due).timer = s.timer := rfl
@[simp] theorem State.assertInterrupt_clock : (s.assertInterrupt due).clock = s.clock := rfl
@[simp] theorem State.assertInterrupt_part : (s.assertInterrupt due).part = s.part := rfl
@[simp] theorem State.assertInterrupt_lines : (s.assertInterrupt due).lines = { s.lines with interrupt := s.lines.interrupt || due } := rfl
@[simp] theorem State.assertInterrupt_mem : (s.assertInterrupt due).mem = s.mem := rfl
@[simp] theorem State.assertInterrupt_pool : (s.assertInterrupt due).pool = s.pool := rfl
@[simp] theorem State.assertInterrupt_cache : (s.assertInterrupt due).cache = s.cache := rfl
@[simp] theorem State.assertInterrupt_resolver : (s.assertInterrupt due).resolver = s.resolver := rfl
@[simp] theorem State.assertInterrupt_blend : (s.assertInterrupt due).blend = s.blend := rfl
@[simp] theorem State.assertInterrupt_health : (s.assertInterrupt due).health = s.health := rfl
@[simp] theorem State.assertInterrupt_groups : (s.assertInterrupt due).groups = s.groups := rfl
@[simp] theorem State.assertInterrupt_sup : (s.assertInterrupt due).sup = s.sup := rfl
@[simp] theorem State.assertInterrupt_notices : (s.assertInterrupt due).notices = s.notices := rfl
@[simp] theorem State.assertInterrupt_landed : (s.assertInterrupt due).landed = s.landed := rfl
@[simp] theorem State.assertInterrupt_answers : (s.assertInterrupt due).answers = s.answers := rfl
@[simp] theorem State.assertInterrupt_burst : (s.assertInterrupt due).burst = s.burst := rfl
@[simp] theorem State.assertInterrupt_rigAnswers : (s.assertInterrupt due).rigAnswers = s.rigAnswers := rfl
end

/-! ### deassertIfReturned -/

section
variable (s : State)
@[simp] theorem State.deassertIfReturned_pending : (s.deassertIfReturned).pending = s.pending := rfl
@[simp] theorem State.deassertIfReturned_freeCount : (s.deassertIfReturned).freeCount = s.freeCount := rfl
@[simp] theorem State.deassertIfReturned_timer : (s.deassertIfReturned).timer = s.timer := rfl
@[simp] theorem State.deassertIfReturned_clock : (s.deassertIfReturned).clock = s.clock := rfl
@[simp] theorem State.deassertIfReturned_part : (s.deassertIfReturned).part = s.part := rfl
@[simp] theorem State.deassertIfReturned_lines : (s.deassertIfReturned).lines = { s.lines with interrupt := s.lines.interrupt && s.unreturned != 0 } := rfl
@[simp] theorem State.deassertIfReturned_mem : (s.deassertIfReturned).mem = s.mem := rfl
@[simp] theorem State.deassertIfReturned_pool : (s.deassertIfReturned).pool = s.pool := rfl
@[simp] theorem State.deassertIfReturned_cache : (s.deassertIfReturned).cache = s.cache := rfl
@[simp] theorem State.deassertIfReturned_resolver : (s.deassertIfReturned).resolver = s.resolver := rfl
@[simp] theorem State.deassertIfReturned_blend : (s.deassertIfReturned).blend = s.blend := rfl
@[simp] theorem State.deassertIfReturned_health : (s.deassertIfReturned).health = s.health := rfl
@[simp] theorem State.deassertIfReturned_groups : (s.deassertIfReturned).groups = s.groups := rfl
@[simp] theorem State.deassertIfReturned_sup : (s.deassertIfReturned).sup = s.sup := rfl
@[simp] theorem State.deassertIfReturned_notices : (s.deassertIfReturned).notices = s.notices := rfl
@[simp] theorem State.deassertIfReturned_landed : (s.deassertIfReturned).landed = s.landed := rfl
@[simp] theorem State.deassertIfReturned_answers : (s.deassertIfReturned).answers = s.answers := rfl
@[simp] theorem State.deassertIfReturned_burst : (s.deassertIfReturned).burst = s.burst := rfl
@[simp] theorem State.deassertIfReturned_rigAnswers : (s.deassertIfReturned).rigAnswers = s.rigAnswers := rfl
end

/-! ### beginStatus -/

section
variable (s : State) (base : Nat)
@[simp] theorem State.beginStatus_pending : (s.beginStatus base).pending = s.pending := rfl
@[simp] theorem State.beginStatus_freeCount : (s.beginStatus base).freeCount = s.freeCount := rfl
@[simp] theorem State.beginStatus_timer : (s.beginStatus base).timer = s.timer := rfl
@[simp] theorem State.beginStatus_clock : (s.beginStatus base).clock = s.clock := rfl
@[simp] theorem State.beginStatus_part : (s.beginStatus base).part = s.part := rfl
@[simp] theorem State.beginStatus_lines : (s.beginStatus base).lines = s.lines := rfl
@[simp] theorem State.beginStatus_mem : (s.beginStatus base).mem = s.mem := rfl
@[simp] theorem State.beginStatus_pool : (s.beginStatus base).pool = s.pool := rfl
@[simp] theorem State.beginStatus_cache : (s.beginStatus base).cache = s.cache := rfl
@[simp] theorem State.beginStatus_resolver : (s.beginStatus base).resolver = s.resolver := rfl
@[simp] theorem State.beginStatus_blend : (s.beginStatus base).blend = s.blend := rfl
@[simp] theorem State.beginStatus_health : (s.beginStatus base).health = s.health := rfl
@[simp] theorem State.beginStatus_groups : (s.beginStatus base).groups = s.groups := rfl
@[simp] theorem State.beginStatus_notices : (s.beginStatus base).notices = s.notices := rfl
@[simp] theorem State.beginStatus_landed : (s.beginStatus base).landed = s.landed := rfl
@[simp] theorem State.beginStatus_answers : (s.beginStatus base).answers = s.answers := rfl
@[simp] theorem State.beginStatus_burst : (s.beginStatus base).burst = s.burst := rfl
@[simp] theorem State.beginStatus_rigAnswers : (s.beginStatus base).rigAnswers = s.rigAnswers := rfl
end

/-! ### keepStatusRequest -/

section
variable (s : State)
@[simp] theorem State.keepStatusRequest_pending : (s.keepStatusRequest).pending = s.pending := rfl
@[simp] theorem State.keepStatusRequest_freeCount : (s.keepStatusRequest).freeCount = s.freeCount := rfl
@[simp] theorem State.keepStatusRequest_timer : (s.keepStatusRequest).timer = s.timer := rfl
@[simp] theorem State.keepStatusRequest_clock : (s.keepStatusRequest).clock = s.clock := rfl
@[simp] theorem State.keepStatusRequest_part : (s.keepStatusRequest).part = s.part := rfl
@[simp] theorem State.keepStatusRequest_lines : (s.keepStatusRequest).lines = s.lines := rfl
@[simp] theorem State.keepStatusRequest_mem : (s.keepStatusRequest).mem = s.mem := rfl
@[simp] theorem State.keepStatusRequest_pool : (s.keepStatusRequest).pool = s.pool := rfl
@[simp] theorem State.keepStatusRequest_cache : (s.keepStatusRequest).cache = s.cache := rfl
@[simp] theorem State.keepStatusRequest_resolver : (s.keepStatusRequest).resolver = s.resolver := rfl
@[simp] theorem State.keepStatusRequest_blend : (s.keepStatusRequest).blend = s.blend := rfl
@[simp] theorem State.keepStatusRequest_health : (s.keepStatusRequest).health = s.health := rfl
@[simp] theorem State.keepStatusRequest_groups : (s.keepStatusRequest).groups = s.groups := rfl
@[simp] theorem State.keepStatusRequest_notices : (s.keepStatusRequest).notices = s.notices := rfl
@[simp] theorem State.keepStatusRequest_landed : (s.keepStatusRequest).landed = s.landed := rfl
@[simp] theorem State.keepStatusRequest_answers : (s.keepStatusRequest).answers = s.answers := rfl
@[simp] theorem State.keepStatusRequest_burst : (s.keepStatusRequest).burst = s.burst := rfl
@[simp] theorem State.keepStatusRequest_rigAnswers : (s.keepStatusRequest).rigAnswers = s.rigAnswers := rfl
end

/-! ### modifySup -/

section
variable (s : State) (f : Supervisor → Supervisor)
@[simp] theorem State.modifySup_pending : (s.modifySup f).pending = s.pending := rfl
@[simp] theorem State.modifySup_freeCount : (s.modifySup f).freeCount = s.freeCount := rfl
@[simp] theorem State.modifySup_timer : (s.modifySup f).timer = s.timer := rfl
@[simp] theorem State.modifySup_clock : (s.modifySup f).clock = s.clock := rfl
@[simp] theorem State.modifySup_part : (s.modifySup f).part = s.part := rfl
@[simp] theorem State.modifySup_lines : (s.modifySup f).lines = s.lines := rfl
@[simp] theorem State.modifySup_mem : (s.modifySup f).mem = s.mem := rfl
@[simp] theorem State.modifySup_pool : (s.modifySup f).pool = s.pool := rfl
@[simp] theorem State.modifySup_cache : (s.modifySup f).cache = s.cache := rfl
@[simp] theorem State.modifySup_resolver : (s.modifySup f).resolver = s.resolver := rfl
@[simp] theorem State.modifySup_blend : (s.modifySup f).blend = s.blend := rfl
@[simp] theorem State.modifySup_health : (s.modifySup f).health = s.health := rfl
@[simp] theorem State.modifySup_groups : (s.modifySup f).groups = s.groups := rfl
@[simp] theorem State.modifySup_sup : (s.modifySup f).sup = f s.sup := rfl
@[simp] theorem State.modifySup_notices : (s.modifySup f).notices = s.notices := rfl
@[simp] theorem State.modifySup_landed : (s.modifySup f).landed = s.landed := rfl
@[simp] theorem State.modifySup_answers : (s.modifySup f).answers = s.answers := rfl
@[simp] theorem State.modifySup_burst : (s.modifySup f).burst = s.burst := rfl
@[simp] theorem State.modifySup_rigAnswers : (s.modifySup f).rigAnswers = s.rigAnswers := rfl
end

/-! ### modifyCommand -/

section
variable (s : State) (f : CommandUnit → CommandUnit)
@[simp] theorem State.modifyCommand_pending : (s.modifyCommand f).pending = s.pending := rfl
@[simp] theorem State.modifyCommand_freeCount : (s.modifyCommand f).freeCount = s.freeCount := rfl
@[simp] theorem State.modifyCommand_timer : (s.modifyCommand f).timer = s.timer := rfl
@[simp] theorem State.modifyCommand_clock : (s.modifyCommand f).clock = s.clock := rfl
@[simp] theorem State.modifyCommand_part : (s.modifyCommand f).part = s.part := rfl
@[simp] theorem State.modifyCommand_lines : (s.modifyCommand f).lines = s.lines := rfl
@[simp] theorem State.modifyCommand_mem : (s.modifyCommand f).mem = s.mem := rfl
@[simp] theorem State.modifyCommand_pool : (s.modifyCommand f).pool = s.pool := rfl
@[simp] theorem State.modifyCommand_cache : (s.modifyCommand f).cache = s.cache := rfl
@[simp] theorem State.modifyCommand_resolver : (s.modifyCommand f).resolver = s.resolver := rfl
@[simp] theorem State.modifyCommand_blend : (s.modifyCommand f).blend = s.blend := rfl
@[simp] theorem State.modifyCommand_health : (s.modifyCommand f).health = s.health := rfl
@[simp] theorem State.modifyCommand_groups : (s.modifyCommand f).groups = s.groups := rfl
@[simp] theorem State.modifyCommand_sup : (s.modifyCommand f).sup = { s.sup with command := f s.sup.command } := rfl
@[simp] theorem State.modifyCommand_notices : (s.modifyCommand f).notices = s.notices := rfl
@[simp] theorem State.modifyCommand_landed : (s.modifyCommand f).landed = s.landed := rfl
@[simp] theorem State.modifyCommand_answers : (s.modifyCommand f).answers = s.answers := rfl
@[simp] theorem State.modifyCommand_burst : (s.modifyCommand f).burst = s.burst := rfl
@[simp] theorem State.modifyCommand_rigAnswers : (s.modifyCommand f).rigAnswers = s.rigAnswers := rfl
end

/-! ### answerCommand -/

section
variable (s : State) (r : ResultCode) (d : List Word)
@[simp] theorem State.answerCommand_pending : (s.answerCommand r d).pending = s.pending := rfl
@[simp] theorem State.answerCommand_freeCount : (s.answerCommand r d).freeCount = s.freeCount := rfl
@[simp] theorem State.answerCommand_timer : (s.answerCommand r d).timer = s.timer := rfl
@[simp] theorem State.answerCommand_clock : (s.answerCommand r d).clock = s.clock := rfl
@[simp] theorem State.answerCommand_part : (s.answerCommand r d).part = s.part := rfl
@[simp] theorem State.answerCommand_lines : (s.answerCommand r d).lines = s.lines := rfl
@[simp] theorem State.answerCommand_mem : (s.answerCommand r d).mem = s.mem := rfl
@[simp] theorem State.answerCommand_pool : (s.answerCommand r d).pool = s.pool := rfl
@[simp] theorem State.answerCommand_cache : (s.answerCommand r d).cache = s.cache := rfl
@[simp] theorem State.answerCommand_resolver : (s.answerCommand r d).resolver = s.resolver := rfl
@[simp] theorem State.answerCommand_blend : (s.answerCommand r d).blend = s.blend := rfl
@[simp] theorem State.answerCommand_health : (s.answerCommand r d).health = s.health := rfl
@[simp] theorem State.answerCommand_groups : (s.answerCommand r d).groups = s.groups := rfl
@[simp] theorem State.answerCommand_sup : (s.answerCommand r d).sup = { s.sup with command := s.sup.command.answered r d } := rfl
@[simp] theorem State.answerCommand_notices : (s.answerCommand r d).notices = s.notices := rfl
@[simp] theorem State.answerCommand_landed : (s.answerCommand r d).landed = s.landed := rfl
@[simp] theorem State.answerCommand_answers : (s.answerCommand r d).answers = s.answers := rfl
@[simp] theorem State.answerCommand_burst : (s.answerCommand r d).burst = s.burst := rfl
@[simp] theorem State.answerCommand_rigAnswers : (s.answerCommand r d).rigAnswers = s.rigAnswers := rfl
end

/-! ### setTeardown -/

section
variable (s : State) (v : Option Teardown)
@[simp] theorem State.setTeardown_pending : (s.setTeardown v).pending = s.pending := rfl
@[simp] theorem State.setTeardown_freeCount : (s.setTeardown v).freeCount = s.freeCount := rfl
@[simp] theorem State.setTeardown_timer : (s.setTeardown v).timer = s.timer := rfl
@[simp] theorem State.setTeardown_clock : (s.setTeardown v).clock = s.clock := rfl
@[simp] theorem State.setTeardown_part : (s.setTeardown v).part = s.part := rfl
@[simp] theorem State.setTeardown_lines : (s.setTeardown v).lines = s.lines := rfl
@[simp] theorem State.setTeardown_mem : (s.setTeardown v).mem = s.mem := rfl
@[simp] theorem State.setTeardown_pool : (s.setTeardown v).pool = s.pool := rfl
@[simp] theorem State.setTeardown_cache : (s.setTeardown v).cache = s.cache := rfl
@[simp] theorem State.setTeardown_resolver : (s.setTeardown v).resolver = s.resolver := rfl
@[simp] theorem State.setTeardown_blend : (s.setTeardown v).blend = s.blend := rfl
@[simp] theorem State.setTeardown_health : (s.setTeardown v).health = s.health := rfl
@[simp] theorem State.setTeardown_groups : (s.setTeardown v).groups = s.groups := rfl
@[simp] theorem State.setTeardown_sup : (s.setTeardown v).sup = { s.sup with teardown := v } := rfl
@[simp] theorem State.setTeardown_notices : (s.setTeardown v).notices = s.notices := rfl
@[simp] theorem State.setTeardown_landed : (s.setTeardown v).landed = s.landed := rfl
@[simp] theorem State.setTeardown_answers : (s.setTeardown v).answers = s.answers := rfl
@[simp] theorem State.setTeardown_burst : (s.setTeardown v).burst = s.burst := rfl
@[simp] theorem State.setTeardown_rigAnswers : (s.setTeardown v).rigAnswers = s.rigAnswers := rfl
end

/-! ### writeAnchorResult -/

section
variable (s : State) (r : ResultCode)
@[simp] theorem State.writeAnchorResult_pending : (s.writeAnchorResult r).pending = s.pending := rfl
@[simp] theorem State.writeAnchorResult_freeCount : (s.writeAnchorResult r).freeCount = s.freeCount := rfl
@[simp] theorem State.writeAnchorResult_timer : (s.writeAnchorResult r).timer = s.timer := rfl
@[simp] theorem State.writeAnchorResult_clock : (s.writeAnchorResult r).clock = s.clock := rfl
@[simp] theorem State.writeAnchorResult_part : (s.writeAnchorResult r).part = s.part := rfl
@[simp] theorem State.writeAnchorResult_lines : (s.writeAnchorResult r).lines = s.lines := rfl
@[simp] theorem State.writeAnchorResult_mem : (s.writeAnchorResult r).mem = writeWord s.mem 4 (word r.code) := rfl
@[simp] theorem State.writeAnchorResult_pool : (s.writeAnchorResult r).pool = s.pool := rfl
@[simp] theorem State.writeAnchorResult_cache : (s.writeAnchorResult r).cache = s.cache := rfl
@[simp] theorem State.writeAnchorResult_resolver : (s.writeAnchorResult r).resolver = s.resolver := rfl
@[simp] theorem State.writeAnchorResult_blend : (s.writeAnchorResult r).blend = s.blend := rfl
@[simp] theorem State.writeAnchorResult_health : (s.writeAnchorResult r).health = s.health := rfl
@[simp] theorem State.writeAnchorResult_groups : (s.writeAnchorResult r).groups = s.groups := rfl
@[simp] theorem State.writeAnchorResult_sup : (s.writeAnchorResult r).sup = s.sup := rfl
@[simp] theorem State.writeAnchorResult_notices : (s.writeAnchorResult r).notices = s.notices := rfl
@[simp] theorem State.writeAnchorResult_landed : (s.writeAnchorResult r).landed = s.landed := rfl
@[simp] theorem State.writeAnchorResult_answers : (s.writeAnchorResult r).answers = s.answers := rfl
@[simp] theorem State.writeAnchorResult_burst : (s.writeAnchorResult r).burst = s.burst := rfl
@[simp] theorem State.writeAnchorResult_rigAnswers : (s.writeAnchorResult r).rigAnswers = s.rigAnswers := rfl
end

/-! ### sendSlotWrite -/

section
variable (s : State) (kind : SlotWriteKind) (g k o : Nat) (ws : List Word)
@[simp] theorem State.sendSlotWrite_pending : (s.sendSlotWrite kind g k o ws).pending = s.pending := rfl
@[simp] theorem State.sendSlotWrite_freeCount : (s.sendSlotWrite kind g k o ws).freeCount = s.freeCount := rfl
@[simp] theorem State.sendSlotWrite_timer : (s.sendSlotWrite kind g k o ws).timer = s.timer := rfl
@[simp] theorem State.sendSlotWrite_clock : (s.sendSlotWrite kind g k o ws).clock = s.clock := rfl
@[simp] theorem State.sendSlotWrite_part : (s.sendSlotWrite kind g k o ws).part = s.part := rfl
@[simp] theorem State.sendSlotWrite_lines : (s.sendSlotWrite kind g k o ws).lines = s.lines := rfl
@[simp] theorem State.sendSlotWrite_mem : (s.sendSlotWrite kind g k o ws).mem = s.mem := rfl
@[simp] theorem State.sendSlotWrite_pool : (s.sendSlotWrite kind g k o ws).pool = s.pool := rfl
@[simp] theorem State.sendSlotWrite_cache : (s.sendSlotWrite kind g k o ws).cache = s.cache := rfl
@[simp] theorem State.sendSlotWrite_blend : (s.sendSlotWrite kind g k o ws).blend = s.blend := rfl
@[simp] theorem State.sendSlotWrite_health : (s.sendSlotWrite kind g k o ws).health = s.health := rfl
@[simp] theorem State.sendSlotWrite_groups : (s.sendSlotWrite kind g k o ws).groups = s.groups := rfl
@[simp] theorem State.sendSlotWrite_sup : (s.sendSlotWrite kind g k o ws).sup = s.sup := rfl
@[simp] theorem State.sendSlotWrite_notices : (s.sendSlotWrite kind g k o ws).notices = s.notices := rfl
@[simp] theorem State.sendSlotWrite_landed : (s.sendSlotWrite kind g k o ws).landed = s.landed := rfl
@[simp] theorem State.sendSlotWrite_answers : (s.sendSlotWrite kind g k o ws).answers = s.answers := rfl
@[simp] theorem State.sendSlotWrite_burst : (s.sendSlotWrite kind g k o ws).burst = s.burst := rfl
@[simp] theorem State.sendSlotWrite_rigAnswers : (s.sendSlotWrite kind g k o ws).rigAnswers = s.rigAnswers := rfl
end

/-! ### setFront -/

section
variable (s : State) (n : Nat)
@[simp] theorem State.setFront_pending : (s.setFront n).pending = s.pending := rfl
@[simp] theorem State.setFront_freeCount : (s.setFront n).freeCount = s.freeCount := rfl
@[simp] theorem State.setFront_timer : (s.setFront n).timer = s.timer := rfl
@[simp] theorem State.setFront_clock : (s.setFront n).clock = s.clock := rfl
@[simp] theorem State.setFront_part : (s.setFront n).part = s.part := rfl
@[simp] theorem State.setFront_lines : (s.setFront n).lines = s.lines := rfl
@[simp] theorem State.setFront_mem : (s.setFront n).mem = s.mem := rfl
@[simp] theorem State.setFront_pool : (s.setFront n).pool = s.pool := rfl
@[simp] theorem State.setFront_cache : (s.setFront n).cache = s.cache := rfl
@[simp] theorem State.setFront_resolver : (s.setFront n).resolver = { s.resolver with resolveFront := n } := rfl
@[simp] theorem State.setFront_blend : (s.setFront n).blend = s.blend := rfl
@[simp] theorem State.setFront_health : (s.setFront n).health = s.health := rfl
@[simp] theorem State.setFront_groups : (s.setFront n).groups = s.groups := rfl
@[simp] theorem State.setFront_sup : (s.setFront n).sup = s.sup := rfl
@[simp] theorem State.setFront_notices : (s.setFront n).notices = s.notices := rfl
@[simp] theorem State.setFront_landed : (s.setFront n).landed = s.landed := rfl
@[simp] theorem State.setFront_answers : (s.setFront n).answers = s.answers := rfl
@[simp] theorem State.setFront_burst : (s.setFront n).burst = s.burst := rfl
@[simp] theorem State.setFront_rigAnswers : (s.setFront n).rigAnswers = s.rigAnswers := rfl
end

/-! ### landSlotWrites -/

section
variable (s : State) (ws : List (Nat × List Word)) (rest : List SlotWrite)
@[simp] theorem State.landSlotWrites_pending : (s.landSlotWrites ws rest).pending = s.pending := rfl
@[simp] theorem State.landSlotWrites_freeCount : (s.landSlotWrites ws rest).freeCount = s.freeCount := rfl
@[simp] theorem State.landSlotWrites_timer : (s.landSlotWrites ws rest).timer = s.timer := rfl
@[simp] theorem State.landSlotWrites_clock : (s.landSlotWrites ws rest).clock = s.clock := rfl
@[simp] theorem State.landSlotWrites_part : (s.landSlotWrites ws rest).part = s.part := rfl
@[simp] theorem State.landSlotWrites_lines : (s.landSlotWrites ws rest).lines = s.lines := rfl
@[simp] theorem State.landSlotWrites_mem : (s.landSlotWrites ws rest).mem = takeWrites s.mem ws := rfl
@[simp] theorem State.landSlotWrites_pool : (s.landSlotWrites ws rest).pool = s.pool := rfl
@[simp] theorem State.landSlotWrites_cache : (s.landSlotWrites ws rest).cache = s.cache := rfl
@[simp] theorem State.landSlotWrites_resolver : (s.landSlotWrites ws rest).resolver = { s.resolver with writes := rest } := rfl
@[simp] theorem State.landSlotWrites_blend : (s.landSlotWrites ws rest).blend = s.blend := rfl
@[simp] theorem State.landSlotWrites_health : (s.landSlotWrites ws rest).health = s.health := rfl
@[simp] theorem State.landSlotWrites_groups : (s.landSlotWrites ws rest).groups = s.groups := rfl
@[simp] theorem State.landSlotWrites_sup : (s.landSlotWrites ws rest).sup = s.sup := rfl
@[simp] theorem State.landSlotWrites_notices : (s.landSlotWrites ws rest).notices = s.notices := rfl
@[simp] theorem State.landSlotWrites_landed : (s.landSlotWrites ws rest).landed = s.landed := rfl
@[simp] theorem State.landSlotWrites_answers : (s.landSlotWrites ws rest).answers = s.answers := rfl
@[simp] theorem State.landSlotWrites_burst : (s.landSlotWrites ws rest).burst = s.burst := rfl
@[simp] theorem State.landSlotWrites_rigAnswers : (s.landSlotWrites ws rest).rigAnswers = s.rigAnswers := rfl
end

/-! ### addJob -/

section
variable (s : State) (j : BlendJob)
@[simp] theorem State.addJob_pending : (s.addJob j).pending = s.pending := rfl
@[simp] theorem State.addJob_freeCount : (s.addJob j).freeCount = s.freeCount := rfl
@[simp] theorem State.addJob_timer : (s.addJob j).timer = s.timer := rfl
@[simp] theorem State.addJob_clock : (s.addJob j).clock = s.clock := rfl
@[simp] theorem State.addJob_part : (s.addJob j).part = s.part := rfl
@[simp] theorem State.addJob_lines : (s.addJob j).lines = s.lines := rfl
@[simp] theorem State.addJob_mem : (s.addJob j).mem = s.mem := rfl
@[simp] theorem State.addJob_pool : (s.addJob j).pool = s.pool := rfl
@[simp] theorem State.addJob_cache : (s.addJob j).cache = s.cache := rfl
@[simp] theorem State.addJob_resolver : (s.addJob j).resolver = s.resolver := rfl
@[simp] theorem State.addJob_blend : (s.addJob j).blend = startHead (s.blend ++ [j]) := rfl
@[simp] theorem State.addJob_health : (s.addJob j).health = s.health := rfl
@[simp] theorem State.addJob_groups : (s.addJob j).groups = s.groups := rfl
@[simp] theorem State.addJob_sup : (s.addJob j).sup = s.sup := rfl
@[simp] theorem State.addJob_notices : (s.addJob j).notices = s.notices := rfl
@[simp] theorem State.addJob_landed : (s.addJob j).landed = s.landed := rfl
@[simp] theorem State.addJob_answers : (s.addJob j).answers = s.answers := rfl
@[simp] theorem State.addJob_burst : (s.addJob j).burst = s.burst := rfl
@[simp] theorem State.addJob_rigAnswers : (s.addJob j).rigAnswers = s.rigAnswers := rfl
end

/-! ### dropHead -/

section
variable (s : State)
@[simp] theorem State.dropHead_pending : (s.dropHead).pending = s.pending := rfl
@[simp] theorem State.dropHead_freeCount : (s.dropHead).freeCount = s.freeCount := rfl
@[simp] theorem State.dropHead_timer : (s.dropHead).timer = s.timer := rfl
@[simp] theorem State.dropHead_clock : (s.dropHead).clock = s.clock := rfl
@[simp] theorem State.dropHead_part : (s.dropHead).part = s.part := rfl
@[simp] theorem State.dropHead_lines : (s.dropHead).lines = s.lines := rfl
@[simp] theorem State.dropHead_mem : (s.dropHead).mem = s.mem := rfl
@[simp] theorem State.dropHead_pool : (s.dropHead).pool = s.pool := rfl
@[simp] theorem State.dropHead_cache : (s.dropHead).cache = s.cache := rfl
@[simp] theorem State.dropHead_resolver : (s.dropHead).resolver = s.resolver := rfl
@[simp] theorem State.dropHead_blend : (s.dropHead).blend = startHead s.blend.tail := rfl
@[simp] theorem State.dropHead_health : (s.dropHead).health = s.health := rfl
@[simp] theorem State.dropHead_groups : (s.dropHead).groups = s.groups := rfl
@[simp] theorem State.dropHead_sup : (s.dropHead).sup = s.sup := rfl
@[simp] theorem State.dropHead_notices : (s.dropHead).notices = s.notices := rfl
@[simp] theorem State.dropHead_landed : (s.dropHead).landed = s.landed := rfl
@[simp] theorem State.dropHead_answers : (s.dropHead).answers = s.answers := rfl
@[simp] theorem State.dropHead_burst : (s.dropHead).burst = s.burst := rfl
@[simp] theorem State.dropHead_rigAnswers : (s.dropHead).rigAnswers = s.rigAnswers := rfl
end

/-! ### landOutput -/

section
variable (s : State) (j : BlendJob)
@[simp] theorem State.landOutput_pending : (s.landOutput j).pending = s.pending := rfl
@[simp] theorem State.landOutput_freeCount : (s.landOutput j).freeCount = s.freeCount := rfl
@[simp] theorem State.landOutput_timer : (s.landOutput j).timer = s.timer := rfl
@[simp] theorem State.landOutput_clock : (s.landOutput j).clock = s.clock := rfl
@[simp] theorem State.landOutput_part : (s.landOutput j).part = s.part := rfl
@[simp] theorem State.landOutput_lines : (s.landOutput j).lines = s.lines := rfl
@[simp] theorem State.landOutput_pool : (s.landOutput j).pool = s.pool := rfl
@[simp] theorem State.landOutput_cache : (s.landOutput j).cache = s.cache := rfl
@[simp] theorem State.landOutput_resolver : (s.landOutput j).resolver = s.resolver := rfl
@[simp] theorem State.landOutput_blend : (s.landOutput j).blend = s.blend := rfl
@[simp] theorem State.landOutput_health : (s.landOutput j).health = s.health := rfl
@[simp] theorem State.landOutput_groups : (s.landOutput j).groups = s.groups := rfl
@[simp] theorem State.landOutput_sup : (s.landOutput j).sup = s.sup := rfl
@[simp] theorem State.landOutput_notices : (s.landOutput j).notices = s.notices := rfl
@[simp] theorem State.landOutput_landed : (s.landOutput j).landed = { s.landed with blend := 0 } := rfl
@[simp] theorem State.landOutput_answers : (s.landOutput j).answers = s.answers := rfl
@[simp] theorem State.landOutput_burst : (s.landOutput j).burst = s.burst := rfl
@[simp] theorem State.landOutput_rigAnswers : (s.landOutput j).rigAnswers = s.rigAnswers := rfl
end

/-! ### setLane -/

section
variable (s : State) (k : Nat) (r : Rig) (l : Nat) (v : Lane)
@[simp] theorem State.setLane_pending : (s.setLane k r l v).pending = s.pending := rfl
@[simp] theorem State.setLane_freeCount : (s.setLane k r l v).freeCount = s.freeCount := rfl
@[simp] theorem State.setLane_timer : (s.setLane k r l v).timer = s.timer := rfl
@[simp] theorem State.setLane_clock : (s.setLane k r l v).clock = s.clock := rfl
@[simp] theorem State.setLane_part : (s.setLane k r l v).part = s.part := rfl
@[simp] theorem State.setLane_lines : (s.setLane k r l v).lines = s.lines := rfl
@[simp] theorem State.setLane_mem : (s.setLane k r l v).mem = s.mem := rfl
@[simp] theorem State.setLane_pool : (s.setLane k r l v).pool = s.pool := rfl
@[simp] theorem State.setLane_cache : (s.setLane k r l v).cache = s.cache.modifyContext k (fun x => x.setLane r l v) := rfl
@[simp] theorem State.setLane_resolver : (s.setLane k r l v).resolver = s.resolver := rfl
@[simp] theorem State.setLane_blend : (s.setLane k r l v).blend = s.blend := rfl
@[simp] theorem State.setLane_health : (s.setLane k r l v).health = s.health := rfl
@[simp] theorem State.setLane_groups : (s.setLane k r l v).groups = s.groups := rfl
@[simp] theorem State.setLane_sup : (s.setLane k r l v).sup = s.sup := rfl
@[simp] theorem State.setLane_notices : (s.setLane k r l v).notices = s.notices := rfl
@[simp] theorem State.setLane_landed : (s.setLane k r l v).landed = s.landed := rfl
@[simp] theorem State.setLane_answers : (s.setLane k r l v).answers = s.answers := rfl
@[simp] theorem State.setLane_burst : (s.setLane k r l v).burst = s.burst := rfl
@[simp] theorem State.setLane_rigAnswers : (s.setLane k r l v).rigAnswers = s.rigAnswers := rfl
end

/-! ### storePayload -/

section
variable (s : State) (ln : Lane) (v : Word)
@[simp] theorem State.storePayload_pending : (s.storePayload ln v).pending = s.pending := rfl
@[simp] theorem State.storePayload_freeCount : (s.storePayload ln v).freeCount = s.freeCount := rfl
@[simp] theorem State.storePayload_timer : (s.storePayload ln v).timer = s.timer := rfl
@[simp] theorem State.storePayload_clock : (s.storePayload ln v).clock = s.clock := rfl
@[simp] theorem State.storePayload_part : (s.storePayload ln v).part = s.part := rfl
@[simp] theorem State.storePayload_lines : (s.storePayload ln v).lines = s.lines := rfl
@[simp] theorem State.storePayload_pool : (s.storePayload ln v).pool = s.pool := rfl
@[simp] theorem State.storePayload_cache : (s.storePayload ln v).cache = s.cache := rfl
@[simp] theorem State.storePayload_resolver : (s.storePayload ln v).resolver = s.resolver := rfl
@[simp] theorem State.storePayload_blend : (s.storePayload ln v).blend = s.blend := rfl
@[simp] theorem State.storePayload_health : (s.storePayload ln v).health = s.health := rfl
@[simp] theorem State.storePayload_groups : (s.storePayload ln v).groups = s.groups := rfl
@[simp] theorem State.storePayload_sup : (s.storePayload ln v).sup = s.sup := rfl
@[simp] theorem State.storePayload_notices : (s.storePayload ln v).notices = s.notices := rfl
@[simp] theorem State.storePayload_landed : (s.storePayload ln v).landed = s.landed := rfl
@[simp] theorem State.storePayload_answers : (s.storePayload ln v).answers = s.answers := rfl
@[simp] theorem State.storePayload_burst : (s.storePayload ln v).burst = s.burst := rfl
@[simp] theorem State.storePayload_rigAnswers : (s.storePayload ln v).rigAnswers = s.rigAnswers := rfl
end

/-! ### setPort -/

section
variable (s : State) (r : Rig) (q : List RigRequest)
@[simp] theorem State.setPort_pending : (s.setPort r q).pending = s.pending := rfl
@[simp] theorem State.setPort_freeCount : (s.setPort r q).freeCount = s.freeCount := rfl
@[simp] theorem State.setPort_timer : (s.setPort r q).timer = s.timer := rfl
@[simp] theorem State.setPort_clock : (s.setPort r q).clock = s.clock := rfl
@[simp] theorem State.setPort_part : (s.setPort r q).part = s.part := rfl
@[simp] theorem State.setPort_lines : (s.setPort r q).lines = s.lines := rfl
@[simp] theorem State.setPort_mem : (s.setPort r q).mem = s.mem := rfl
@[simp] theorem State.setPort_pool : (s.setPort r q).pool = s.pool := rfl
@[simp] theorem State.setPort_cache : (s.setPort r q).cache = { s.cache with ports := s.cache.ports.set r q } := rfl
@[simp] theorem State.setPort_resolver : (s.setPort r q).resolver = s.resolver := rfl
@[simp] theorem State.setPort_blend : (s.setPort r q).blend = s.blend := rfl
@[simp] theorem State.setPort_health : (s.setPort r q).health = s.health := rfl
@[simp] theorem State.setPort_groups : (s.setPort r q).groups = s.groups := rfl
@[simp] theorem State.setPort_sup : (s.setPort r q).sup = s.sup := rfl
@[simp] theorem State.setPort_notices : (s.setPort r q).notices = s.notices := rfl
@[simp] theorem State.setPort_landed : (s.setPort r q).landed = s.landed := rfl
@[simp] theorem State.setPort_answers : (s.setPort r q).answers = s.answers := rfl
@[simp] theorem State.setPort_burst : (s.setPort r q).burst = s.burst := rfl
@[simp] theorem State.setPort_rigAnswers : (s.setPort r q).rigAnswers = s.rigAnswers := rfl
end

/-! ### answerRig -/

section
variable (s : State) (r : Rig) (a n : Nat)
@[simp] theorem State.answerRig_pending : (s.answerRig r a n).pending = s.pending := rfl
@[simp] theorem State.answerRig_freeCount : (s.answerRig r a n).freeCount = s.freeCount := rfl
@[simp] theorem State.answerRig_timer : (s.answerRig r a n).timer = s.timer := rfl
@[simp] theorem State.answerRig_clock : (s.answerRig r a n).clock = s.clock := rfl
@[simp] theorem State.answerRig_part : (s.answerRig r a n).part = s.part := rfl
@[simp] theorem State.answerRig_lines : (s.answerRig r a n).lines = s.lines := rfl
@[simp] theorem State.answerRig_mem : (s.answerRig r a n).mem = s.mem := rfl
@[simp] theorem State.answerRig_pool : (s.answerRig r a n).pool = s.pool := rfl
@[simp] theorem State.answerRig_cache : (s.answerRig r a n).cache = s.cache := rfl
@[simp] theorem State.answerRig_resolver : (s.answerRig r a n).resolver = s.resolver := rfl
@[simp] theorem State.answerRig_blend : (s.answerRig r a n).blend = s.blend := rfl
@[simp] theorem State.answerRig_health : (s.answerRig r a n).health = s.health := rfl
@[simp] theorem State.answerRig_groups : (s.answerRig r a n).groups = s.groups := rfl
@[simp] theorem State.answerRig_sup : (s.answerRig r a n).sup = s.sup := rfl
@[simp] theorem State.answerRig_notices : (s.answerRig r a n).notices = s.notices := rfl
@[simp] theorem State.answerRig_landed : (s.answerRig r a n).landed = s.landed := rfl
@[simp] theorem State.answerRig_answers : (s.answerRig r a n).answers = s.answers := rfl
@[simp] theorem State.answerRig_burst : (s.answerRig r a n).burst = s.burst := rfl
@[simp] theorem State.answerRig_rigAnswers : (s.answerRig r a n).rigAnswers = s.rigAnswers.set r (s.rigAnswers.get r ++ [rigPortRead a n]) := rfl
end

/-! ### countReaderEarly -/

section
variable (s : State)
@[simp] theorem State.countReaderEarly_pending : (s.countReaderEarly).pending = s.pending := rfl
@[simp] theorem State.countReaderEarly_freeCount : (s.countReaderEarly).freeCount = s.freeCount := rfl
@[simp] theorem State.countReaderEarly_timer : (s.countReaderEarly).timer = s.timer := rfl
@[simp] theorem State.countReaderEarly_clock : (s.countReaderEarly).clock = s.clock := rfl
@[simp] theorem State.countReaderEarly_part : (s.countReaderEarly).part = s.part := rfl
@[simp] theorem State.countReaderEarly_lines : (s.countReaderEarly).lines = s.lines := rfl
@[simp] theorem State.countReaderEarly_mem : (s.countReaderEarly).mem = s.mem := rfl
@[simp] theorem State.countReaderEarly_pool : (s.countReaderEarly).pool = s.pool := rfl
@[simp] theorem State.countReaderEarly_cache : (s.countReaderEarly).cache = s.cache := rfl
@[simp] theorem State.countReaderEarly_resolver : (s.countReaderEarly).resolver = { s.resolver with readerEarly := sat16 s.resolver.readerEarly } := rfl
@[simp] theorem State.countReaderEarly_blend : (s.countReaderEarly).blend = s.blend := rfl
@[simp] theorem State.countReaderEarly_health : (s.countReaderEarly).health = s.health := rfl
@[simp] theorem State.countReaderEarly_groups : (s.countReaderEarly).groups = s.groups := rfl
@[simp] theorem State.countReaderEarly_sup : (s.countReaderEarly).sup = s.sup := rfl
@[simp] theorem State.countReaderEarly_notices : (s.countReaderEarly).notices = s.notices := rfl
@[simp] theorem State.countReaderEarly_landed : (s.countReaderEarly).landed = s.landed := rfl
@[simp] theorem State.countReaderEarly_answers : (s.countReaderEarly).answers = s.answers := rfl
@[simp] theorem State.countReaderEarly_burst : (s.countReaderEarly).burst = s.burst := rfl
@[simp] theorem State.countReaderEarly_rigAnswers : (s.countReaderEarly).rigAnswers = s.rigAnswers := rfl
end

/-! ### writebackTaken -/

section
variable (s : State)
@[simp] theorem State.writebackTaken_pending : (s.writebackTaken).pending = s.pending := rfl
@[simp] theorem State.writebackTaken_freeCount : (s.writebackTaken).freeCount = s.freeCount := rfl
@[simp] theorem State.writebackTaken_timer : (s.writebackTaken).timer = s.timer := rfl
@[simp] theorem State.writebackTaken_clock : (s.writebackTaken).clock = s.clock := rfl
@[simp] theorem State.writebackTaken_part : (s.writebackTaken).part = s.part := rfl
@[simp] theorem State.writebackTaken_lines : (s.writebackTaken).lines = s.lines := rfl
@[simp] theorem State.writebackTaken_mem : (s.writebackTaken).mem = takeWrites s.mem s.writebackInFlight := rfl
@[simp] theorem State.writebackTaken_pool : (s.writebackTaken).pool = s.pool := rfl
@[simp] theorem State.writebackTaken_cache : (s.writebackTaken).cache = { s.cache with sends := s.cache.sends.tail } := rfl
@[simp] theorem State.writebackTaken_resolver : (s.writebackTaken).resolver = s.resolver := rfl
@[simp] theorem State.writebackTaken_blend : (s.writebackTaken).blend = s.blend := rfl
@[simp] theorem State.writebackTaken_health : (s.writebackTaken).health = s.health := rfl
@[simp] theorem State.writebackTaken_groups : (s.writebackTaken).groups = s.groups := rfl
@[simp] theorem State.writebackTaken_sup : (s.writebackTaken).sup = s.sup := rfl
@[simp] theorem State.writebackTaken_notices : (s.writebackTaken).notices = s.notices := rfl
@[simp] theorem State.writebackTaken_landed : (s.writebackTaken).landed = { s.landed with writeback := 0 } := rfl
@[simp] theorem State.writebackTaken_answers : (s.writebackTaken).answers = s.answers := rfl
@[simp] theorem State.writebackTaken_burst : (s.writebackTaken).burst = s.burst := rfl
@[simp] theorem State.writebackTaken_rigAnswers : (s.writebackTaken).rigAnswers = s.rigAnswers := rfl
end

/-! ### writeDirEntry -/

section
variable (s : State) (c : Nat) (d : DirEntry)
@[simp] theorem State.writeDirEntry_pending : (s.writeDirEntry c d).pending = s.pending := by simp only [State.writeDirEntry]
@[simp] theorem State.writeDirEntry_freeCount : (s.writeDirEntry c d).freeCount = s.freeCount := by simp only [State.writeDirEntry]
@[simp] theorem State.writeDirEntry_timer : (s.writeDirEntry c d).timer = s.timer := by simp only [State.writeDirEntry]
@[simp] theorem State.writeDirEntry_clock : (s.writeDirEntry c d).clock = s.clock := by simp only [State.writeDirEntry]
@[simp] theorem State.writeDirEntry_part : (s.writeDirEntry c d).part = s.part := by simp only [State.writeDirEntry]
@[simp] theorem State.writeDirEntry_lines : (s.writeDirEntry c d).lines = s.lines := by simp only [State.writeDirEntry]
@[simp] theorem State.writeDirEntry_mem : (s.writeDirEntry c d).mem = writeWords s.mem (s.dirEntryAddr c) d.words := by simp only [State.writeDirEntry]
@[simp] theorem State.writeDirEntry_pool : (s.writeDirEntry c d).pool = s.pool := by simp only [State.writeDirEntry]
@[simp] theorem State.writeDirEntry_cache : (s.writeDirEntry c d).cache = s.cache := by simp only [State.writeDirEntry]
@[simp] theorem State.writeDirEntry_resolver : (s.writeDirEntry c d).resolver = s.resolver := by simp only [State.writeDirEntry]
@[simp] theorem State.writeDirEntry_blend : (s.writeDirEntry c d).blend = s.blend := by simp only [State.writeDirEntry]
@[simp] theorem State.writeDirEntry_health : (s.writeDirEntry c d).health = s.health := by simp only [State.writeDirEntry]
@[simp] theorem State.writeDirEntry_groups : (s.writeDirEntry c d).groups = s.groups := by simp only [State.writeDirEntry]
@[simp] theorem State.writeDirEntry_sup : (s.writeDirEntry c d).sup = s.sup := by simp only [State.writeDirEntry]
@[simp] theorem State.writeDirEntry_notices : (s.writeDirEntry c d).notices = s.notices := by simp only [State.writeDirEntry]
@[simp] theorem State.writeDirEntry_landed : (s.writeDirEntry c d).landed = s.landed := by simp only [State.writeDirEntry]
@[simp] theorem State.writeDirEntry_answers : (s.writeDirEntry c d).answers = s.answers := by simp only [State.writeDirEntry]
@[simp] theorem State.writeDirEntry_burst : (s.writeDirEntry c d).burst = s.burst := by simp only [State.writeDirEntry]
@[simp] theorem State.writeDirEntry_rigAnswers : (s.writeDirEntry c d).rigAnswers = s.rigAnswers := by simp only [State.writeDirEntry]
end

/-! ### setContextExhausted -/

section
variable (s : State) (v : Bool)
@[simp] theorem State.setContextExhausted_pending : (s.setContextExhausted v).pending = s.pending := rfl
@[simp] theorem State.setContextExhausted_freeCount : (s.setContextExhausted v).freeCount = s.freeCount := rfl
@[simp] theorem State.setContextExhausted_timer : (s.setContextExhausted v).timer = s.timer := rfl
@[simp] theorem State.setContextExhausted_clock : (s.setContextExhausted v).clock = s.clock := rfl
@[simp] theorem State.setContextExhausted_part : (s.setContextExhausted v).part = s.part := rfl
@[simp] theorem State.setContextExhausted_lines : (s.setContextExhausted v).lines = s.lines := rfl
@[simp] theorem State.setContextExhausted_mem : (s.setContextExhausted v).mem = s.mem := rfl
@[simp] theorem State.setContextExhausted_pool : (s.setContextExhausted v).pool = s.pool := rfl
@[simp] theorem State.setContextExhausted_cache : (s.setContextExhausted v).cache = { s.cache with exhaustReported := v } := rfl
@[simp] theorem State.setContextExhausted_resolver : (s.setContextExhausted v).resolver = s.resolver := rfl
@[simp] theorem State.setContextExhausted_blend : (s.setContextExhausted v).blend = s.blend := rfl
@[simp] theorem State.setContextExhausted_health : (s.setContextExhausted v).health = s.health := rfl
@[simp] theorem State.setContextExhausted_groups : (s.setContextExhausted v).groups = s.groups := rfl
@[simp] theorem State.setContextExhausted_sup : (s.setContextExhausted v).sup = s.sup := rfl
@[simp] theorem State.setContextExhausted_notices : (s.setContextExhausted v).notices = s.notices := rfl
@[simp] theorem State.setContextExhausted_landed : (s.setContextExhausted v).landed = s.landed := rfl
@[simp] theorem State.setContextExhausted_answers : (s.setContextExhausted v).answers = s.answers := rfl
@[simp] theorem State.setContextExhausted_burst : (s.setContextExhausted v).burst = s.burst := rfl
@[simp] theorem State.setContextExhausted_rigAnswers : (s.setContextExhausted v).rigAnswers = s.rigAnswers := rfl
end

/-! ### setClock -/

section
variable (s : State) (c : Clock)
@[simp] theorem State.setClock_pending : (s.setClock c).pending = s.pending := rfl
@[simp] theorem State.setClock_freeCount : (s.setClock c).freeCount = s.freeCount := rfl
@[simp] theorem State.setClock_timer : (s.setClock c).timer = s.timer := rfl
@[simp] theorem State.setClock_clock : (s.setClock c).clock = c := rfl
@[simp] theorem State.setClock_part : (s.setClock c).part = s.part := rfl
@[simp] theorem State.setClock_lines : (s.setClock c).lines = s.lines := rfl
@[simp] theorem State.setClock_mem : (s.setClock c).mem = s.mem := rfl
@[simp] theorem State.setClock_pool : (s.setClock c).pool = s.pool := rfl
@[simp] theorem State.setClock_cache : (s.setClock c).cache = s.cache := rfl
@[simp] theorem State.setClock_resolver : (s.setClock c).resolver = s.resolver := rfl
@[simp] theorem State.setClock_blend : (s.setClock c).blend = s.blend := rfl
@[simp] theorem State.setClock_health : (s.setClock c).health = s.health := rfl
@[simp] theorem State.setClock_groups : (s.setClock c).groups = s.groups := rfl
@[simp] theorem State.setClock_sup : (s.setClock c).sup = s.sup := rfl
@[simp] theorem State.setClock_notices : (s.setClock c).notices = s.notices := rfl
@[simp] theorem State.setClock_landed : (s.setClock c).landed = s.landed := rfl
@[simp] theorem State.setClock_answers : (s.setClock c).answers = s.answers := rfl
@[simp] theorem State.setClock_burst : (s.setClock c).burst = s.burst := rfl
@[simp] theorem State.setClock_rigAnswers : (s.setClock c).rigAnswers = s.rigAnswers := rfl
end

/-! ### raisePeriod -/

section
variable (s : State)
@[simp] theorem State.raisePeriod_pending : (s.raisePeriod).pending = s.pending := rfl
@[simp] theorem State.raisePeriod_freeCount : (s.raisePeriod).freeCount = s.freeCount := rfl
@[simp] theorem State.raisePeriod_timer : (s.raisePeriod).timer = s.timer := rfl
@[simp] theorem State.raisePeriod_clock : (s.raisePeriod).clock = s.clock := rfl
@[simp] theorem State.raisePeriod_part : (s.raisePeriod).part = { s.part with period := s.part.period + 1, startGuard := false } := rfl
@[simp] theorem State.raisePeriod_lines : (s.raisePeriod).lines = s.lines := rfl
@[simp] theorem State.raisePeriod_mem : (s.raisePeriod).mem = s.mem := rfl
@[simp] theorem State.raisePeriod_pool : (s.raisePeriod).pool = s.pool := rfl
@[simp] theorem State.raisePeriod_cache : (s.raisePeriod).cache = s.cache := rfl
@[simp] theorem State.raisePeriod_resolver : (s.raisePeriod).resolver = s.resolver := rfl
@[simp] theorem State.raisePeriod_blend : (s.raisePeriod).blend = s.blend := rfl
@[simp] theorem State.raisePeriod_health : (s.raisePeriod).health = s.health := rfl
@[simp] theorem State.raisePeriod_groups : (s.raisePeriod).groups = s.groups := rfl
@[simp] theorem State.raisePeriod_sup : (s.raisePeriod).sup = s.sup := rfl
@[simp] theorem State.raisePeriod_notices : (s.raisePeriod).notices = s.notices := rfl
@[simp] theorem State.raisePeriod_landed : (s.raisePeriod).landed = s.landed := rfl
@[simp] theorem State.raisePeriod_answers : (s.raisePeriod).answers = s.answers := rfl
@[simp] theorem State.raisePeriod_burst : (s.raisePeriod).burst = s.burst := rfl
@[simp] theorem State.raisePeriod_rigAnswers : (s.raisePeriod).rigAnswers = s.rigAnswers := rfl
end

/-! ### startRunning -/

section
variable (s : State)
@[simp] theorem State.startRunning_pending : (s.startRunning).pending = s.pending := rfl
@[simp] theorem State.startRunning_freeCount : (s.startRunning).freeCount = s.freeCount := rfl
@[simp] theorem State.startRunning_timer : (s.startRunning).timer = s.timer := rfl
@[simp] theorem State.startRunning_clock : (s.startRunning).clock = s.clock := rfl
@[simp] theorem State.startRunning_part : (s.startRunning).part = { s.part with state := .running, startGuard := true, startInstant := s.timer.now } := rfl
@[simp] theorem State.startRunning_lines : (s.startRunning).lines = s.lines := rfl
@[simp] theorem State.startRunning_mem : (s.startRunning).mem = s.mem := rfl
@[simp] theorem State.startRunning_pool : (s.startRunning).pool = s.pool := rfl
@[simp] theorem State.startRunning_cache : (s.startRunning).cache = s.cache := rfl
@[simp] theorem State.startRunning_resolver : (s.startRunning).resolver = s.resolver := rfl
@[simp] theorem State.startRunning_blend : (s.startRunning).blend = s.blend := rfl
@[simp] theorem State.startRunning_health : (s.startRunning).health = s.health := rfl
@[simp] theorem State.startRunning_groups : (s.startRunning).groups = s.groups := rfl
@[simp] theorem State.startRunning_sup : (s.startRunning).sup = s.sup := rfl
@[simp] theorem State.startRunning_notices : (s.startRunning).notices = s.notices := rfl
@[simp] theorem State.startRunning_landed : (s.startRunning).landed = s.landed := rfl
@[simp] theorem State.startRunning_answers : (s.startRunning).answers = s.answers := rfl
@[simp] theorem State.startRunning_burst : (s.startRunning).burst = s.burst := rfl
@[simp] theorem State.startRunning_rigAnswers : (s.startRunning).rigAnswers = s.rigAnswers := rfl
end

/-! ### land -/

section
variable (s : State) (k : Nat) (ws : List (Nat × List Word))
@[simp] theorem State.land_pending : (s.land k ws).pending = s.pending := rfl
@[simp] theorem State.land_freeCount : (s.land k ws).freeCount = s.freeCount := rfl
@[simp] theorem State.land_timer : (s.land k ws).timer = s.timer := rfl
@[simp] theorem State.land_clock : (s.land k ws).clock = s.clock := rfl
@[simp] theorem State.land_part : (s.land k ws).part = s.part := rfl
@[simp] theorem State.land_lines : (s.land k ws).lines = s.lines := rfl
@[simp] theorem State.land_mem : (s.land k ws).mem = landFirst s.mem k ws := rfl
@[simp] theorem State.land_pool : (s.land k ws).pool = s.pool := rfl
@[simp] theorem State.land_cache : (s.land k ws).cache = s.cache := rfl
@[simp] theorem State.land_resolver : (s.land k ws).resolver = s.resolver := rfl
@[simp] theorem State.land_blend : (s.land k ws).blend = s.blend := rfl
@[simp] theorem State.land_health : (s.land k ws).health = s.health := rfl
@[simp] theorem State.land_groups : (s.land k ws).groups = s.groups := rfl
@[simp] theorem State.land_sup : (s.land k ws).sup = s.sup := rfl
@[simp] theorem State.land_notices : (s.land k ws).notices = s.notices := rfl
@[simp] theorem State.land_landed : (s.land k ws).landed = s.landed := rfl
@[simp] theorem State.land_answers : (s.land k ws).answers = s.answers := rfl
@[simp] theorem State.land_burst : (s.land k ws).burst = s.burst := rfl
@[simp] theorem State.land_rigAnswers : (s.land k ws).rigAnswers = s.rigAnswers := rfl
end

/-! ### countLanded -/

section
variable (s : State) (f : Landed → Landed)
@[simp] theorem State.countLanded_pending : (s.countLanded f).pending = s.pending := rfl
@[simp] theorem State.countLanded_freeCount : (s.countLanded f).freeCount = s.freeCount := rfl
@[simp] theorem State.countLanded_timer : (s.countLanded f).timer = s.timer := rfl
@[simp] theorem State.countLanded_clock : (s.countLanded f).clock = s.clock := rfl
@[simp] theorem State.countLanded_part : (s.countLanded f).part = s.part := rfl
@[simp] theorem State.countLanded_lines : (s.countLanded f).lines = s.lines := rfl
@[simp] theorem State.countLanded_mem : (s.countLanded f).mem = s.mem := rfl
@[simp] theorem State.countLanded_pool : (s.countLanded f).pool = s.pool := rfl
@[simp] theorem State.countLanded_cache : (s.countLanded f).cache = s.cache := rfl
@[simp] theorem State.countLanded_resolver : (s.countLanded f).resolver = s.resolver := rfl
@[simp] theorem State.countLanded_blend : (s.countLanded f).blend = s.blend := rfl
@[simp] theorem State.countLanded_health : (s.countLanded f).health = s.health := rfl
@[simp] theorem State.countLanded_groups : (s.countLanded f).groups = s.groups := rfl
@[simp] theorem State.countLanded_sup : (s.countLanded f).sup = s.sup := rfl
@[simp] theorem State.countLanded_notices : (s.countLanded f).notices = s.notices := rfl
@[simp] theorem State.countLanded_landed : (s.countLanded f).landed = f s.landed := rfl
@[simp] theorem State.countLanded_answers : (s.countLanded f).answers = s.answers := rfl
@[simp] theorem State.countLanded_burst : (s.countLanded f).burst = s.burst := rfl
@[simp] theorem State.countLanded_rigAnswers : (s.countLanded f).rigAnswers = s.rigAnswers := rfl
end

/-! ### answerLocal -/

section
variable (s : State) (d : List Word) (e : Bool)
@[simp] theorem State.answerLocal_pending : (s.answerLocal d e).pending = s.pending := rfl
@[simp] theorem State.answerLocal_freeCount : (s.answerLocal d e).freeCount = s.freeCount := rfl
@[simp] theorem State.answerLocal_timer : (s.answerLocal d e).timer = s.timer := rfl
@[simp] theorem State.answerLocal_clock : (s.answerLocal d e).clock = s.clock := rfl
@[simp] theorem State.answerLocal_part : (s.answerLocal d e).part = s.part := rfl
@[simp] theorem State.answerLocal_lines : (s.answerLocal d e).lines = s.lines := rfl
@[simp] theorem State.answerLocal_mem : (s.answerLocal d e).mem = s.mem := rfl
@[simp] theorem State.answerLocal_pool : (s.answerLocal d e).pool = s.pool := rfl
@[simp] theorem State.answerLocal_cache : (s.answerLocal d e).cache = s.cache := rfl
@[simp] theorem State.answerLocal_resolver : (s.answerLocal d e).resolver = s.resolver := rfl
@[simp] theorem State.answerLocal_blend : (s.answerLocal d e).blend = s.blend := rfl
@[simp] theorem State.answerLocal_health : (s.answerLocal d e).health = s.health := rfl
@[simp] theorem State.answerLocal_groups : (s.answerLocal d e).groups = s.groups := rfl
@[simp] theorem State.answerLocal_sup : (s.answerLocal d e).sup = s.sup := rfl
@[simp] theorem State.answerLocal_notices : (s.answerLocal d e).notices = s.notices := rfl
@[simp] theorem State.answerLocal_landed : (s.answerLocal d e).landed = s.landed := rfl
@[simp] theorem State.answerLocal_answers : (s.answerLocal d e).answers = s.answers ++ [⟨d, e⟩] := rfl
@[simp] theorem State.answerLocal_burst : (s.answerLocal d e).burst = s.burst := rfl
@[simp] theorem State.answerLocal_rigAnswers : (s.answerLocal d e).rigAnswers = s.rigAnswers := rfl
end

/-! ### passThrough -/

section
variable (s : State) (a : Nat) (v : Word) (en : Enables)
@[simp] theorem State.passThrough_pending : (s.passThrough a v en).pending = s.pending := rfl
@[simp] theorem State.passThrough_freeCount : (s.passThrough a v en).freeCount = s.freeCount := rfl
@[simp] theorem State.passThrough_timer : (s.passThrough a v en).timer = s.timer := rfl
@[simp] theorem State.passThrough_clock : (s.passThrough a v en).clock = s.clock := rfl
@[simp] theorem State.passThrough_part : (s.passThrough a v en).part = s.part := rfl
@[simp] theorem State.passThrough_lines : (s.passThrough a v en).lines = s.lines := rfl
@[simp] theorem State.passThrough_mem : (s.passThrough a v en).mem = writeEnabled s.mem (a / 4 * 4) v en := rfl
@[simp] theorem State.passThrough_pool : (s.passThrough a v en).pool = s.pool := rfl
@[simp] theorem State.passThrough_cache : (s.passThrough a v en).cache = s.cache := rfl
@[simp] theorem State.passThrough_resolver : (s.passThrough a v en).resolver = s.resolver := rfl
@[simp] theorem State.passThrough_blend : (s.passThrough a v en).blend = s.blend := rfl
@[simp] theorem State.passThrough_health : (s.passThrough a v en).health = s.health := rfl
@[simp] theorem State.passThrough_groups : (s.passThrough a v en).groups = s.groups := rfl
@[simp] theorem State.passThrough_sup : (s.passThrough a v en).sup = s.sup := rfl
@[simp] theorem State.passThrough_notices : (s.passThrough a v en).notices = s.notices := rfl
@[simp] theorem State.passThrough_landed : (s.passThrough a v en).landed = s.landed := rfl
@[simp] theorem State.passThrough_answers : (s.passThrough a v en).answers = s.answers := rfl
@[simp] theorem State.passThrough_burst : (s.passThrough a v en).burst = s.burst := rfl
@[simp] theorem State.passThrough_rigAnswers : (s.passThrough a v en).rigAnswers = s.rigAnswers := rfl
end

end Sys2Proof.Machine
end

