-- ==== Sys2Proof/Laws/Frame.lean ====
section
/-! SUPPORT. The backdrop of a period event: what resolutions, switches, verdicts, releases and lane closures never change. -/

namespace Sys2Proof.Machine

/-- The parts of the state that no act of a block at a period event changes. The resolution alone raises ResolveFront. -/
structure Backdrop where
  pending : List Instr
  freeCount : Nat
  timer : LocalTimer
  clock : Clock
  part : Part
  sizeB : Bool
  sizeA : Bool
  takeoverLowSince : Option Nat
  interrupt : Bool
  resetLow : Bool
  mem : Memory
  resolveLead : Nat
  releaseGrace : Nat
  readerEarly : Nat
  readerFault : Nat
  expectSpan : Nat
  horizon : Nat
  sup : Supervisor
  landed : Landed
  answers : List ReadAnswer
  burst : Option ReadBurst
  rigAnswers : PerRig (List ReadAnswer)

/-- The backdrop of a state. -/
def State.backdrop (s : State) : Backdrop :=
  { pending := s.pending, freeCount := s.freeCount, timer := s.timer, clock := s.clock, part := s.part,
    sizeB := s.lines.sizeB, sizeA := s.lines.sizeA, takeoverLowSince := s.lines.takeoverLowSince,
    interrupt := s.lines.interrupt, resetLow := s.lines.resetLow, mem := s.mem, resolveLead := s.resolver.resolveLead,
    releaseGrace := s.resolver.releaseGrace, readerEarly := s.resolver.readerEarly,
    readerFault := s.resolver.readerFault, expectSpan := s.cache.expectSpan, horizon := s.cache.horizon, sup := s.sup,
    landed := s.landed, answers := s.answers, burst := s.burst, rigAnswers := s.rigAnswers }

/-- A loop whose body keeps a figure keeps it. -/
theorem foldl_keeps {α β : Type} (m : State → β) (f : State → α → State) (h : ∀ s a, m (f s a) = m s) :
    ∀ (l : List α) (s : State), m (l.foldl f s) = m s
  | [], _ => rfl
  | a :: l, s => (foldl_keeps m f h l (f s a)).trans (h s a)

/-- What the acts of a period event keep: the backdrop and ResolveFront. -/
def State.still (s : State) : Backdrop × Nat := (s.backdrop, s.resolver.resolveFront)

section
variable (s : State)

@[simp] theorem State.still_modifyGroup (g : Nat) (f : GroupRecord → GroupRecord) :
    (s.modifyGroup g f).still = s.still := rfl
@[simp] theorem State.still_modifyHealth (g : Nat) (f : GroupHealth → GroupHealth) :
    (s.modifyHealth g f).still = s.still := rfl
@[simp] theorem State.still_modifyRing (g : Nat) (f : Ring → Ring) : (s.modifyRing g f).still = s.still := rfl
@[simp] theorem State.still_modifySlot (g k : Nat) (f : Slot → Slot) : (s.modifySlot g k f).still = s.still := rfl
@[simp] theorem State.still_modifyContext (k : Nat) (f : Context → Context) :
    (s.modifyContext k f).still = s.still := rfl
@[simp] theorem State.still_claim (f : Pool → Pool) : (s.claim f).still = s.still := rfl
@[simp] theorem State.still_post (g : Option Nat) (r : Option Rig) (b : NoticeBody) :
    (s.post g r b).still = s.still := rfl
@[simp] theorem State.still_setTallies : s.setTallies.still = s.still := rfl
@[simp] theorem State.still_sendSlotWrite (kd : SlotWriteKind) (g k o : Nat) (ws : List Word) :
    (s.sendSlotWrite kd g k o ws).still = s.still := rfl
@[simp] theorem State.still_addJob (j : BlendJob) : (s.addJob j).still = s.still := rfl

/-! ### Switches and verdicts -/

@[simp] theorem State.still_postSwitchStarted (g : Nat) (r : Role) (l : Nat) :
    (s.postSwitchStarted g r l).still = s.still := rfl
@[simp] theorem State.still_postSwitchFinished (g : Nat) (e : SwitchEnding) :
    (s.postSwitchFinished g e).still = s.still := rfl

@[simp] theorem State.still_switchMember (r : Role) (b : Bool) (c : SwitchCause) (g : Nat) :
    (s.switchMember r b c g).still = s.still := by
  unfold State.switchMember
  extract_lets l started
  split <;> simp [started]

@[simp] theorem State.still_setWithheld (ms : List Nat) (v : Bool) : (s.setWithheld ms v).still = s.still :=
  foldl_keeps State.still (fun t m => t.modifyGroup m (fun gr => { gr with withheldReported := v })) (fun _ _ => rfl) ms s

@[simp] theorem State.still_switchSet (ms : List Nat) (r : Role) (b : Bool) (c : SwitchCause) :
    (s.switchSet ms r b c).still = s.still := by
  simp only [State.switchSet, State.still_setTallies, State.still_setWithheld]
  exact foldl_keeps State.still _ (fun t m => t.still_switchMember r b c m) ms s

@[simp] theorem State.still_withhold (ms : List Nat) (g : Nat) (r : Role) (w : WithheldReason) (m : Nat) :
    (s.withhold ms g r w m).still = s.still := by
  unfold State.withhold
  split <;> simp

@[simp] theorem State.still_automaticSwitch (ms : List Nat) (g : Nat) (r : Role) (c : SwitchCause) :
    (s.automaticSwitch ms g r c).still = s.still := by
  unfold State.automaticSwitch
  split <;> simp

@[simp] theorem State.still_evaluate (g : Nat) : (s.evaluate g).still = s.still := by
  unfold State.evaluate
  extract_lets ms
  repeat' split
  all_goals simp

@[simp] theorem State.still_fadeEndReport (g n : Nat) : (s.fadeEndReport g n).still = s.still := by
  unfold State.fadeEndReport
  split <;> simp

@[simp] theorem State.still_sample (r : Role) (g : Nat) (f : HealthRecord → HealthRecord) :
    (s.sample r g f).still = s.still := by
  unfold State.sample
  split <;> simp

@[simp] theorem State.still_sampleComparisons (g a b : Nat) : (s.sampleComparisons g a b).still = s.still := by
  unfold State.sampleComparisons
  split <;> simp

@[simp] theorem State.still_postRigVerdict (g : Nat) (r : Role) (v : RigVerdict) (b : Bool) :
    (s.postRigVerdict g r v b).still = s.still := by
  unfold State.postRigVerdict
  extract_lets h
  split <;> simp

@[simp] theorem State.still_postAgreement (g : Nat) (v : AgreementVerdict) : (s.postAgreement g v).still = s.still := by
  unfold State.postAgreement
  extract_lets a
  split <;> simp

@[simp] theorem State.still_sampleMiss (r : Role) (g : Nat) : (s.sampleMiss r g).still = s.still := by
  unfold State.sampleMiss
  extract_lets h st tripped
  repeat' split
  all_goals simp [tripped]

@[simp] theorem State.still_postVerdicts (g : Nat) (h : GroupHealth) : (s.postVerdicts g h).still = s.still := by
  simp [State.postVerdicts]

@[simp] theorem State.still_postWindowReports (g : Nat) (h : GroupHealth) :
    (s.postWindowReports g h).still = s.still := by
  unfold State.postWindowReports
  split <;> simp [State.postWindowReport]

@[simp] theorem State.still_closeWindow (g : Nat) : (s.closeWindow g).still = s.still := by
  unfold State.closeWindow
  extract_lets h judged told
  have : told.still = s.still := by
    simp only [told]
    split <;> simp [judged]
  simp [this]

@[simp] theorem State.still_healthWindowClose (g : Nat) : (s.healthWindowClose g).still = s.still := by
  unfold State.healthWindowClose
  split <;> simp

/-! ### Slots -/

@[simp] theorem State.still_recycle (g : Nat) : (s.recycle g).still = s.still := by
  unfold State.recycle
  extract_lets base k unpinned emptied sent
  simp [sent, emptied, unpinned]

@[simp] theorem State.still_advancePlayBase (g : Nat) : ∀ (n : Nat) (s : State), (s.advancePlayBase g n).still = s.still
  | 0, _ => rfl
  | n + 1, s => by
    unfold State.advancePlayBase
    split
    · rw [State.still_advancePlayBase g n, State.still_recycle]
    · rfl

@[simp] theorem State.still_releaseSlot (g k : Nat) : (s.releaseSlot g k).still = s.still := by
  simp [State.releaseSlot]

@[simp] theorem State.still_reportLate (g k : Nat) : (s.reportLate g k).still = s.still := by
  unfold State.reportLate
  split <;> simp

@[simp] theorem State.still_partRelease (g k : Nat) : (s.partRelease g k).still = s.still := by
  simp [State.partRelease]

@[simp] theorem State.still_forcedRelease (g k : Nat) : (s.forcedRelease g k).still = s.still := by
  unfold State.forcedRelease
  split <;> simp

@[simp] theorem State.still_becomeReady (g k : Nat) : (s.becomeReady g k).still = s.still := by
  simp [State.becomeReady]

@[simp] theorem State.still_jobLeaves (g k : Nat) : (s.jobLeaves g k).still = s.still := by
  unfold State.jobLeaves
  extract_lets fewer
  split <;> simp [fewer]

@[simp] theorem State.still_jobCompleted (g n : Nat) : (s.jobCompleted g n).still = s.still := by
  unfold State.jobCompleted
  split <;> simp

@[simp] theorem State.still_jobCancelled (g n c b : Nat) : (s.jobCancelled g n c b).still = s.still := by
  unfold State.jobCancelled
  split
  · extract_lets k cut entrySent countsSent
    simp [countsSent, entrySent, cut]
  · rfl

@[simp] theorem State.still_deadlineJob (j : BlendJob) : (s.deadlineJob j).still = s.still := by
  simp [State.deadlineJob]

@[simp] theorem State.still_blendDeadline : s.blendDeadline.still = s.still := by
  unfold State.blendDeadline
  split
  · exact foldl_keeps State.still _ (fun t j => t.still_deadlineJob j) _ _
  · rfl

/-! ### Resolution -/

@[simp] theorem State.still_beginBlend (g n k : Nat) (t o : Entry) : (s.beginBlend g n k t o).still = s.still := by
  unfold State.beginBlend
  extract_lets x gr
  split
  · rfl
  · simp

@[simp] theorem State.still_serveEntry (g n k : Nat) (r : Role) (e : Entry) (u : Option Entry) :
    (s.serveEntry g n k r e u).still = s.still := by
  unfold State.serveEntry
  simp

@[simp] theorem State.still_applyChoice (g n k : Nat) (c : Choice) : (s.applyChoice g n k c).still = s.still := by
  unfold State.applyChoice
  split <;> simp

@[simp] theorem State.still_resolveChannel (g n k : Nat) : (s.resolveChannel g n k).still = s.still := by
  simp [State.resolveChannel]

@[simp] theorem State.still_releaseOverdue (g n k : Nat) : (s.releaseOverdue g n k).still = s.still := by
  unfold State.releaseOverdue
  split <;> simp

@[simp] theorem State.still_clearRing (g n : Nat) : (s.clearRing g n).still = s.still :=
  foldl_keeps State.still _ (fun t _ => t.still_releaseOverdue g n _) _ _

@[simp] theorem State.still_resolveGroup (g n : Nat) : (s.resolveGroup g n).still = s.still := by
  unfold State.resolveGroup
  extract_lets cleared opened
  simp only [State.sendRecord, State.still_sendSlotWrite]
  rw [foldl_keeps State.still _ (fun t k => t.still_resolveChannel g n k)]
  simp [opened, cleared]

@[simp] theorem State.still_sampleLead (g : Nat) (r : Rig) (l : Option Nat) : (s.sampleLead g r l).still = s.still := by
  unfold State.sampleLead
  split <;> simp

@[simp] theorem State.still_sampleMissIf (g : Nat) (r : Role) (b : Bool) : (s.sampleMissIf g r b).still = s.still := by
  unfold State.sampleMissIf
  split <;> simp

@[simp] theorem State.still_sendSamples (b : State) (g n : Nat) : (s.sendSamples b g n).still = s.still := by
  simp [State.sendSamples]

@[simp] theorem State.still_reportFadeEnd (b : State) (g n : Nat) : (s.reportFadeEnd b g n).still = s.still := by
  unfold State.reportFadeEnd
  split <;> simp

/-- A resolution raises ResolveFront by 1 and keeps the backdrop (R98). -/
@[simp] theorem State.still_resolve : s.resolve.still = (s.backdrop, s.resolver.resolveFront + 1) := by
  unfold State.resolve
  extract_lets n gs chosen sampled
  rw [foldl_keeps State.still _ (fun t g => t.still_reportFadeEnd s g n)]
  simp only [sampled]
  rw [foldl_keeps State.still _ (fun t g => t.still_sendSamples s g n)]
  have h : (gs.foldl (fun t g => t.resolveGroup g n) s).still = s.still :=
    foldl_keeps State.still _ (fun t g => t.still_resolveGroup g n) gs s
  have hb := congrArg Prod.fst h
  simp only [State.still] at hb
  show (((gs.foldl (fun t g => t.resolveGroup g n) s)).backdrop, n + 1) = _
  rw [hb]

theorem State.still_resolveMany : ∀ (k : Nat) (s : State),
    (s.resolveMany k).still = (s.backdrop, s.resolver.resolveFront + k)
  | 0, _ => rfl
  | k + 1, s => by
    have h := s.still_resolve
    have hb : s.resolve.backdrop = s.backdrop := congrArg Prod.fst h
    have hf : s.resolve.resolver.resolveFront = s.resolver.resolveFront + 1 := congrArg Prod.snd h
    rw [State.resolveMany, State.still_resolveMany k, hb, hf, Nat.add_right_comm, Nat.add_assoc]

/-! ### Lanes and contexts at a period event -/

@[simp] theorem State.still_setLane (k : Nat) (r : Rig) (l : Nat) (v : Lane) : (s.setLane k r l v).still = s.still := rfl

@[simp] theorem State.still_reportOutcome (k : Nat) (r : Rig) (o : LaneOutcome) :
    (s.reportOutcome k r o).still = s.still := by
  simp [State.reportOutcome]

@[simp] theorem State.still_settleBlock (k : Nat) (r : Rig) (ln : Lane) (o : LaneOutcome) :
    (s.settleBlock k r ln o).still = s.still := by
  cases o <;> rfl

@[simp] theorem State.still_closeLane (k : Nat) (r : Rig) (l : Nat) (o : LaneOutcome) :
    (s.closeLane k r l o).still = s.still := by
  simp [State.closeLane]

@[simp] theorem State.still_laneStale (c : Nat) (r : Rig) (l : Nat) : (s.laneStale c r l).still = s.still := by
  unfold State.laneStale
  repeat' split
  all_goals simp

@[simp] theorem State.still_streamingExpiry (c : Nat) : (s.streamingExpiry c).still = s.still := by
  unfold State.streamingExpiry
  repeat' split
  all_goals simp

@[simp] theorem State.still_doWork (w : PeriodWork) : (s.doWork w).still = s.still := by
  cases w <;> simp [State.doWork]

@[simp] theorem State.still_doWorks (ws : List PeriodWork) : (s.doWorks ws).still = s.still :=
  foldl_keeps State.still _ (fun t w => t.still_doWork w) ws s

end

/-! ### Period events and the start event -/

/-- The backdrop without the Status Writer's state, which a status request changes. -/
def State.scene (s : State) : Backdrop := { s.backdrop with sup := { s.sup with status := ⟨0, none, false⟩ } }

theorem State.scene_of_still {s t : State} (h : t.still = s.still) : t.scene = s.scene := by
  have hb : t.backdrop = s.backdrop := congrArg Prod.fst h
  have hs : t.sup = s.sup := congrArg Backdrop.sup hb
  simp only [State.scene, hb, hs]

theorem State.scene_requestStatus (s : State) : s.requestStatus.scene = s.scene := by
  unfold State.requestStatus
  repeat' split
  all_goals rfl

theorem State.resolveFront_requestStatus (s : State) :
    s.requestStatus.resolver.resolveFront = s.resolver.resolveFront := by
  unfold State.requestStatus
  repeat' split
  all_goals rfl

/-- A period event raises Period, clears the guard, raises ResolveFront, and keeps the rest of the scene (R9, R14, R98). -/
theorem State.scene_periodEvent (s : State) (early : List PeriodWork) :
    (s.periodEvent early).scene = s.raisePeriod.scene := by
  have h : (s.raisePeriod.doWorks early).resolve.still =
      ((s.raisePeriod.doWorks early).backdrop, (s.raisePeriod.doWorks early).resolver.resolveFront + 1) :=
    State.still_resolve _
  have hb : (s.raisePeriod.doWorks early).resolve.backdrop = s.raisePeriod.backdrop :=
    (congrArg Prod.fst h).trans (congrArg Prod.fst (State.still_doWorks _ early))
  have hs : (s.raisePeriod.doWorks early).resolve.sup = s.raisePeriod.sup := congrArg Backdrop.sup hb
  rw [State.periodEvent, State.scene_requestStatus]
  simp only [State.scene, hb, hs]

theorem State.resolveFront_periodEvent (s : State) (early : List PeriodWork) :
    (s.periodEvent early).resolver.resolveFront = s.resolver.resolveFront + 1 := by
  have h := State.still_resolve (s.raisePeriod.doWorks early)
  have hf : (s.raisePeriod.doWorks early).resolve.resolver.resolveFront =
      (s.raisePeriod.doWorks early).resolver.resolveFront + 1 := congrArg Prod.snd h
  have hw : (s.raisePeriod.doWorks early).resolver.resolveFront = s.raisePeriod.resolver.resolveFront :=
    congrArg Prod.snd (State.still_doWorks s.raisePeriod early)
  rw [State.periodEvent, State.resolveFront_requestStatus, hf, hw]
  rfl

theorem State.part_periodEvent (s : State) (early : List PeriodWork) :
    (s.periodEvent early).part = { s.part with period := s.part.period + 1, startGuard := false } :=
  congrArg Backdrop.part (s.scene_periodEvent early)

theorem State.clock_periodEvent (s : State) (early : List PeriodWork) : (s.periodEvent early).clock = s.clock :=
  congrArg Backdrop.clock (s.scene_periodEvent early)

theorem State.timer_periodEvent (s : State) (early : List PeriodWork) : (s.periodEvent early).timer = s.timer :=
  congrArg Backdrop.timer (s.scene_periodEvent early)

theorem State.mem_periodEvent (s : State) (early : List PeriodWork) : (s.periodEvent early).mem = s.mem :=
  congrArg Backdrop.mem (s.scene_periodEvent early)

/-- A beat changes nothing of the Clock Monitor. -/
@[simp] theorem State.clock_deliverBeat (s : State) (n : Nat) (early : List PeriodWork) :
    (s.deliverBeat n early).clock = s.clock := by
  unfold State.deliverBeat
  repeat' split
  all_goals simp [State.clock_periodEvent]

@[simp] theorem State.timer_deliverBeat (s : State) (n : Nat) (early : List PeriodWork) :
    (s.deliverBeat n early).timer = s.timer := by
  unfold State.deliverBeat
  repeat' split
  all_goals simp [State.timer_periodEvent]

@[simp] theorem State.mem_deliverBeat (s : State) (n : Nat) (early : List PeriodWork) :
    (s.deliverBeat n early).mem = s.mem := by
  unfold State.deliverBeat
  repeat' split
  all_goals simp [State.mem_periodEvent]

end Sys2Proof.Machine
end

