-- ==== Sys2Proof/Laws/Tables.lean ====
section
/-! SUPPORT. Sparse tables: reading after writing, and the canonical form. -/

namespace Sys2Proof.Machine

variable {α : Type}

@[simp] theorem Table.get_nil (d : α) (k : Nat) : Table.get d [] k = d := rfl

theorem Table.get_erase (d : α) (t : Table α) (k j : Nat) :
    Table.get d (Table.erase t k) j = if j = k then d else Table.get d t j := by
  induction t with
  | nil => simp [Table.erase]
  | cons e t ih =>
    unfold Table.erase at ih ⊢
    by_cases he : e.1 = k
    · rw [List.filter_cons_of_neg (by simp [he])]
      rw [ih]
      by_cases hj : j = k
      · simp [hj]
      · simp [hj, Table.get, he]
    · rw [List.filter_cons_of_pos (by simp [he])]
      simp only [Table.get]
      by_cases hj : j = e.1
      · have : ¬ j = k := by rw [hj]; exact he
        simp [hj, he]
      · simp only [hj, if_false]; exact ih

theorem Table.get_insert (d : α) (t : Table α) (k j : Nat) (v : α) (h : ∀ e ∈ t, e.1 ≠ k) :
    Table.get d (Table.insert k v t) j = if j = k then v else Table.get d t j := by
  induction t with
  | nil => simp [Table.insert, Table.get]
  | cons e t ih =>
    obtain ⟨k', v'⟩ := e
    have hk : k' ≠ k := h (k', v') (by simp)
    have ht : ∀ e ∈ t, e.1 ≠ k := fun e he => h e (by simp [he])
    unfold Table.insert
    by_cases hlt : k < k'
    · simp only [hlt, if_true, Table.get]
    · simp only [hlt, if_false, Table.get]
      by_cases hj : j = k'
      · simp [hj, hk]
      · simp only [hj, if_false]; exact ih ht

theorem Table.erase_ne (t : Table α) (k : Nat) : ∀ e ∈ Table.erase t k, e.1 ≠ k := by
  intro e he
  simp [Table.erase] at he
  exact he.2

/-- Reading after writing. -/
theorem Table.get_set [DecidableEq α] (d : α) (t : Table α) (k j : Nat) (v : α) :
    Table.get d (Table.set d t k v) j = if j = k then v else Table.get d t j := by
  unfold Table.set
  by_cases hv : v = d
  · simp only [hv, if_true]; exact Table.get_erase d t k j
  · simp only [hv, if_false]
    rw [Table.get_insert d _ k j v (Table.erase_ne t k), Table.get_erase]
    by_cases hj : j = k <;> simp [hj]

@[simp] theorem Table.get_set_self [DecidableEq α] (d : α) (t : Table α) (k : Nat) (v : α) :
    Table.get d (Table.set d t k v) k = v := by simp [Table.get_set]

theorem Table.get_set_of_ne [DecidableEq α] (d : α) (t : Table α) {k j : Nat} (v : α) (h : j ≠ k) :
    Table.get d (Table.set d t k v) j = Table.get d t j := by simp [Table.get_set, h]

/-! ### The canonical form -/

theorem Table.wf_nil [DecidableEq α] (d : α) : Table.wf d ([] : Table α) := by simp [Table.wf]

theorem Table.wf_filter [DecidableEq α] (d : α) {t : Table α} (p : Nat × α → Bool) (h : Table.wf d t) :
    Table.wf d (t.filter p) :=
  ⟨h.1.filter p, fun e he => h.2 e (List.mem_filter.mp he).1⟩

theorem Table.mem_insert (k : Nat) (v : α) (t : Table α) (e : Nat × α) :
    e ∈ Table.insert k v t ↔ e = (k, v) ∨ e ∈ t := by
  induction t with
  | nil => simp [Table.insert]
  | cons e' t ih =>
    obtain ⟨k', v'⟩ := e'
    unfold Table.insert
    by_cases h : k < k'
    · simp [h]
    · simp only [h, if_false, List.mem_cons, ih]
      constructor
      · rintro (h | h | h)
        · exact .inr (.inl h)
        · exact .inl h
        · exact .inr (.inr h)
      · rintro (h | h | h)
        · exact .inr (.inl h)
        · exact .inl h
        · exact .inr (.inr h)

theorem Table.insert_sorted (k : Nat) (v : α) (t : Table α) (h : t.Pairwise (fun a b => a.1 < b.1))
    (hk : ∀ e ∈ t, e.1 ≠ k) : (Table.insert k v t).Pairwise (fun a b => a.1 < b.1) := by
  induction t with
  | nil => simp [Table.insert]
  | cons e t ih =>
    obtain ⟨k', v'⟩ := e
    rw [List.pairwise_cons] at h
    have hk' : k' ≠ k := hk (k', v') (by simp)
    unfold Table.insert
    by_cases hlt : k < k'
    · simp only [hlt, if_true, List.pairwise_cons]
      refine ⟨?_, h.1, h.2⟩
      intro e he
      rcases List.mem_cons.mp he with rfl | he
      · exact hlt
      · exact Nat.lt_trans hlt (h.1 e he)
    · simp only [hlt, if_false, List.pairwise_cons]
      refine ⟨?_, ih h.2 (fun e he => hk e (by simp [he]))⟩
      intro e he
      rcases (Table.mem_insert k v t e).mp he with rfl | he
      · show k' < k
        omega
      · exact h.1 e he

/-- Writing an entry keeps the canonical form. -/
theorem Table.wf_set [DecidableEq α] (d : α) {t : Table α} (k : Nat) (v : α) (h : Table.wf d t) :
    Table.wf d (Table.set d t k v) := by
  unfold Table.set
  by_cases hv : v = d
  · simp only [hv, if_true]; exact Table.wf_filter d _ h
  · simp only [hv, if_false]
    have he : Table.wf d (Table.erase t k) := Table.wf_filter d _ h
    refine ⟨Table.insert_sorted k v _ he.1 (Table.erase_ne t k), ?_⟩
    intro e hm
    rcases (Table.mem_insert k v _ e).mp hm with rfl | hm
    · exact hv
    · exact he.2 e hm

theorem Table.wf_map [DecidableEq α] (d : α) (f : α → α) (t : Table α) : Table.wf d (Table.map d f t) := by
  induction t with
  | nil => exact Table.wf_nil d
  | cons e t ih => exact Table.wf_set d _ _ ih

end Sys2Proof.Machine
end

