-- ==== Sys2Proof/Laws/Memory.lean ====
section
/-! SUPPORT. DRAM: what each write leaves in every byte, and that it keeps the canonical form. -/

namespace Sys2Proof.Machine

/-! ### Reading one byte after a write -/

theorem readByte_writeByte (m : Memory) (a x : Nat) (b : Byte) :
    readByte (writeByte m a b) x = if x = a then b else readByte m x := Table.get_set _ _ _ _ _

theorem readByte_writeByte_of_ne (m : Memory) {a x : Nat} (b : Byte) (h : x ≠ a) :
    readByte (writeByte m a b) x = readByte m x := by simp [readByte_writeByte, h]

/-- A byte outside the word keeps its value. -/
theorem readByte_writeWord_of_outside (m : Memory) {a x : Nat} (w : Word) (h : x < a ∨ a + 4 ≤ x) :
    readByte (writeWord m a w) x = readByte m x := by
  unfold writeWord
  rw [readByte_writeByte_of_ne _ _ (by omega), readByte_writeByte_of_ne _ _ (by omega),
    readByte_writeByte_of_ne _ _ (by omega), readByte_writeByte_of_ne _ _ (by omega)]

/-- Byte `i` of the word written. -/
theorem readByte_writeWord_inside (m : Memory) (a : Nat) (w : Word) {i : Nat} (h : i < 4) :
    readByte (writeWord m a w) (a + i) = wordByte w i := by
  unfold writeWord
  have : i = 0 ∨ i = 1 ∨ i = 2 ∨ i = 3 := by omega
  rcases this with rfl | rfl | rfl | rfl <;> simp [readByte_writeByte]

/-- The word written is the word read. -/
theorem readWord_writeWord (m : Memory) (a : Nat) (w : Word) : readWord (writeWord m a w) a = w := by
  unfold readWord
  have h0 : readByte (writeWord m a w) a = wordByte w 0 := readByte_writeWord_inside m a w (i := 0) (by omega)
  rw [readByte_writeWord_inside m a w (i := 3) (by omega), readByte_writeWord_inside m a w (i := 2) (by omega),
    readByte_writeWord_inside m a w (i := 1) (by omega), h0]
  unfold wordByte
  ext i hi
  simp only [BitVec.getElem_append, BitVec.getElem_setWidth, BitVec.getLsbD_ushiftRight]
  split
  · rw [show 8 * 0 + i = i by omega, BitVec.getLsbD_eq_getElem hi]
  · split
    · rw [show 8 * 1 + (i - 8) = i by omega, BitVec.getLsbD_eq_getElem hi]
    · split
      · rw [show 8 * 2 + (i - 8 - 8) = i by omega, BitVec.getLsbD_eq_getElem hi]
      · rw [show 8 * 3 + (i - 8 - 8 - 8) = i by omega, BitVec.getLsbD_eq_getElem hi]

/-- A byte outside the words written keeps its value. -/
theorem readByte_writeWords_of_outside (ws : List Word) :
    ∀ (m : Memory) (a : Nat) {x : Nat}, x < a ∨ a + 4 * ws.length ≤ x →
      readByte (writeWords m a ws) x = readByte m x := by
  induction ws with
  | nil => intros; rfl
  | cons w ws ih =>
    intro m a x h
    simp only [List.length_cons] at h
    unfold writeWords
    rw [ih _ _ (by omega), readByte_writeWord_of_outside _ _ (by omega)]

theorem readByte_writeEnabledByte_of_ne (m : Memory) {a x : Nat} (w : Word) (en : Enables) (i : Nat) (h : x ≠ a + i) :
    readByte (writeEnabledByte m a w en i) x = readByte m x := by
  unfold writeEnabledByte
  split
  · exact readByte_writeByte_of_ne _ _ h
  · rfl

/-- A byte outside the word keeps its value under a pass-through write. -/
theorem readByte_writeEnabled_of_outside (m : Memory) {a x : Nat} (w : Word) (en : Enables) (h : x < a ∨ a + 4 ≤ x) :
    readByte (writeEnabled m a w en) x = readByte m x := by
  unfold writeEnabled
  rw [readByte_writeEnabledByte_of_ne _ _ _ _ (by omega), readByte_writeEnabledByte_of_ne _ _ _ _ (by omega),
    readByte_writeEnabledByte_of_ne _ _ _ _ (by omega), readByte_writeEnabledByte_of_ne _ _ _ _ (by omega)]

theorem readByte_writeEnabledByte (m : Memory) (a x : Nat) (w : Word) (en : Enables) (i : Nat) :
    readByte (writeEnabledByte m a w en i) x = if en.getLsbD i ∧ x = a + i then wordByte w i else readByte m x := by
  unfold writeEnabledByte
  by_cases he : en.getLsbD i
  · simp [he, readByte_writeByte]
  · simp [he]

/-- A pass-through write changes exactly the bytes whose enables are set (R156). -/
theorem readByte_writeEnabled_inside (m : Memory) (a : Nat) (w : Word) (en : Enables) {i : Nat} (h : i < 4) :
    readByte (writeEnabled m a w en) (a + i) = if en.getLsbD i then wordByte w i else readByte m (a + i) := by
  have : i = 0 ∨ i = 1 ∨ i = 2 ∨ i = 3 := by omega
  unfold writeEnabled
  rcases this with rfl | rfl | rfl | rfl <;> simp [readByte_writeEnabledByte]

/-! ### The canonical form -/

theorem Memory.wf_nil : Memory.wf [] := Table.wf_nil _

theorem Memory.wf_writeByte {m : Memory} (a : Nat) (b : Byte) (h : m.wf) : (writeByte m a b).wf := Table.wf_set _ _ _ h

theorem Memory.wf_writeWord {m : Memory} (a : Nat) (w : Word) (h : m.wf) : (writeWord m a w).wf :=
  Memory.wf_writeByte _ _ (Memory.wf_writeByte _ _ (Memory.wf_writeByte _ _ (Memory.wf_writeByte _ _ h)))

theorem Memory.wf_writeEnabledByte {m : Memory} (a : Nat) (w : Word) (en : Enables) (i : Nat) (h : m.wf) :
    (writeEnabledByte m a w en i).wf := by
  unfold writeEnabledByte
  split
  · exact Memory.wf_writeByte _ _ h
  · exact h

theorem Memory.wf_writeEnabled {m : Memory} (a : Nat) (w : Word) (en : Enables) (h : m.wf) :
    (writeEnabled m a w en).wf :=
  Memory.wf_writeEnabledByte _ _ _ _ (Memory.wf_writeEnabledByte _ _ _ _ (Memory.wf_writeEnabledByte _ _ _ _
    (Memory.wf_writeEnabledByte _ _ _ _ h)))

theorem Memory.wf_writeWords (ws : List Word) : ∀ {m : Memory} (a : Nat), m.wf → (writeWords m a ws).wf := by
  induction ws with
  | nil => intro m a h; exact h
  | cons w ws ih => intro m a h; exact ih _ (Memory.wf_writeWord _ _ h)

theorem Memory.wf_zeroFill {m : Memory} (a len : Nat) (h : m.wf) : (zeroFill m a len).wf := Table.wf_filter _ _ h

theorem Memory.wf_takeWrites (ws : List (Nat × List Word)) : ∀ {m : Memory}, m.wf → (takeWrites m ws).wf := by
  induction ws with
  | nil => intro m h; exact h
  | cons w ws ih => intro m h; exact ih (Memory.wf_writeWords _ _ h)

theorem Memory.wf_landFirst (ws : List (Nat × List Word)) {m : Memory} (n : Nat) (h : m.wf) : (landFirst m n ws).wf :=
  Memory.wf_takeWrites _ h

theorem Memory.wf_writeEmptyHeaders {m : Memory} (base lo hi n : Nat) (h : m.wf) :
    (writeEmptyHeaders m base lo hi n).wf := by
  induction n with
  | zero => exact h
  | succ n ih => exact Memory.wf_writeWords _ _ ih

theorem Memory.wf_writeEmptyRange {m : Memory} (base lo hi : Nat) (h : m.wf) : (writeEmptyRange m base lo hi).wf :=
  Memory.wf_writeEmptyHeaders _ _ _ _ (Memory.wf_zeroFill _ _ h)

theorem Memory.wf_landTake {m : Memory} (a : Anchor) (x : Landed) (z d l : Nat) (h : m.wf) : (landTake m a x z d l).wf :=
  Memory.wf_writeEmptyRange _ _ _ (Memory.wf_zeroFill _ _ (Memory.wf_zeroFill _ _ h))

/-! ### Words taken one after another (R162) -/

theorem writeWords_append (m : Memory) (a : Nat) (xs ys : List Word) :
    writeWords m a (xs ++ ys) = writeWords (writeWords m a xs) (a + 4 * xs.length) ys := by
  induction xs generalizing m a with
  | nil => rfl
  | cons x xs ih =>
    rw [List.cons_append, writeWords, ih, writeWords, List.length_cons]
    congr 1
    omega

theorem takeWrites_firstWords_zero (ws : List (Nat × List Word)) : ∀ m, takeWrites m (firstWords 0 ws) = m := by
  induction ws with
  | nil => intro m; rfl
  | cons w ws ih =>
    intro m
    rw [firstWords, takeWrites, List.take_zero, writeWords, Nat.zero_sub]
    exact ih m

theorem afterWords_zero (ws : List (Nat × List Word)) : afterWords 0 ws = ws := by
  induction ws with
  | nil => rfl
  | cons w ws ih => rw [afterWords, Nat.zero_min, List.drop_zero, Nat.zero_sub, ih]; rfl

/-- The first words of a list of writes, and then the rest, leave what the whole list leaves. -/
theorem takeWrites_split (ws : List (Nat × List Word)) : ∀ (n : Nat) (m : Memory),
    takeWrites (landFirst m n ws) (afterWords n ws) = takeWrites m ws := by
  induction ws with
  | nil => intro n m; rfl
  | cons w ws ih =>
    intro n m
    rw [landFirst, firstWords, takeWrites, afterWords, takeWrites, takeWrites]
    by_cases h : n ≤ w.2.length
    · rw [Nat.sub_eq_zero_of_le h, takeWrites_firstWords_zero, afterWords_zero]
      congr 1
      show writeWords (writeWords m w.1 (w.2.take n)) (w.1 + 4 * min n w.2.length) (w.2.drop n) = _
      have e := writeWords_append m w.1 (w.2.take n) (w.2.drop n)
      rw [List.take_append_drop, List.length_take] at e
      exact e.symm
    · have h' : w.2.length ≤ n := by omega
      rw [List.take_of_length_le h', List.drop_eq_nil_of_le h', writeWords]
      exact ih (n - w.2.length) (writeWords m w.1 w.2)

/-- Words taken in two parts leave the same rest as words taken at once. -/
theorem afterWords_add (ws : List (Nat × List Word)) : ∀ (n k : Nat),
    afterWords k (afterWords n ws) = afterWords (n + k) ws := by
  induction ws with
  | nil => intro n k; rfl
  | cons w ws ih =>
    intro n k
    rw [afterWords, afterWords, afterWords, ih]
    simp only [List.length_drop, List.drop_drop]
    congr 1
    · congr 1
      omega
    · congr 1
      omega

end Sys2Proof.Machine
end

