-- ==== Sys2Proof/Laws/Lookup.lean ====
section
/-! SUPPORT. What a part of the state reads as after an update of one of its kind: group, health, ring, slot, context, lane,
map entry, bucket. -/

namespace Sys2Proof.Machine

theorem PerRig.get_set {α : Type} (p : PerRig α) (r q : Rig) (v : α) :
    (p.set r v).get q = if q = r then v else p.get q := by
  cases r <;> cases q <;> rfl

theorem PerRig.set_get {α : Type} (p : PerRig α) (r : Rig) : p.set r (p.get r) = p := by
  cases r <;> rfl

theorem State.group_modifyGroup (s : State) (g h : Nat) (f : GroupRecord → GroupRecord) :
    (s.modifyGroup g f).group h = if h = g then f (s.group g) else s.group h :=
  Table.get_set _ _ _ _ _

theorem State.healthOf_modifyHealth (s : State) (g h : Nat) (f : GroupHealth → GroupHealth) :
    (s.modifyHealth g f).healthOf h = if h = g then f (s.healthOf g) else s.healthOf h :=
  Table.get_set _ _ _ _ _

theorem State.ring_modifyRing (s : State) (g h : Nat) (f : Ring → Ring) :
    (s.modifyRing g f).ring h = if h = g then f (s.ring g) else s.ring h :=
  Table.get_set _ _ _ _ _

theorem Ring.slot_modifySlot (x : Ring) (k j : Nat) (f : Slot → Slot) :
    (x.modifySlot k f).slot j = if j = k then f (x.slot k) else x.slot j :=
  Table.get_set _ _ _ _ _

theorem State.slot_modifyRing (s : State) (g h k : Nat) (f : Ring → Ring) :
    (s.modifyRing g f).slot h k = if h = g then (f (s.ring g)).slot k else s.slot h k := by
  simp only [State.slot, State.ring_modifyRing]
  split <;> rfl

theorem State.slot_modifySlot (s : State) (g h k j : Nat) (f : Slot → Slot) :
    (s.modifySlot g k f).slot h j = if h = g ∧ j = k then f (s.slot g k) else s.slot h j := by
  simp only [State.modifySlot, State.slot_modifyRing, Ring.slot_modifySlot]
  by_cases hg : h = g <;> by_cases hk : j = k <;> simp [hg, hk, State.slot]

theorem State.ring_modifySlot (s : State) (g h k : Nat) (f : Slot → Slot) :
    (s.modifySlot g k f).ring h = if h = g then (s.ring g).modifySlot k f else s.ring h :=
  s.ring_modifyRing g h _

theorem Cache.context_modifyContext (x : Cache) (k j : Nat) (f : Context → Context) :
    (x.modifyContext k f).context j = if j = k then f (x.context k) else x.context j :=
  Table.get_set _ _ _ _ _

theorem State.context_modifyContext (s : State) (k j : Nat) (f : Context → Context) :
    (s.modifyContext k f).context j = if j = k then f (s.context k) else s.context j :=
  Table.get_set _ _ _ _ _

theorem Context.lane_setLane (x : Context) (r q : Rig) (l j : Nat) (v : Lane) :
    (x.setLane r l v).lane q j = if q = r ∧ j = l then v else x.lane q j := by
  simp only [Context.setLane, Context.lane, PerRig.get_set]
  by_cases hq : q = r
  · subst hq
    simp [Table.get_set]
  · simp [hq]

theorem State.lane_setLane (s : State) (k i : Nat) (r q : Rig) (l j : Nat) (v : Lane) :
    (s.setLane k r l v).lane i q j = if i = k ∧ q = r ∧ j = l then v else s.lane i q j := by
  simp only [State.setLane, State.lane, State.context_modifyContext]
  by_cases hi : i = k
  · subst hi
    simp [Context.lane_setLane]
  · simp [hi]

theorem Cache.mapEntry_setMapEntry (x : Cache) (c d : Nat) (k : Option Nat) :
    (x.setMapEntry c k).mapEntry d = if d = c then k else x.mapEntry d :=
  Table.get_set _ _ _ _ _

theorem Pool.bucket_setBucket (p : Pool) (b c : Nat) (e : Bucket) :
    (p.setBucket b e).bucket c = if c = b then e else p.bucket c :=
  Table.get_set _ _ _ _ _

/-- Replacing an entry by what it holds already changes no entry. -/
theorem Table.get_set_same {α : Type} [DecidableEq α] (d : α) (t : Table α) (k j : Nat) :
    Table.get d (Table.set d t k (Table.get d t k)) j = Table.get d t j := by
  rw [Table.get_set]
  split
  · rename_i h; rw [h]
  · rfl

/-- A loop over distinct members, each changing only its own group. -/
theorem foldl_group (f : State → Nat → State) (step : GroupRecord → Nat → GroupRecord) (keeps : State → Prop)
    (hk : ∀ s g, keeps s → keeps (f s g))
    (hf : ∀ s g h, keeps s → (f s g).group h = if h = g then step (s.group g) g else s.group h) :
    ∀ (ms : List Nat) (s : State), ms.Nodup → keeps s →
      ∀ h, (ms.foldl f s).group h = if h ∈ ms then step (s.group h) h else s.group h
  | [], _, _, _, _ => by simp
  | g :: ms, s, hn, hs, h => by
    rw [List.foldl_cons, foldl_group f step keeps hk hf ms (f s g) (List.nodup_cons.1 hn).2 (hk s g hs), hf s g h hs]
    by_cases hg : h = g
    · subst hg
      simp [(List.nodup_cons.1 hn).1]
    · simp [hg]

end Sys2Proof.Machine
end

