-- ==== Sys2Proof/Laws/Pool.lean ====
section
/-! SUPPORT. The Bucket Manager's claims: each keeps the laws of the pool. -/

namespace Sys2Proof.Machine

/-! ### Tables: membership and length -/

theorem Table.mem_set {α : Type} [DecidableEq α] (d : α) (t : Table α) (k : Nat) (v : α) (e : Nat × α) :
    e ∈ Table.set d t k v ↔ (e = (k, v) ∧ v ≠ d) ∨ (e ∈ t ∧ e.1 ≠ k) := by
  unfold Table.set
  by_cases hv : v = d
  · simp [hv, Table.erase]
  · simp only [hv, if_false, Table.mem_insert]
    simp [Table.erase, hv]

theorem Table.get_of_mem {α : Type} [DecidableEq α] (d : α) {t : Table α} (h : Table.wf d t) {e : Nat × α} (he : e ∈ t) :
    Table.get d t e.1 = e.2 := by
  obtain ⟨h1, h2⟩ := h
  induction t with
  | nil => cases he
  | cons e' t ih =>
    rw [List.pairwise_cons] at h1
    rcases List.mem_cons.mp he with rfl | he
    · simp [Table.get]
    · have := h1.1 e he
      have hne : ¬ e.1 = e'.1 := by omega
      simp only [Table.get, hne, if_false]
      exact ih he h1.2 (fun x hx => h2 x (by simp [hx]))

theorem Table.get_of_not_mem {α : Type} (d : α) (t : Table α) (k : Nat) (h : ∀ e ∈ t, e.1 ≠ k) : Table.get d t k = d := by
  induction t with
  | nil => rfl
  | cons e t ih =>
    have : ¬ k = e.1 := fun hk => h e (by simp) hk.symm
    simp only [Table.get, this, if_false]
    exact ih (fun x hx => h x (by simp [hx]))

theorem Table.mem_of_get {α : Type} (d : α) (t : Table α) (k : Nat) (h : Table.get d t k ≠ d) :
    (k, Table.get d t k) ∈ t := by
  induction t with
  | nil => simp at h
  | cons e t ih =>
    obtain ⟨k', v'⟩ := e
    simp only [Table.get] at h ⊢
    by_cases hk : k = k'
    · simp [hk]
    · simp only [hk, if_false] at h ⊢
      exact List.mem_cons_of_mem _ (ih h)

theorem Table.length_insert {α : Type} (k : Nat) (v : α) (t : Table α) : (Table.insert k v t).length = t.length + 1 := by
  induction t with
  | nil => rfl
  | cons e t ih =>
    unfold Table.insert
    split <;> simp [ih]

theorem Table.erase_of_not_mem {α : Type} (t : Table α) (k : Nat) (h : ∀ e ∈ t, e.1 ≠ k) : Table.erase t k = t := by
  unfold Table.erase
  exact List.filter_eq_self.mpr (fun e he => by simpa using h e he)

theorem Table.length_erase_of_mem {α : Type} [DecidableEq α] (d : α) {t : Table α} (h : Table.wf d t) {e : Nat × α}
    (he : e ∈ t) : (Table.erase t e.1).length + 1 = t.length := by
  obtain ⟨h1, h2⟩ := h
  induction t with
  | nil => cases he
  | cons e' t ih =>
    rw [List.pairwise_cons] at h1
    by_cases hk : e'.1 = e.1
    · have hn : ∀ x ∈ t, x.1 ≠ e.1 := fun x hx => by have := h1.1 x hx; omega
      have hf : t.filter (fun x => x.1 != e.1) = t := Table.erase_of_not_mem t e.1 hn
      unfold Table.erase
      rw [List.filter_cons_of_neg (by simp [hk]), hf]; simp
    · have hm : e ∈ t := by
        rcases List.mem_cons.mp he with rfl | he
        · exact absurd rfl hk
        · exact he
      have := ih hm h1.2 (fun x hx => h2 x (by simp [hx]))
      unfold Table.erase at this ⊢
      rw [List.filter_cons_of_pos (by simp [hk])]
      simpa using this

/-! ### Entries -/

theorem Pool.mem_bucket (p : Pool) {b : Nat} (hb : (p.bucket b).state ≠ .free) :
    (b, p.bucket b) ∈ p.table := by
  apply Table.mem_of_get
  intro heq
  exact hb (by show (Table.get Bucket.initial p.table b).state = .free; rw [heq]; rfl)

/-- A bucket in use changes its entry and stays in use. -/
theorem Pool.Law.setInUse {p : Pool} (h : p.Law) {b : Nat} {e : Bucket} (hb : (p.bucket b).state ≠ .free)
    (hs : e.state ≠ .free) (hc : e.charged = (p.bucket b).charged) (hp : e.state = .held ↔ 0 < e.pinCount) :
    (p.setBucket b e).Law := by
  have hm := p.mem_bucket hb
  have hne : e ≠ Bucket.initial := fun he => hs (by rw [he]; rfl)
  have hlen : (Table.set Bucket.initial p.table b e).length = p.table.length := by
    have := Table.length_erase_of_mem Bucket.initial h.canonical hm
    simp only [Table.set, hne, if_false, Table.length_insert]
    exact this
  refine ⟨Table.wf_set _ _ _ h.canonical, ?_, ?_, h.nodup, ?_, ?_⟩
  · intro x hx
    rcases (Table.mem_set _ _ _ _ _).mp hx with ⟨rfl, _⟩ | ⟨hx, _⟩
    · exact h.inRange (b, p.bucket b) hm
    · exact h.inRange _ hx
  · intro x hx
    rcases (Table.mem_set _ _ _ _ _).mp hx with ⟨rfl, _⟩ | ⟨hx, _⟩
    · exact ⟨hs, by show e.charged ≠ .none; rw [hc]; exact (h.inUse _ hm).2.1, hp⟩
    · exact h.inUse _ hx
  · intro c
    show c ∈ p.freeList ↔ 0 < c ∧ c < p.buckets ∧ _
    rw [h.free c, Pool.bucket_setBucket]
    by_cases hcb : c = b
    · subst hcb; simp [hb, hs]
    · simp [hcb]
  · show p.freeList.length + _ = p.buckets - 1
    have := h.count
    unfold Pool.setBucket; simp only; omega

/-- The head of the free list comes into use. -/
theorem Pool.Law.allocate {p : Pool} (h : p.Law) (c : Charge) (st : BucketState) (pins : Nat) (hs : st ≠ .free)
    (hc : c ≠ .none) (hp : st = .held ↔ 0 < pins) : (p.allocate c st pins).2.Law := by
  unfold Pool.allocate
  split
  · exact h
  · rename_i b rest hl
    have hb : b ∈ p.freeList := by rw [hl]; simp
    obtain ⟨hb0, hbn, hbf⟩ := (h.free b).mp hb
    have hnm : ∀ e ∈ p.table, e.1 ≠ b := by
      intro e he heb
      have := Table.get_of_mem _ h.canonical he
      rw [heb] at this
      exact (h.inUse e he).1 (by rw [← this]; exact hbf)
    have hnd := h.nodup
    rw [hl, List.nodup_cons] at hnd
    have hne : ({ state := st, pinCount := pins, charged := c } : Bucket) ≠ Bucket.initial :=
      fun he => hs (by have := congrArg Bucket.state he; exact this)
    refine ⟨Table.wf_set _ _ _ h.canonical, ?_, ?_, hnd.2, ?_, ?_⟩
    · intro x hx
      rcases (Table.mem_set _ _ _ _ _).mp hx with ⟨rfl, _⟩ | ⟨hx, _⟩
      · exact ⟨hb0, hbn⟩
      · exact h.inRange _ hx
    · intro x hx
      rcases (Table.mem_set _ _ _ _ _).mp hx with ⟨rfl, _⟩ | ⟨hx, _⟩
      · exact ⟨hs, hc, hp⟩
      · exact h.inUse _ hx
    · intro x
      show x ∈ rest ↔ 0 < x ∧ x < p.buckets ∧ ((p.setBucket b _).bucket x).state = .free
      rw [Pool.bucket_setBucket]
      by_cases hxb : x = b
      · subst hxb; simp [hs, hnd.1]
      · have := h.free x
        rw [hl, List.mem_cons] at this
        simp only [hxb, false_or, if_false] at this ⊢
        exact this
    · have hcount := h.count
      rw [hl] at hcount
      simp only [List.length_cons] at hcount
      simp only [Pool.setBucket, Table.set, hne, if_false, Table.length_insert, Table.erase_of_not_mem _ _ hnm]
      omega

/-- A bucket in use returns to the tail of the free list. -/
theorem Pool.Law.toFree {p : Pool} (h : p.Law) {b : Nat} (hb : (p.bucket b).state ≠ .free) : (p.toFree b).Law := by
  have hm := p.mem_bucket hb
  have hr := h.inRange _ hm
  have ht : (p.toFree b).table = Table.set Bucket.initial p.table b Bucket.initial := rfl
  refine ⟨by rw [ht]; exact Table.wf_set _ _ _ h.canonical, ?_, ?_, ?_, ?_, ?_⟩
  · intro x hx
    rw [ht] at hx
    rcases (Table.mem_set _ _ _ _ _).mp hx with ⟨_, hn⟩ | ⟨hx, _⟩
    · exact absurd rfl hn
    · exact h.inRange _ hx
  · intro x hx
    rw [ht] at hx
    rcases (Table.mem_set _ _ _ _ _).mp hx with ⟨_, hn⟩ | ⟨hx, _⟩
    · exact absurd rfl hn
    · exact h.inUse _ hx
  · show (p.freeList ++ [b]).Nodup
    rw [List.nodup_append]
    refine ⟨h.nodup, by simp, ?_⟩
    intro a ha c hc hac
    simp only [List.mem_singleton] at hc
    subst hc; subst hac
    exact hb ((h.free a).mp ha).2.2
  · intro x
    show x ∈ p.freeList ++ [b] ↔ 0 < x ∧ x < p.buckets ∧ ((p.setBucket b Bucket.initial).bucket x).state = .free
    rw [Pool.bucket_setBucket, List.mem_append, List.mem_singleton, h.free x]
    by_cases hxb : x = b
    · subst hxb
      simp only [or_true, if_true, true_iff]
      exact ⟨hr.1, hr.2, rfl⟩
    · simp [hxb]
  · have hlen := Table.length_erase_of_mem Bucket.initial h.canonical hm
    have hcount := h.count
    show (p.freeList ++ [b]).length + (Table.set Bucket.initial p.table b Bucket.initial).length = p.buckets - 1
    simp only [Table.set, if_true, List.length_append, List.length_singleton]
    simp only at hlen
    omega

/-! ### The claims of R21 -/

theorem Pool.Law.retain {p : Pool} (h : p.Law) (b : Nat) : (p.retain b).Law := by
  unfold Pool.retain
  split
  · rename_i hs
    have hb : (p.bucket b).state ≠ .free := by rw [hs]; simp
    have hpin := (h.inUse _ (p.mem_bucket hb)).2.2
    simp only [hs] at hpin
    exact h.setInUse hb (by simp) rfl (by simpa using hpin)
  · exact h

theorem Pool.Law.claimFree {p : Pool} (h : p.Law) (b : Nat) : (p.free b).Law := by
  unfold Pool.free
  split
  · rename_i hs
    exact h.toFree (by rcases hs with hs | hs <;> rw [hs] <;> simp)
  · exact h

theorem Pool.Law.freeOpt {p : Pool} (h : p.Law) (b : Option Nat) : (p.freeOpt b).Law := by
  cases b with
  | none => exact h
  | some b => exact h.claimFree b

theorem Pool.Law.pin {p : Pool} (h : p.Law) (b : Nat) : (p.pin b).Law := by
  unfold Pool.pin
  split
  · rename_i hs
    exact h.setInUse (by rw [hs]; simp) (by simp) rfl (by simp)
  · split
    · rename_i hs
      exact h.setInUse (by rw [hs]; simp) (by simp [hs]) rfl (by simp [hs])
    · exact h

theorem Pool.Law.unpin {p : Pool} (h : p.Law) (b : Nat) : (p.unpin b).Law := by
  unfold Pool.unpin
  split
  · rename_i hs
    split
    · rename_i hp
      exact h.setInUse (by rw [hs]; simp) (by simp [hs]) rfl (by simp [hs]; omega)
    · exact h.toFree (by rw [hs]; simp)
  · exact h

theorem Pool.Law.unpinOpt {p : Pool} (h : p.Law) (b : Option Nat) : (p.unpinOpt b).Law := by
  cases b with
  | none => exact h
  | some b => exact h.unpin b

theorem Pool.Law.blendAllocate {p : Pool} (h : p.Law) : p.blendAllocate.2.Law := by
  unfold Pool.blendAllocate
  split
  · exact h.allocate _ _ _ (by simp) (by simp) (by simp)
  · exact h

theorem Pool.laneCharge_ne_none (p : Pool) (r : Rig) (t : Bool) {c : Charge} (h : p.laneCharge r t = some c) :
    c ≠ .none := by
  unfold Pool.laneCharge at h
  split at h
  · cases h; simp
  · split at h
    · cases h; simp
    · split at h
      · cases h; simp
      · cases h

theorem Pool.Law.laneAllocate {p : Pool} (h : p.Law) (r : Rig) (t : Bool) : (p.laneAllocate r t).2.Law := by
  unfold Pool.laneAllocate
  split
  · exact h
  · rename_i c hc
    have ha := h.allocate c .filling 0 (by simp) (p.laneCharge_ne_none r t hc) (by simp)
    split
    · rename_i q hq; rw [hq] at ha; exact ha
    · rename_i b q hq; rw [hq] at ha; exact ha

/-- The laws speak of the table, the free list and the size alone. -/
theorem Pool.Law.congr {p q : Pool} (h : p.Law) (ht : q.table = p.table) (hf : q.freeList = p.freeList)
    (hb : q.buckets = p.buckets) : q.Law := by
  refine ⟨by rw [ht]; exact h.canonical, by rw [ht, hb]; exact h.inRange, by rw [ht]; exact h.inUse,
    by rw [hf]; exact h.nodup, ?_, by rw [ht, hf, hb]; exact h.count⟩
  intro b
  have := h.free b
  unfold Pool.bucket at this ⊢
  rw [ht, hf, hb]; exact this

/-- A pool with every bucket FREE, the free list in ascending order (R33, R34). -/
theorem Pool.Law.fresh {p : Pool} (ht : p.table = []) (hf : p.freeList = List.range' 1 (p.buckets - 1)) : p.Law := by
  refine ⟨by rw [ht]; exact Table.wf_nil _, by rw [ht]; simp, by rw [ht]; simp, by rw [hf]; exact List.nodup_range', ?_,
    by rw [ht, hf]; simp⟩
  intro b
  unfold Pool.bucket
  rw [ht, hf, List.mem_range'_1]
  have : (Table.get Bucket.initial ([] : Table Bucket) b).state = .free := rfl
  simp only [this, and_true]
  omega

theorem Pool.Law.rebuild (p : Pool) : p.rebuild.Law := Pool.Law.fresh rfl rfl

theorem Pool.Law.initial : Pool.initial.Law := Pool.Law.fresh rfl rfl

theorem Pool.Law.build (a : Anchor) : (Pool.build a).Law := Pool.Law.fresh rfl rfl

end Sys2Proof.Machine
end

