-- ==== Sys2Proof/Laws/Invariant.lean ====
section
/-! SUPPORT. Each shared operation keeps the invariant of the block: DRAM canonical, the pool's laws. -/

namespace Sys2Proof.Machine

variable {s : State}

/-! ### How the invariant is kept -/

theorem State.Inv.congr (h : s.Inv) {t : State} (hm : t.mem = s.mem) (hp : t.pool = s.pool) : t.Inv := by
  unfold State.Inv; rw [hm, hp]; exact h

theorem State.Inv.claim (h : s.Inv) {f : Pool → Pool} (hf : (f s.pool).Law) : (s.claim f).Inv := ⟨h.1, hf⟩

theorem State.Inv.foldl {β : Type} {f : State → β → State} (hf : ∀ {t : State} (b : β), t.Inv → (f t b).Inv) :
    ∀ (l : List β) {s : State}, s.Inv → (l.foldl f s).Inv := by
  intro l
  induction l with
  | nil => intro s h; exact h
  | cons b l ih => intro s h; exact ih (hf b h)

theorem Pool.Law.foldl {β : Type} {f : Pool → β → Pool} (hf : ∀ {p : Pool} (b : β), p.Law → (f p b).Law) :
    ∀ (l : List β) {p : Pool}, p.Law → (l.foldl f p).Law := by
  intro l
  induction l with
  | nil => intro p h; exact h
  | cons b l ih => intro p h; exact ih (hf b h)

/-! ### Updates that touch neither DRAM nor the pool -/

theorem State.Inv.advance (h : s.Inv) (dt : Nat) : (s.advance dt).Inv := h.congr rfl rfl
theorem State.Inv.post (h : s.Inv) (g : Option Nat) (r : Option Rig) (b : NoticeBody) : (s.post g r b).Inv := h.congr rfl rfl
theorem State.Inv.modifyGroup (h : s.Inv) (g : Nat) (f : GroupRecord → GroupRecord) : (s.modifyGroup g f).Inv :=
  h.congr rfl rfl
theorem State.Inv.modifyHealth (h : s.Inv) (g : Nat) (f : GroupHealth → GroupHealth) : (s.modifyHealth g f).Inv :=
  h.congr rfl rfl
theorem State.Inv.modifyRing (h : s.Inv) (g : Nat) (f : Ring → Ring) : (s.modifyRing g f).Inv := h.congr rfl rfl
theorem State.Inv.modifySlot (h : s.Inv) (g k : Nat) (f : Slot → Slot) : (s.modifySlot g k f).Inv := h.congr rfl rfl
theorem State.Inv.modifyContext (h : s.Inv) (k : Nat) (f : Context → Context) : (s.modifyContext k f).Inv :=
  h.congr rfl rfl
theorem State.Inv.setTallies (h : s.Inv) : s.setTallies.Inv := h.congr rfl rfl
theorem State.Inv.sendSlotWrite (h : s.Inv) (kind : SlotWriteKind) (g k o : Nat) (ws : List Word) :
    (s.sendSlotWrite kind g k o ws).Inv := h.congr rfl rfl
theorem State.Inv.answerCommand (h : s.Inv) (r : ResultCode) (d : List Word) : (s.answerCommand r d).Inv := h.congr rfl rfl
theorem State.Inv.setLane (h : s.Inv) (k : Nat) (r : Rig) (l : Nat) (v : Lane) : (s.setLane k r l v).Inv := h.congr rfl rfl
theorem State.Inv.answerRig (h : s.Inv) (r : Rig) (a n : Nat) : (s.answerRig r a n).Inv := h.congr rfl rfl
theorem State.Inv.setPort (h : s.Inv) (r : Rig) (q : List RigRequest) : (s.setPort r q).Inv := h.congr rfl rfl
theorem State.Inv.setClock (h : s.Inv) (c : Clock) : (s.setClock c).Inv := h.congr rfl rfl
theorem State.Inv.modifyCommand (h : s.Inv) (f : CommandUnit → CommandUnit) : (s.modifyCommand f).Inv := h.congr rfl rfl
theorem State.Inv.modifySup (h : s.Inv) (f : Supervisor → Supervisor) : (s.modifySup f).Inv := h.congr rfl rfl

theorem State.Inv.requestStatus (h : s.Inv) : s.requestStatus.Inv := by
  unfold State.requestStatus
  split
  · exact h
  · split
    · exact h.congr rfl rfl
    · exact h.congr rfl rfl

theorem State.Inv.beginFollowUp (h : s.Inv) : s.beginFollowUp.Inv := by
  unfold State.beginFollowUp
  split
  · exact h
  · split
    · exact h.congr rfl rfl
    · exact h

/-! ### The Switchover Controller -/

theorem State.Inv.setWithheld (h : s.Inv) (ms : List Nat) (v : Bool) : (s.setWithheld ms v).Inv :=
  State.Inv.foldl (fun _ h => h.modifyGroup _ _) ms h

theorem State.Inv.switchMember (h : s.Inv) (r : Role) (fade : Bool) (c : SwitchCause) (g : Nat) :
    (s.switchMember r fade c g).Inv := by
  unfold State.switchMember
  dsimp only
  split
  · exact ((h.modifyGroup _ _).post _ _ _).post _ _ _
  · exact (h.modifyGroup _ _).post _ _ _

theorem State.Inv.switchSet (h : s.Inv) (ms : List Nat) (r : Role) (fade : Bool) (c : SwitchCause) :
    (s.switchSet ms r fade c).Inv :=
  ((State.Inv.foldl (fun _ h => h.switchMember _ _ _ _) ms h).setWithheld _ _).setTallies

theorem State.Inv.withhold (h : s.Inv) (ms : List Nat) (t : Nat) (r : Role) (w : WithheldReason) (m : Nat) :
    (s.withhold ms t r w m).Inv := by
  unfold State.withhold
  split
  · exact h
  · exact (h.post _ _ _).setWithheld _ _

theorem State.Inv.automaticSwitch (h : s.Inv) (ms : List Nat) (t : Nat) (r : Role) (c : SwitchCause) :
    (s.automaticSwitch ms t r c).Inv := by
  unfold State.automaticSwitch
  split
  · exact h.switchSet _ _ _ _
  · exact h.withhold _ _ _ _ _

theorem State.Inv.evaluate (h : s.Inv) (g : Nat) : (s.evaluate g).Inv := by
  unfold State.evaluate
  dsimp only
  split
  · exact h
  · split
    · split
      · exact h.automaticSwitch _ _ _ _
      · exact h.setWithheld _ _
    · split
      · exact h.automaticSwitch _ _ _ _
      · split
        · exact (h.setWithheld _ _).switchSet _ _ _ _
        · exact h.setWithheld _ _

theorem State.Inv.fadeEndReport (h : s.Inv) (g n : Nat) : (s.fadeEndReport g n).Inv := by
  unfold State.fadeEndReport
  split
  · exact ((h.modifyGroup _ _).post _ _ _).evaluate _
  · exact h

theorem State.Inv.cutMember (h : s.Inv) (r : Role) (c : SwitchCause) (g : Nat) : (s.cutMember r c g).Inv := by
  unfold State.cutMember
  split
  · exact h
  · split
    · exact (h.modifyGroup _ _).post _ _ _
    · exact h.switchMember _ _ _ _

theorem State.Inv.cutSet (h : s.Inv) (r : Role) (c : SwitchCause) (g : Nat) : (s.cutSet r c g).Inv := by
  have hc := State.Inv.foldl (f := fun t m => t.cutMember r c m) (fun _ h => h.cutMember _ _ _) (s.members g) h
  unfold State.cutSet
  dsimp only
  split
  · refine State.Inv.evaluate (State.Inv.setTallies ?_) g
    split
    · exact hc.setWithheld _ _
    · exact hc
  · refine State.Inv.setTallies ?_
    split
    · exact hc.setWithheld _ _
    · exact hc

theorem State.Inv.fadeSet (h : s.Inv) (r : Role) (g : Nat) : (s.fadeSet r g).Inv := by
  unfold State.fadeSet
  split
  · exact h
  · exact h.switchSet _ _ _ _

theorem State.Inv.takeoverSet (h : s.Inv) (g : Nat) : (s.takeoverSet g).Inv := by
  unfold State.takeoverSet
  split
  · exact h.switchSet _ _ _ _
  · exact h

/-! ### The Health Monitor -/

theorem State.Inv.sample (h : s.Inv) (r : Role) (g : Nat) (f : HealthRecord → HealthRecord) : (s.sample r g f).Inv := by
  unfold State.sample
  split
  · exact h.modifyHealth _ _
  · exact h

theorem State.Inv.sampleComparisons (h : s.Inv) (g a b : Nat) : (s.sampleComparisons g a b).Inv := by
  unfold State.sampleComparisons
  split
  · exact h.modifyHealth _ _
  · exact h

theorem State.Inv.postRigVerdict (h : s.Inv) (g : Nat) (r : Role) (o : RigVerdict) (t : Bool) :
    (s.postRigVerdict g r o t).Inv := by
  unfold State.postRigVerdict
  dsimp only
  split
  · exact h
  · exact h.post _ _ _

theorem State.Inv.postAgreement (h : s.Inv) (g : Nat) (o : AgreementVerdict) : (s.postAgreement g o).Inv := by
  unfold State.postAgreement
  dsimp only
  split
  · exact h
  · exact h.post _ _ _

theorem State.Inv.sampleMiss (h : s.Inv) (r : Role) (g : Nat) : (s.sampleMiss r g).Inv := by
  unfold State.sampleMiss
  dsimp only
  split
  · split
    · exact (h.modifyHealth _ _).postRigVerdict _ _ _ _
    · exact ((h.modifyHealth _ _).postRigVerdict _ _ _ _).evaluate _
  · exact h.sample _ _ _

theorem State.Inv.healthWindowClose (h : s.Inv) (g : Nat) : (s.healthWindowClose g).Inv := by
  unfold State.healthWindowClose
  split
  · unfold State.closeWindow
    dsimp only
    refine State.Inv.modifyHealth ?_ _ _
    have hj : ((s.modifyHealth g GroupHealth.judged).postVerdicts g (s.healthOf g)).Inv :=
      (((h.modifyHealth _ _).postRigVerdict _ _ _ _).postRigVerdict _ _ _ _).postAgreement _ _
    unfold State.postWindowReports
    split
    · refine State.Inv.post (State.Inv.post ?_ _ _ _) _ _ _
      split
      · exact hj.evaluate _
      · exact hj
    · split
      · exact hj.evaluate _
      · exact hj
  · exact h

/-! ### The Slot Resolver -/

theorem Pool.Law.unpinMap {p : Pool} (h : p.Law) (m : Table MapEntry) : (p.unpinMap m).Law :=
  Pool.Law.foldl (fun e h => by split; exact h; exact h.unpin _) m h

theorem State.Inv.recycle (h : s.Inv) (g : Nat) : (s.recycle g).Inv := by
  unfold State.recycle
  dsimp only
  exact (((h.claim (h.2.unpinMap _)).modifySlot _ _ _).sendSlotWrite _ _ _ _ _).modifyRing _ _

theorem State.Inv.advancePlayBase (g fuel : Nat) : ∀ {s : State}, s.Inv → (s.advancePlayBase g fuel).Inv := by
  induction fuel with
  | zero => intro s h; exact h
  | succ n ih =>
    intro s h
    unfold State.advancePlayBase
    split
    · exact ih (h.recycle g)
    · exact h

theorem State.Inv.releaseSlot (h : s.Inv) (g k : Nat) : (s.releaseSlot g k).Inv :=
  State.Inv.advancePlayBase g 16 (h.modifySlot _ _ _)

theorem State.Inv.partRelease (h : s.Inv) (g k : Nat) : (s.partRelease g k).Inv := by
  unfold State.partRelease
  refine State.Inv.releaseSlot ?_ g k
  unfold State.reportLate
  split
  · exact h
  · exact (h.post _ _ _).modifyRing _ _

theorem State.Inv.forcedRelease (h : s.Inv) (g k : Nat) : (s.forcedRelease g k).Inv := by
  unfold State.forcedRelease
  split
  · exact h.partRelease _ _
  · exact h

theorem State.Inv.becomeReady (h : s.Inv) (g k : Nat) : (s.becomeReady g k).Inv := (h.modifySlot _ _ _).forcedRelease _ _

theorem State.Inv.recordTaken (h : s.Inv) (g k n : Nat) : (s.recordTaken g k n).Inv := by
  unfold State.recordTaken
  dsimp only
  split
  · split
    · exact h.modifySlot _ _ _
    · exact h.becomeReady _ _
  · exact h

theorem State.Inv.headerTaken (h : s.Inv) (g k n : Nat) : (s.headerTaken g k n).Inv := by
  unfold State.headerTaken
  split
  · exact h.becomeReady _ _
  · exact h

theorem State.Inv.landSlotWrites (h : s.Inv) (ws : List (Nat × List Word)) (rest : List SlotWrite) :
    (s.landSlotWrites ws rest).Inv := ⟨Memory.wf_takeWrites _ h.1, h.2⟩

theorem State.Inv.jobLeaves (h : s.Inv) (g k : Nat) : (s.jobLeaves g k).Inv := by
  unfold State.jobLeaves
  dsimp only
  split
  · exact ((h.modifySlot _ _ _).sendSlotWrite _ _ _ _ _).modifySlot _ _ _
  · exact h.modifySlot _ _ _

theorem State.Inv.jobCompleted (h : s.Inv) (g n : Nat) : (s.jobCompleted g n).Inv := by
  unfold State.jobCompleted
  split
  · exact h.jobLeaves _ _
  · exact h

theorem State.Inv.jobCancelled (h : s.Inv) (g n c b : Nat) : (s.jobCancelled g n c b).Inv := by
  unfold State.jobCancelled
  split
  · exact (((h.modifySlot _ _ _).sendSlotWrite _ _ _ _ _).sendSlotWrite _ _ _ _ _).jobLeaves _ _
  · exact h

theorem Pool.Law.servedClaims {p : Pool} (h : p.Law) (x : Context) (gr : GroupRecord) (e : Entry) :
    (p.servedClaims x gr e).Law := by
  unfold Pool.servedClaims
  split
  · exact h.unpinOpt _
  · split
    · exact (h.pin _).unpinOpt _
    · exact h

theorem State.Inv.beginBlend (h : s.Inv) (g n k : Nat) (t o : Entry) : (s.beginBlend g n k t o).Inv := by
  unfold State.beginBlend
  dsimp only
  have hb := h.2.blendAllocate
  split
  · exact h
  · rename_i out p hp
    rw [hp] at hb
    refine State.Inv.modifyContext (State.Inv.modifySlot ?_ _ _ _) _ _
    exact State.Inv.congr (State.Inv.claim h (f := fun _ => _) (((hb.pin _).pin _).servedClaims _ _ _)) rfl rfl

theorem State.Inv.serveEntry (h : s.Inv) (g n k : Nat) (r : Role) (e : Entry) (u : Option Entry) :
    (s.serveEntry g n k r e u).Inv :=
  ((h.claim (((h.2.pin _).freeOpt _).servedClaims _ _ _)).modifySlot _ _ _).modifyContext _ _

theorem State.Inv.applyChoice (h : s.Inv) (g n k : Nat) (c : Choice) : (s.applyChoice g n k c).Inv := by
  cases c with
  | idle => exact h
  | blend t o => exact h.beginBlend _ _ _ _ _
  | target t u => exact h.serveEntry _ _ _ _ _ _
  | other o => exact (h.serveEntry _ _ _ _ _ _).modifySlot _ _ _
  | repeatFill b u => exact ((h.claim ((h.2.pin _).freeOpt _)).modifySlot _ _ _).modifyContext _ _
  | silence u => exact ((h.claim (h.2.freeOpt _)).modifySlot _ _ _).modifyContext _ _

theorem State.Inv.clearRing (h : s.Inv) (g n : Nat) : (s.clearRing g n).Inv := by
  unfold State.clearRing
  refine State.Inv.foldl ?_ _ h
  intro t i h
  unfold State.releaseOverdue
  split
  · exact h.partRelease _ _
  · exact h

theorem State.Inv.resolveGroup (h : s.Inv) (g n : Nat) : (s.resolveGroup g n).Inv := by
  unfold State.resolveGroup
  dsimp only
  refine State.Inv.sendSlotWrite (State.Inv.foldl ?_ _ ?_) _ _ _ _ _
  · intro t k h; exact h.applyChoice _ _ _ _
  · exact (h.clearRing g n).modifySlot _ _ _

theorem State.Inv.sampleLead (h : s.Inv) (g : Nat) (r : Rig) (l : Option Nat) : (s.sampleLead g r l).Inv := by
  cases l with
  | none => exact h
  | some l => exact h.sample _ _ _

theorem State.Inv.sampleMissIf (h : s.Inv) (g : Nat) (r : Role) (m : Bool) : (s.sampleMissIf g r m).Inv := by
  unfold State.sampleMissIf
  split
  · exact h.sampleMiss _ _
  · exact h

theorem State.Inv.sendSamples (h : s.Inv) (before : State) (g n : Nat) : (s.sendSamples before g n).Inv :=
  ((((h.sampleComparisons _ _ _).sampleLead _ _ _).sampleLead _ _ _).sampleMissIf _ _ _).sampleMissIf _ _ _

theorem State.Inv.reportFadeEnd (h : s.Inv) (before : State) (g n : Nat) : (s.reportFadeEnd before g n).Inv := by
  unfold State.reportFadeEnd
  split
  · exact h.fadeEndReport _ _
  · exact h

theorem State.Inv.resolve (h : s.Inv) : s.resolve.Inv := by
  unfold State.resolve
  dsimp only
  have hc := State.Inv.foldl (f := fun t g => t.resolveGroup g s.resolver.resolveFront) (fun _ h => h.resolveGroup _ _)
    s.definedGroups h
  exact State.Inv.foldl (fun _ h => h.reportFadeEnd _ _ _) _
    (State.Inv.foldl (fun _ h => h.sendSamples _ _ _) _ (hc.congr rfl rfl))

theorem State.Inv.resolveMany (n : Nat) : ∀ {s : State}, s.Inv → (s.resolveMany n).Inv := by
  induction n with
  | zero => intro s h; exact h
  | succ n ih => intro s h; exact ih h.resolve

theorem State.Inv.countReaderFault (h : s.Inv) : s.countReaderFault.Inv := h.congr rfl rfl

theorem State.Inv.readerRelease (h : s.Inv) (g k : Nat) (v : Word) : (s.readerRelease g k v).Inv := by
  unfold State.readerRelease
  split
  · split
    · exact (h.modifyRing _ _).releaseSlot _ _
    · exact h.countReaderFault
  · exact h

theorem State.Inv.mapFault (h : s.Inv) (g k c : Nat) : (s.mapFault g k c).Inv := by
  unfold State.mapFault
  split
  · exact h
  · exact h.congr rfl rfl

theorem State.Inv.readWordOf (h : s.Inv) (b : ReadBurst) (st : ReadStatus) : (s.readWordOf b st).1.Inv := by
  have ht : ∀ g k c o, (s.translate b g k c o st).1.Inv := by
    intro g k c o
    cases st with
    | ok => exact h.congr rfl rfl
    | firstError => exact h.mapFault _ _ _
    | secondError => exact h.congr rfl rfl
    | entryRead => exact h.congr rfl rfl
  have he : (s.readEarly b).1.Inv := by
    unfold State.readEarly
    dsimp only
    split
    · exact h
    · exact h.congr rfl rfl
  unfold State.readWordOf
  split
  · exact h
  · split
    · unfold State.liveWord
      dsimp only
      split
      · exact h
      · split
        · exact h
        · split
          · exact he
          · exact he
          · exact ht _ _ _ _
          · exact ht _ _ _ _
    · exact h
    · exact h

/-! ### The Blend Engine -/

theorem State.Inv.dropHead (h : s.Inv) : s.dropHead.Inv := h.congr rfl rfl

theorem State.Inv.landOutput (h : s.Inv) (j : BlendJob) : (s.landOutput j).Inv := ⟨Memory.wf_takeWrites _ h.1, h.2⟩

theorem Pool.Law.completeJob {p : Pool} (h : p.Law) (j : BlendJob) : (p.completeJob j).Law := (Pool.Law.unpin h _).unpin _
theorem Pool.Law.cancelJob {p : Pool} (h : p.Law) (j : BlendJob) : (p.cancelJob j).Law := Pool.Law.unpin (Pool.Law.unpin h _) _
theorem Pool.Law.drainJob {p : Pool} (h : p.Law) (j : BlendJob) : (p.drainJob j).Law := (h.unpin _).unpin _

theorem Pool.Law.flushJob {p : Pool} (h : p.Law) (j : BlendJob) : (p.flushJob j).Law := by
  unfold Pool.flushJob
  split
  · exact h.drainJob j
  · exact ((h.unpin _).unpin _).unpin _

theorem State.Inv.blendDeadline (h : s.Inv) : s.blendDeadline.Inv := by
  unfold State.blendDeadline
  split
  · refine State.Inv.foldl ?_ _ (h.congr rfl rfl)
    intro t j h
    unfold State.deadlineJob
    refine State.Inv.jobCancelled (h.claim ?_) _ _ _ _
    split
    · exact h.2.cancelJob j
    · exact h.2
  · exact h

theorem State.Inv.failJob (h : s.Inv) (j : BlendJob) (i : BlendInput) : (s.failJob j i).Inv :=
  ((h.dropHead.claim (f := fun p => p.cancelJob j) (h.2.cancelJob j)).jobCancelled _ _ _ _).post _ _ _

/-! ### The Capture Units -/

theorem State.Inv.reportExhausted (h : s.Inv) (r : Rig) (g c l : Nat) : (s.reportExhausted r g c l).Inv := by
  unfold State.reportExhausted
  split
  · exact h
  · exact (h.post _ _ _).claim (h.2.congr rfl rfl rfl)

theorem State.Inv.laneAllocate (h : s.Inv) (r : Rig) (g c l : Nat) : (s.laneAllocate r g c l).2.Inv := by
  have hp := h.2.laneAllocate r (s.isTarget r g)
  unfold State.laneAllocate
  split
  · exact h.reportExhausted _ _ _ _
  · rename_i b ch p hq
    rw [hq] at hp
    show ((s.claim (fun _ => p.setExhausted r false)).sampleDraw r g ch).Inv
    have hc : (s.claim (fun _ => p.setExhausted r false)).Inv := h.claim (hp.congr rfl rfl rfl)
    unfold State.sampleDraw
    split
    · exact hc.sample _ _ _
    · exact hc

theorem State.Inv.openLane (h : s.Inv) (k : Nat) (r : Rig) (l : Nat) : (s.openLane k r l).Inv :=
  (h.laneAllocate r (s.context k).group (s.context k).channel l).congr rfl rfl

theorem State.Inv.openIfIdle (h : s.Inv) (k : Nat) (r : Rig) (l : Nat) : (s.openIfIdle k r l).Inv := by
  unfold State.openIfIdle
  split
  · exact h.openLane _ _ _
  · exact h

theorem State.Inv.storePayload (h : s.Inv) (ln : Lane) (v : Word) : (s.storePayload ln v).Inv :=
  ⟨Memory.wf_writeWord _ _ h.1, h.2⟩

theorem State.Inv.fillPayload (h : s.Inv) (k : Nat) (r : Rig) (l w : Nat) (v : Word) (en : Enables) :
    (s.fillPayload k r l w v en).Inv := by
  unfold State.fillPayload
  dsimp only
  split
  · split
    · exact (h.storePayload _ _).setLane _ _ _ _
    · exact h.setLane _ _ _ _
  · exact h

theorem State.Inv.fillHeader (h : s.Inv) (k : Nat) (r : Rig) (l w : Nat) (v : Word) (en : Enables) :
    (s.fillHeader k r l w v en).Inv := by
  unfold State.fillHeader
  dsimp only
  split
  · split
    · exact h.setLane _ _ _ _
    · exact h.setLane _ _ _ _
  · exact h

theorem State.Inv.settleBlock (h : s.Inv) (k : Nat) (r : Rig) (ln : Lane) (o : LaneOutcome) :
    (s.settleBlock k r ln o).Inv := by
  have hf : (s.claim (fun p => p.freeOpt ln.bucket)).Inv := h.claim (h.2.freeOpt _)
  cases o with
  | accepted => exact ⟨h.1, h.2.retain ln.entry.bucket⟩
  | replaced =>
    refine ⟨h.1, ?_⟩
    exact Pool.Law.freeOpt (h.2.retain ln.entry.bucket)
      (Option.map Entry.bucket (findEntry ln.entry.block ((s.context k).lists.get r)))
  | abandoned => exact hf
  | starved => exact hf
  | spoiled => exact hf
  | incomplete => exact hf
  | malformed => exact hf
  | crcMismatch => exact hf
  | late => exact hf
  | tooEarly => exact hf
  | stale => exact hf
  | stray => exact hf

theorem State.Inv.reportOutcome (h : s.Inv) (k : Nat) (r : Rig) (o : LaneOutcome) : (s.reportOutcome k r o).Inv :=
  (h.sample _ _ _).modifyContext _ _

theorem State.Inv.closeLane (h : s.Inv) (k : Nat) (r : Rig) (l : Nat) (o : LaneOutcome) : (s.closeLane k r l o).Inv :=
  ((h.setLane _ _ _ _).settleBlock _ _ _ _).reportOutcome _ _ _

theorem State.Inv.commitLane (h : s.Inv) (k : Nat) (r : Rig) (l : Nat) (v : Word) (en : Enables) :
    (s.commitLane k r l v en).Inv := by
  unfold State.commitLane
  split
  · exact h.reportOutcome _ _ _
  · exact h.closeLane _ _ _ _

theorem State.Inv.laneStale (h : s.Inv) (c : Nat) (r : Rig) (l : Nat) : (s.laneStale c r l).Inv := by
  unfold State.laneStale
  split
  · exact h
  · split
    · exact h.closeLane _ _ _ _
    · exact h

theorem State.Inv.streamingExpiry (h : s.Inv) (c : Nat) : (s.streamingExpiry c).Inv := by
  unfold State.streamingExpiry
  split
  · exact h
  · split
    · exact (h.claim (h.2.unpinOpt _)).modifyContext _ _
    · exact h

/-! ### The Channel Cache -/

theorem State.Inv.writeDirEntry (h : s.Inv) (c : Nat) (d : DirEntry) : (s.writeDirEntry c d).Inv := by
  refine ⟨?_, ?_⟩
  · rw [State.writeDirEntry_mem]; exact Memory.wf_writeWords _ _ h.1
  · rw [State.writeDirEntry_pool]; exact h.2

theorem State.Inv.handleLaneWrite (h : s.Inv) (k : Nat) (r : Rig) (w : RigWrite) : (s.handleLaneWrite k r w).Inv := by
  unfold State.handleLaneWrite
  split
  · exact (h.openIfIdle _ _ _).fillPayload _ _ _ _ _ _
  · exact (h.openIfIdle _ _ _).fillHeader _ _ _ _ _ _
  · exact h.commitLane _ _ _ _ _
  · exact h
  · exact h

theorem State.Inv.serve (r : Rig) (qs : List RigRequest) : ∀ {s : State}, s.Inv → (s.serve r qs).Inv := by
  induction qs with
  | nil => intro s h; exact h.setPort _ _
  | cons q qs ih =>
    intro s h
    cases q with
    | read a n => exact ih (h.answerRig r a n)
    | write w =>
      unfold State.serve
      split
      · exact ih h
      · split
        · exact ih (h.handleLaneWrite _ _ _)
        · exact h.congr rfl rfl

theorem State.Inv.rigRequest (h : s.Inv) (r : Rig) (q : RigRequest) : (s.rigRequest r q).Inv := by
  unfold State.rigRequest
  split
  · exact State.Inv.serve r [q] h
  · exact h.setPort _ _

theorem State.Inv.rigWrite (h : s.Inv) (r : Rig) (w : RigWrite) : (s.rigWrite r w).Inv := by
  unfold State.rigWrite
  split
  · exact h.rigRequest _ _
  · exact h

theorem State.Inv.dropHeld (h : s.Inv) (q : LoadRequest) (u : Bool) (r : Rig) : (s.dropHeld q u r).Inv := by
  unfold State.dropHeld
  split
  · dsimp only
    refine State.Inv.setPort ?_ _ _
    split
    · unfold State.countStray
      split
      · split
        · exact h.congr rfl rfl
        · exact h
      · exact h
    · exact h
  · exact h

theorem State.Inv.resumePorts (h : s.Inv) (q : LoadRequest) : (s.resumePorts q).Inv := by
  have hr : ∀ {t : State} (r : Rig), t.Inv → (t.resumePort q r).Inv := by
    intro t r h
    unfold State.resumePort
    split
    · exact State.Inv.serve _ _ h
    · exact h
  exact hr _ (hr _ h)

theorem State.Inv.abandonLoad (h : s.Inv) (q : LoadRequest) (u : Bool) : (s.abandonLoad q u).Inv := by
  have hc : ({ s with cache := s.cache.closeRequest q.channel } : State).Inv := ⟨h.1, h.2⟩
  exact ((hc.dropHeld q u .rig1).dropHeld q u .rig2).resumePorts q

theorem State.Inv.takeSends (sends : List CacheSend) : ∀ {s : State}, s.Inv → (s.takeSends sends).Inv := by
  induction sends with
  | nil => intro s h; exact h.congr rfl rfl
  | cons x sends ih =>
    intro s h
    cases x with
    | writeback k => exact h.congr rfl rfl
    | cached c d => exact ih ⟨Memory.wf_writeWord _ _ h.1, h.2⟩
    | read c => exact ih h

theorem State.Inv.completeLoad (h : s.Inv) (q : LoadRequest) (k : Nat) (d : DirEntry) : (s.completeLoad q k d).Inv := by
  unfold State.completeLoad
  exact State.Inv.resumePorts (State.Inv.takeSends _ (s := { s with cache := s.cache.filled q k d s.part.period })
    ⟨h.1, h.2⟩) q

theorem State.Inv.loadReadDone (h : s.Inv) (q : LoadRequest) (e : Bool) : (s.loadReadDone q e).Inv := by
  unfold State.loadReadDone
  split
  · exact (h.post _ _ _).abandonLoad _ _
  · split
    · unfold State.stage2
      split
      · exact State.Inv.completeLoad (s := s.setContextExhausted false) ⟨h.1, h.2⟩ _ _ _
      · split
        · exact h.congr rfl rfl
        · refine State.Inv.abandonLoad ?_ _ _
          unfold State.reportContextExhausted
          split
          · exact h
          · exact ⟨h.1, h.2⟩
    · exact h.abandonLoad _ _

theorem State.Inv.evictionEnds (h : s.Inv) (k : Nat) : (s.evictionEnds k).Inv := by
  have hw : (s.writebackTaken.writebackDone (s.context k).channel).Inv := ⟨Memory.wf_takeWrites _ h.1, h.2⟩
  unfold State.evictionEnds
  extract_lets written
  split
  · exact (State.Inv.takeSends _ hw).modifyContext _ _
  · exact hw.completeLoad _ _ _

/-! ### The End Show teardown -/

theorem Pool.Law.dropShow {p : Pool} (h : p.Law) (cs : Table Context) (rs : Table Ring) : (p.dropShow cs rs).Law := by
  unfold Pool.dropShow
  dsimp only
  refine Pool.Law.foldl (fun _ h => h.unpinOpt _) _ (Pool.Law.foldl ?_ _ (Pool.Law.foldl ?_ _ h))
  · intro p e h
    exact Pool.Law.foldl (fun _ h => by split; exact h.unpinMap _; exact h) _ h
  · intro p e h
    exact Pool.Law.foldl (fun _ h => h.claimFree _) _ (Pool.Law.foldl (fun _ h => h.claimFree _) _
      (Pool.Law.foldl (fun _ h => h.freeOpt _) _ (Pool.Law.foldl (fun _ h => h.freeOpt _) _ h)))

theorem State.Inv.dropShow (h : s.Inv) : s.dropShow.Inv := by
  refine ⟨?_, h.2.dropShow s.cache.contexts s.resolver.rings⟩
  simp only [State.dropShow]
  exact Memory.wf_writeEmptyRange s.liveBase 0 131072
    (Memory.wf_takeWrites (s.resolver.writes.map (fun w => (w.addr, w.words))) h.1)

theorem State.Inv.invalidateContexts (h : s.Inv) : s.invalidateContexts.Inv := by
  unfold State.invalidateContexts
  split
  · exact h.congr rfl rfl
  · exact h

theorem State.Inv.advanceTeardown (h : s.Inv) : s.advanceTeardown.Inv := by
  unfold State.advanceTeardown
  split
  · exact h
  · split
    · refine State.Inv.invalidateContexts ?_
      have hd := h.dropShow
      refine ⟨?_, ?_⟩
      · rw [State.setTeardown_mem]; exact hd.1
      · rw [State.setTeardown_pool]; exact hd.2
    · exact h
  · exact h.invalidateContexts
  · exact h

theorem State.Inv.flushHead (h : s.Inv) (j : BlendJob) : (s.flushHead j).Inv :=
  State.Inv.advanceTeardown (h.dropHead.claim (f := fun p => p.flushJob j) (h.2.flushJob j))

theorem State.Inv.drainHead (h : s.Inv) (j : BlendJob) : (s.drainHead j).Inv :=
  State.Inv.advanceTeardown (h.dropHead.claim (f := fun p => p.drainJob j) (h.2.drainJob j))

theorem State.Inv.completeHead (h : s.Inv) (j : BlendJob) : (s.completeHead j).Inv := by
  have hl := h.landOutput j
  unfold State.completeHead
  split
  · exact hl.flushHead j
  · exact State.Inv.jobCompleted (State.Inv.dropHead (hl.claim (f := fun p => p.completeJob j) (hl.2.completeJob j))) _ _

theorem State.Inv.readError (h : s.Inv) (j : BlendJob) (i : BlendInput) : (s.readError j i).Inv := by
  unfold State.readError
  split
  · split
    · exact h.flushHead j
    · exact h.failJob j i
  · split
    · exact h.drainHead j
    · exact h

theorem State.Inv.flushQueued (h : s.Inv) : s.flushQueued.Inv := by
  unfold State.flushQueued
  refine ⟨h.1, ?_⟩
  exact Pool.Law.foldl (fun j h => h.flushJob j) (s.blend.filter (fun j => j.phase == .queued)) h.2

theorem State.Inv.drainPort (r : Rig) (qs : List RigRequest) : ∀ {s : State}, s.Inv → (s.drainPort r qs).Inv := by
  induction qs with
  | nil => intro s h; exact h.setPort _ _
  | cons q qs ih =>
    intro s h
    cases q with
    | read a n => exact ih (h.answerRig r a n)
    | write w => exact ih h

theorem State.Inv.dropHeldWrites (h : s.Inv) : s.dropHeldWrites.Inv :=
  (State.Inv.drainPort .rig2 s.cache.ports.rig2 (State.Inv.drainPort .rig1 s.cache.ports.rig1 h)).congr rfl rfl

theorem State.Inv.beginTeardown (h : s.Inv) : s.beginTeardown.Inv := by
  unfold State.beginTeardown
  refine State.Inv.advanceTeardown ?_
  have hs : ({ s with part := { s.part with state := .standby, startGuard := false } } : State).Inv := ⟨h.1, h.2⟩
  have hf := hs.dropHeldWrites.flushQueued
  refine ⟨?_, ?_⟩
  · rw [State.setTeardown_mem]; exact hf.1
  · rw [State.setTeardown_pool]; exact hf.2

theorem State.Inv.endTeardown (h : s.Inv) (ws : List (Nat × List Word)) : (s.endTeardown ws).Inv := by
  unfold State.endTeardown
  dsimp only
  refine State.Inv.answerCommand (State.Inv.setTallies (State.Inv.foldl ?_ _ ?_)) _ _
  · intro t g h; exact (h.modifyGroup _ _).modifyHealth _ _
  · exact ⟨Memory.wf_takeWrites _ h.1, Pool.Law.rebuild _⟩

/-! ### The Clock Monitor and the Period Timer -/

theorem State.Inv.doWork (h : s.Inv) (w : PeriodWork) : (s.doWork w).Inv := by
  cases w with
  | laneStale c r l => exact h.laneStale _ _ _
  | streamingExpiry c => exact h.streamingExpiry _
  | forcedRelease g k => exact h.forcedRelease _ _
  | blendDeadline => exact h.blendDeadline
  | healthWindowClose g => exact h.healthWindowClose _

theorem State.Inv.periodEvent (h : s.Inv) (early : List PeriodWork) : (s.periodEvent early).Inv :=
  State.Inv.requestStatus (State.Inv.resolve (State.Inv.foldl (fun _ h => h.doWork _) early (h.congr rfl rfl)))

theorem State.Inv.deliverBeat (h : s.Inv) (n : Nat) (early : List PeriodWork) : (s.deliverBeat n early).Inv := by
  unfold State.deliverBeat
  split
  · split
    · exact h
    · exact h.periodEvent _
  · exact h

theorem State.Inv.changeClock (h : s.Inv) (c : Clock) (w : ClockReason) : (s.changeClock c w).Inv := h.congr rfl rfl

theorem State.Inv.collectEdge (h : s.Inv) : s.collectEdge.Inv := by
  unfold State.collectEdge
  split
  · exact h.setClock _
  · unfold State.collect
    dsimp only
    split
    · split
      · exact h.changeClock _ _
      · exact h.setClock _
    · exact h.setClock _

theorem State.Inv.windowClosed (h : s.Inv) : s.windowClosed.Inv := by
  unfold State.windowClosed
  extract_lets empty
  by_cases hc : s.part.state ≠ .running ∧ 16 ≤ empty
  · rw [if_pos hc]; exact h.changeClock _ _
  · rw [if_neg hc]; exact h.setClock _

theorem State.Inv.acceptEdge (h : s.Inv) : s.acceptEdge.Inv := by
  unfold State.acceptEdge
  dsimp only
  split
  · exact h.changeClock _ _
  · exact h.setClock _

theorem State.Inv.synthesize (h : s.Inv) (sb : Nat) (early : List PeriodWork) : (s.synthesize sb early).Inv :=
  (h.setClock _).deliverBeat _ _

theorem State.Inv.closeOverdueWindow (h : s.Inv) : s.closeOverdueWindow.Inv := by
  unfold State.closeOverdueWindow
  split
  · exact h
  · split
    · exact h.windowClosed
    · exact h

theorem State.Inv.flywheelEdge (h : s.Inv) (early : List PeriodWork) : (s.flywheelEdge early).Inv := by
  unfold State.flywheelEdge
  split
  · exact h.acceptEdge
  · unfold State.edgeAtBeat
    split
    · exact h.setClock _
    · split
      · exact h.acceptEdge.deliverBeat _ _
      · split
        · exact (h.synthesize _ _).setClock _
        · exact (h.synthesize _ _).acceptEdge
  · exact h.setClock _

theorem State.Inv.loseClock (h : s.Inv) (early : List PeriodWork) : (s.loseClock early).Inv :=
  (h.changeClock _ _).deliverBeat _ _

theorem State.Inv.clockEdge (h : s.Inv) (early : List PeriodWork) : (s.clockEdge early).Inv := by
  have ht := h.closeOverdueWindow
  unfold State.clockEdge
  dsimp only
  split
  · exact ht.collectEdge
  · unfold State.lockedEdge
    split
    · exact ht
    · split
      · exact (ht.setClock _).deliverBeat _ _
      · exact (ht.loseClock _).flywheelEdge _
  · exact ht.flywheelEdge _

theorem State.Inv.pulse (h : s.Inv) (dt : Nat) (w : Bool) : (s.pulse dt w).Inv := by
  unfold State.pulse
  split
  · exact h.advance _
  · exact h.congr rfl rfl

theorem State.Inv.syncEdge (h : s.Inv) : s.syncEdge.Inv := by
  unfold State.syncEdge
  split
  · split
    · unfold State.startShow
      dsimp only
      refine State.Inv.requestStatus (State.Inv.post (State.Inv.resolveMany _ ?_) _ _ _)
      exact State.Inv.foldl (fun _ h => h.modifyHealth _ _) _ (h.congr rfl rfl)
    · exact h.post _ _ _
  · exact h

/-! ### The Supervisor Interface -/

theorem State.Inv.writeAnchorResult (h : s.Inv) (r : ResultCode) : (s.writeAnchorResult r).Inv :=
  ⟨Memory.wf_writeWord _ _ h.1, h.2⟩

theorem State.Inv.goEvent (h : s.Inv) : s.goEvent.Inv := by
  unfold State.goEvent
  split
  · exact h.writeAnchorResult _
  · split
    · exact h
    · split
      · exact h.modifySup _
      · exact h.modifySup _

theorem State.Inv.deferredGo (h : s.Inv) : s.deferredGo.Inv := by
  unfold State.deferredGo
  split
  · exact ((h.modifySup _).writeAnchorResult _).modifyCommand _
  · exact h.modifySup _

theorem State.Inv.anchorRead (h : s.Inv) (e : Bool) : (s.anchorRead e).Inv := by
  unfold State.anchorRead
  split
  · exact (((h.writeAnchorResult _).modifySup _).modifyCommand _).beginFollowUp
  · exact ⟨h.1, Pool.Law.build _⟩

theorem State.Inv.endTake (h : s.Inv) (a : Anchor) : (s.endTake a).Inv := by
  unfold State.endTake
  refine State.Inv.requestStatus ⟨?_, h.2⟩
  simp only
  exact Memory.wf_writeWord 4 (word ResultCode.done.code) (Memory.wf_landTake a s.landed 128 6144 131072 h.1)

theorem State.Inv.kick (h : s.Inv) (k : Nat) : (s.kick k).Inv := by
  unfold State.kick
  split
  · exact h.post _ _ _
  · split
    · exact h
    · exact h.modifyCommand _

theorem State.Inv.fetchDone (h : s.Inv) (e : Bool) : (s.fetchDone e).Inv := by
  unfold State.fetchDone
  split
  · exact (h.post _ _ _).modifyCommand _
  · split
    · exact h.modifyCommand _
    · exact (h.post _ _ _).modifyCommand _

theorem State.Inv.resultWritten (h : s.Inv) : s.resultWritten.Inv := by
  unfold State.resultWritten
  dsimp only
  refine State.Inv.modifyCommand (State.Inv.requestStatus ?_) _
  have hl : ({ s with mem := takeWrites s.mem s.resultInFlight, landed := { s.landed with result := 0 } } : State).Inv :=
    ⟨Memory.wf_takeWrites _ h.1, h.2⟩
  unfold State.postCommandDone
  dsimp only
  split
  · exact hl.post _ _ _
  · exact hl

theorem State.Inv.noticeReturn (h : s.Inv) (k : Nat) : (s.noticeReturn k).Inv := by
  unfold State.noticeReturn
  split
  · exact h.post _ _ _
  · split
    · exact h
    · split
      · exact h.post _ _ _
      · exact h.congr rfl rfl

theorem State.Inv.noticeWritten (h : s.Inv) : s.noticeWritten.Inv :=
  ⟨Memory.wf_takeWrites _ h.1, h.2⟩

theorem State.Inv.statusWritten (h : s.Inv) (w : StatusWrite) : (s.statusWritten w).Inv := by
  have hl : ({ s with mem := writeWords s.mem w.base w.words } : State).Inv := ⟨Memory.wf_writeWords _ _ h.1, h.2⟩
  unfold State.statusWritten
  dsimp only
  split
  · exact hl.modifySup _
  · exact (hl.modifySup _).beginFollowUp

/-! ### Commands and the Local Port -/

theorem State.Inv.refuse (h : s.Inv) (r : ResultCode) : (s.refuse r).Inv := h.answerCommand _ _

theorem State.Inv.configure (h : s.Inv) (b : BridgeSettings) : (s.configure b).Inv := ⟨h.1, h.2.congr rfl rfl rfl⟩

theorem State.Inv.defineGroup (h : s.Inv) (g : Nat) (gr : GroupRecord) : (s.defineGroup g gr).Inv :=
  State.Inv.setTallies (State.Inv.evaluate (((h.modifyGroup _ _).modifyHealth _ _).modifyRing _ _) g)

theorem State.Inv.arm (h : s.Inv) (b : Nat) : (s.arm b).Inv := by
  unfold State.arm
  refine State.Inv.foldl ?_ _ ?_
  · intro t g h; exact ((h.modifyGroup _ _).modifyHealth _ _).modifyRing _ _
  · exact ⟨h.1, h.2.congr rfl rfl rfl⟩

theorem State.Inv.commandSwitchSet (r : Role) (cut : Bool) (h : s.Inv) (g : Nat) : (State.commandSwitchSet r cut s g).Inv := by
  unfold State.commandSwitchSet
  split
  · exact h.cutSet _ _ _
  · exact h.fadeSet _ _

theorem State.Inv.passThrough (h : s.Inv) (a : Nat) (v : Word) (en : Enables) : (s.passThrough a v en).Inv :=
  ⟨Memory.wf_writeEnabled _ _ _ h.1, h.2⟩

theorem State.Inv.localWrite (h : s.Inv) (a : Nat) (v : Word) (en : Enables) : (s.localWrite a v en).Inv := by
  have hp := h.passThrough a v en
  unfold State.localWrite
  split
  · exact h
  · exact h
  · exact h
  · exact hp
  · unfold State.handGo
    split
    · exact hp.goEvent
    · exact hp
  · unfold State.handKick
    split
    · exact hp.kick _
    · exact hp
  · unfold State.handReturn
    split
    · exact hp.noticeReturn _
    · exact hp
  · unfold State.releaseWrite
    split
    · exact hp.readerRelease _ _ _
    · unfold State.subWordRelease
      split
      · exact h.countReaderFault
      · exact h

theorem State.Inv.localRequest (h : s.Inv) (q : LocalRequest) : (s.localRequest q).Inv := by
  unfold State.localRequest
  split
  · unfold State.takeRequest
    split
    · exact h.localWrite _ _ _
    · exact h.congr rfl rfl
    · exact h.congr rfl rfl
  · exact h.congr rfl rfl

theorem State.Inv.keepRead (h : s.Inv) (b : ReadBurst) : (s.keepRead b).Inv := by
  unfold State.keepRead
  split
  · exact State.Inv.foldl (fun _ h => h.localRequest _) _ (s := State.answerLocal _ b.data b.error) (h.congr rfl rfl)
  · exact h.congr rfl rfl

/-! ### Words taken of the part's writes in flight -/

theorem State.Inv.land (h : s.Inv) (k : Nat) (ws : List (Nat × List Word)) : (s.land k ws).Inv :=
  ⟨Memory.wf_landFirst ws k h.1, h.2⟩

theorem State.Inv.countLanded (h : s.Inv) (f : Landed → Landed) : (s.countLanded f).Inv := h.congr rfl rfl

theorem State.Inv.took (h : s.Inv) (n : Nat) (w : Writer) : (s.took n w).Inv := by
  have ht : ∀ z d l, (s.tookTake z d l).Inv := by
    intro z d l
    unfold State.tookTake
    split
    · rename_i a _
      have hm := Memory.wf_landTake a s.landed z d l h.1
      generalize landTake s.mem a s.landed z d l = m at hm ⊢
      exact ⟨hm, h.2⟩
    · exact h
  cases w with
  | status =>
    show (s.tookStatus n).Inv
    unfold State.tookStatus
    split
    · exact h
    · exact (h.land _ _).modifySup _
  | notice => exact (h.land _ _).countLanded _
  | result => exact (h.land _ _).countLanded _
  | teardown =>
    show (s.tookTeardown n).Inv
    unfold State.tookTeardown
    split
    · exact (h.land _ _).congr rfl rfl
    · exact h
  | writeback => exact (h.land _ _).countLanded _
  | blend => exact (h.land _ _).countLanded _
  | slots => exact ⟨Memory.wf_takeWrites _ h.1, h.2⟩
  | zeroBucket => exact ht n 0 0
  | directory => exact ht 0 n 0
  | liveDirectory => exact ht 0 0 n

theorem State.Inv.portEvents (events : List PortEvent) : ∀ {s : State}, s.Inv → (s.portEvents events).Inv := by
  induction events with
  | nil => intro s h; exact h
  | cons e events ih =>
    intro s h
    refine ih ?_
    cases e with
    | took w n => exact h.took n w
    | answer st =>
      show (State.portEvent s (.answer st)).Inv
      simp only [State.portEvent]
      split
      · exact h
      · exact (h.readWordOf _ st).keepRead _

theorem State.Inv.unlessHeld {s t : State} (h : s.Inv) (ht : t.Inv) : (s.unlessHeld t).Inv := by
  unfold State.unlessHeld
  split
  · exact h
  · exact ht

theorem State.Inv.afterReset (h : s.Inv) (b a l : Bool) : (s.afterReset b a l).Inv := by
  refine ⟨?_, Pool.Law.initial⟩
  show (s.memAfterReset).wf
  unfold State.memAfterReset State.landTakeWrites
  have hl : ∀ {m : Memory} (n : Nat) (ws : List (Nat × List Word)), m.wf → (landFirst m n ws).wf :=
    fun n ws h => Memory.wf_landFirst ws n h
  have hm := hl (Config.freeLanded s.freeCount 6) s.slotsInFlight (hl (Config.freeLanded s.freeCount 5) s.blendInFlight
    (hl (Config.freeLanded s.freeCount 4) s.evictionsInFlight (hl (Config.freeLanded s.freeCount 3) s.teardownInFlight
    (hl (Config.freeLanded s.freeCount 2) s.resultInFlight (hl (Config.freeLanded s.freeCount 1) s.noticeInFlight
    (hl (Config.freeLanded s.freeCount 0) s.statusInFlight h.1))))))
  split
  · exact Memory.wf_landTake _ _ _ _ _ hm
  · exact hm

theorem State.Inv.holdReset (h : s.Inv) : s.holdReset.Inv := (h.afterReset s.lines.sizeB s.lines.sizeA false).congr rfl rfl

end Sys2Proof.Machine
end

