-- ==== Sys2Proof/Laws/Landing.lean ====
section
/-! SUPPORT. Words of a write that are taken before the row that ends it: that row leaves what it leaves without them. -/

namespace Sys2Proof.Machine

/-! ### DRAM and the words in flight -/

/-- The words taken and the rest leave what the whole write leaves. -/
theorem takeWrites_land (m : Memory) (n l : Nat) (ws : List (Nat × List Word)) :
    takeWrites (landFirst m n (afterWords l ws)) (afterWords (l + n) ws) = takeWrites m (afterWords l ws) := by
  rw [← afterWords_add]
  exact takeWrites_split _ n m

theorem writeWords_split (m : Memory) (a k : Nat) (ws : List Word) (h : k ≤ ws.length) :
    writeWords (landFirst m k [(a, ws)]) (a + 4 * k) (ws.drop k) = writeWords m a ws := by
  have e := writeWords_append m a (ws.take k) (ws.drop k)
  rw [List.take_append_drop, List.length_take, Nat.min_eq_left h] at e
  exact e.symm

theorem beforeLast_nil (n : Nat) : beforeLast n [] = 0 := by simp [beforeLast, wordCount]

/-! ### The rows that end a write -/

theorem State.statusEnd_took (s : State) (n : Nat) :
    execStatusWriteEnd (s.took n .status) = execStatusWriteEnd s := by
  show execStatusWriteEnd (s.tookStatus n) = _
  unfold State.tookStatus
  split
  · rfl
  · rename_i w hw
    have hk : min n (w.words.length - 1) ≤ w.words.length := by omega
    have hm := writeWords_split s.mem w.base _ w.words hk
    unfold execStatusWriteEnd
    rw [hw]
    dsimp only [State.modifySup, State.land, State.statusInFlight, State.statusWritten]
    rw [hw]
    dsimp only
    rw [hm]
    rfl

theorem State.noticeEnd_took (s : State) (n dt : Nat) :
    execNoticeWriteEnd dt (s.took n .notice) = execNoticeWriteEnd dt s := by
  have hm := takeWrites_land s.mem (beforeLast n s.noticeInFlight) s.landed.notice s.noticeWrites
  by_cases hw : s.notices.writing = true
  · simp only [execNoticeWriteEnd, State.took, State.advance, State.land, State.countLanded, hw, if_true, State.noticeWritten]
    simp only [State.noticeInFlight] at hm ⊢
    simp only [State.noticeWrites] at hm ⊢
    rw [hm]
    rfl
  · have hws : s.noticeInFlight = [] := by
      simp only [State.noticeInFlight, State.noticeWrites]
      split
      · rw [if_neg hw]; rfl
      · rfl
    simp only [State.took, hws, beforeLast_nil]
    rfl

theorem State.resultEnd_took (s : State) (n : Nat) :
    execCommandResultWritten (s.took n .result) = execCommandResultWritten s := by
  by_cases hw : s.sup.command.phase = .writing
  · have hm := takeWrites_land s.mem (beforeLast n s.resultInFlight) s.landed.result
      (s.sup.command.resultWrites (s.entryAddr s.sup.command.next))
    simp only [execCommandResultWritten, State.took, State.land, State.countLanded, hw, if_true, State.resultWritten]
    simp only [State.resultInFlight, hw, if_true] at hm ⊢
    simp only [State.entryAddr] at hm ⊢
    rw [hm]
    rfl
  · have hws : s.resultInFlight = [] := by simp only [State.resultInFlight, if_neg hw]
    simp only [State.took, hws, beforeLast_nil]
    rfl

theorem State.teardownEnd_took (s : State) (n : Nat) :
    execTeardownEnd (s.took n .teardown) = execTeardownEnd s := by
  show execTeardownEnd (s.tookTeardown n) = _
  unfold State.tookTeardown
  split
  · rename_i ws hw
    have hm := takeWrites_split ws (beforeLast n ws) s.mem
    simp only [execTeardownEnd, hw, State.setTeardown, State.land, State.endTeardown]
    rw [hm]
    rfl
  · rfl

theorem State.evictionEnd_took (s : State) (n k : Nat) (h : s.cache.sends.head? = some (.writeback k)) :
    execEvictionWritebackEnd k (s.took n .writeback) = execEvictionWritebackEnd k s := by
  obtain ⟨rest, hs⟩ : ∃ rest, s.cache.sends = .writeback k :: rest := by
    cases hs : s.cache.sends with
    | nil => rw [hs] at h; exact absurd h (by simp)
    | cons w rest => rw [hs, List.head?_cons] at h; exact ⟨rest, by rw [Option.some.inj h]⟩
  have hm := takeWrites_land s.mem (beforeLast n s.writebackInFlight) s.landed.writeback [s.cacheWrite (.writeback k)]
  have hw : (s.took n .writeback).writebackTaken = s.writebackTaken := by
    simp only [State.took, State.land, State.countLanded, State.writebackTaken]
    simp only [State.writebackInFlight, hs] at hm ⊢
    simp only [State.cacheWrite, State.dirEntryAddr, State.dirBase, State.context] at hm ⊢
    rw [hm]
  have hc : (s.took n .writeback).cache = s.cache := rfl
  unfold execEvictionWritebackEnd
  rw [hc, if_pos h, if_pos h]
  unfold State.evictionEnds
  rw [hw, hc]
  rfl

theorem State.landOutput_took (s : State) (n : Nat) (j : BlendJob) (js : List BlendJob) (h : s.blend = j :: js)
    (hj : j.samples.isSome = true) : (s.took n .blend).landOutput j = s.landOutput j := by
  obtain ⟨out, ho⟩ := Option.isSome_iff_exists.mp hj
  have hm := takeWrites_land s.mem (beforeLast n s.blendInFlight) s.landed.blend [(s.pool.byteAddr j.output 0, out)]
  simp only [State.took, State.land, State.countLanded, State.landOutput]
  simp only [State.blendInFlight, h, ho, Option.getD_some] at hm ⊢
  rw [hm]

/-- The Live Directory writes taken with the next record or READY header, when words of them were taken before. -/
theorem takeThrough_slotWordsTaken (kind : SlotWriteKind) (g k : Nat) (ws : List SlotWrite) :
    ∀ (n b : Nat) (m : Memory) (taken : List (Nat × List Word)) (rest : List SlotWrite),
      takeThrough kind g k ws = some (taken, b, rest) →
      ∃ later, takeThrough kind g k (slotWordsTaken n ws).2 = some (later, b, rest)
        ∧ takeWrites (takeWrites m (slotWordsTaken n ws).1) later = takeWrites m taken := by
  induction ws with
  | nil => intro n b m taken rest h; exact absurd h (by simp [takeThrough])
  | cons w ws ih =>
    intro n b m taken rest h
    unfold slotWordsTaken
    by_cases hw : w.kind = .other
    · rw [takeThrough, if_pos hw] at h
      cases ht : takeThrough kind g k ws with
      | none => rw [ht] at h; exact absurd h (by simp)
      | some x =>
        obtain ⟨tk, b', rest'⟩ := x
        rw [ht] at h
        simp only [Option.some.injEq, Prod.mk.injEq] at h
        obtain ⟨rfl, rfl, rfl⟩ := h
        by_cases hl : w.words.length ≤ n
        · rw [if_pos ⟨hw, hl⟩]
          exact ih (n - w.words.length) b' (writeWords m w.addr w.words) tk rest' ht
        · rw [if_neg (fun h => hl h.2)]
          dsimp only
          refine ⟨_, by rw [takeThrough, if_pos hw, ht], ?_⟩
          have hs := writeWords_split m w.addr (min n (w.words.length - 1)) w.words (by omega)
          have hf : landFirst m (min n (w.words.length - 1)) [(w.addr, w.words)]
              = writeWords m w.addr (w.words.take (min n (w.words.length - 1))) := rfl
          rw [hf] at hs
          simp only [takeWrites]
          rw [hs]
    · rw [takeThrough, if_neg hw] at h
      rw [if_neg (fun h => hw h.1)]
      dsimp only
      rw [takeThrough, if_neg hw]
      by_cases hg : w.kind = kind ∧ w.group = g ∧ w.slot = k
      · rw [if_pos hg] at h
        rw [if_pos hg]
        simp only [Option.some.injEq, Prod.mk.injEq] at h
        obtain ⟨rfl, rfl, rfl⟩ := h
        refine ⟨_, rfl, ?_⟩
        have hs := writeWords_split m w.addr (min n (w.words.length - 1)) w.words (by omega)
        have hf : landFirst m (min n (w.words.length - 1)) [(w.addr, w.words)]
            = writeWords m w.addr (w.words.take (min n (w.words.length - 1))) := rfl
        rw [hf] at hs
        simp only [takeWrites]
        rw [hs]
      · rw [if_neg hg] at h
        exact absurd h (by simp)

/-- The row that takes a record leaves the same, whichever words were taken before. -/
theorem State.recordEnd_took (s : State) (n g k : Nat) (h : takeThrough .record g k s.resolver.writes ≠ none) :
    execSlotRecordWritten g k (s.took n .slots) = execSlotRecordWritten g k s := by
  obtain ⟨⟨taken, b, rest⟩, ht⟩ := Option.ne_none_iff_exists'.mp h
  obtain ⟨later, h1, h2⟩ := takeThrough_slotWordsTaken .record g k s.resolver.writes n b s.mem taken rest ht
  have hr : (s.took n .slots).resolver.writes = (slotWordsTaken n s.resolver.writes).2 := rfl
  unfold execSlotRecordWritten
  rw [hr, h1, ht]
  simp only [State.took, State.tookSlots, State.landSlotWrites, h2]

end Sys2Proof.Machine
end

