-- ==== Sys2Proof/Laws/LocalPort.lean ====
section
/-! SUPPORT. The Local Port: whole-word writes, the classes of the watched words, the bounds of DRAM. -/

namespace Sys2Proof.Machine

theorem dramSize_bounds (l : Lines) : 536870912 ≤ l.dramSize ∧ l.dramSize ≤ 4294967296 := by
  unfold Lines.dramSize
  split <;> omega

/-- A write with every byte enabled is a whole word. -/
theorem writeEnabled_whole (m : Memory) (a : Nat) (w : Word) (en : Enables) (h : en = 15) :
    writeEnabled m a w en = writeWord m a w := by
  subst h
  simp [writeEnabled, writeEnabledByte, writeWord]

theorem State.passThrough_whole (s : State) (a : Nat) (w : Word) (en : Enables) (h : en = 15) (ha : a % 4 = 0) :
    s.passThrough a w en = { s with mem := writeWord s.mem a w } := by
  have e : a / 4 * 4 = a := by omega
  unfold State.passThrough
  rw [e, writeEnabled_whole s.mem a w en h]

theorem wholeWord_iff (en : Enables) : wholeWord en = true ↔ en = 15 := by
  simp [wholeWord]

theorem State.localClass_go (s : State) : s.localClass 0 = .go := by
  have h := dramSize_bounds s.lines
  unfold State.localClass
  rw [if_neg (by omega), if_neg (by omega), if_pos (by omega)]

theorem State.localClass_kick (s : State) (a : Anchor) (h : s.sup.anchor = some a) : s.localClass 44 = .commandKick := by
  have hd := dramSize_bounds s.lines
  unfold State.localClass
  rw [if_neg (by omega), if_neg (by omega), if_neg (by omega), h]
  rfl

theorem State.localClass_return (s : State) (a : Anchor) (h : s.sup.anchor = some a) :
    s.localClass 48 = .noticeReturn := by
  have hd := dramSize_bounds s.lines
  unfold State.localClass
  rw [if_neg (by omega), if_neg (by omega), if_neg (by omega), h]
  rfl

/-- Where the Live Directory of an anchor that passed its checks lies. -/
theorem Anchor.liveDirectory_place (a : Anchor) (d : Nat) (h : a.ok d = true) :
    a.liveDirectoryBase % 4096 = 0 ∧ 64 ≤ a.liveDirectoryBase ∧ a.liveDirectoryBase + 524288 ≤ d := by
  simp only [Anchor.ok, Bool.and_eq_true, Anchor.insideDram, Anchor.regions, Anchor.apartOk, Anchor.alignmentOk,
    List.all_cons, List.all_nil, Anchor.liveDirectory, decide_eq_true_eq, beq_iff_eq] at h
  obtain ⟨⟨⟨_, ⟨⟨⟨⟨_, _⟩, _⟩, _⟩, h1⟩, _⟩, hi⟩, _, ha⟩ := h
  have h2 := hi.2.2.2.2.1
  have h3 := ha.2.2.2.2.1
  simp only [Region.apart, Bool.or_eq_true, decide_eq_true_eq] at h3
  exact ⟨h1, by omega, h2⟩

/-- The release word of slot `k` of group `g`. -/
theorem State.localClass_release (s : State) (a : Anchor) (g k : Nat) (hg : g < 8) (hk : k < 16)
    (h : s.sup.anchor = some a) (ok : a.ok s.lines.dramSize = true) :
    releaseAddr a.liveDirectoryBase g k = a.liveDirectoryBase + 4096 * (16 * g + k) + 12
      ∧ s.localClass (releaseAddr a.liveDirectoryBase g k) = .release g k := by
  have hd := dramSize_bounds s.lines
  obtain ⟨h1, h2, h3⟩ := a.liveDirectory_place _ ok
  have e : releaseAddr a.liveDirectoryBase g k = a.liveDirectoryBase + 4096 * (16 * g + k) + 12 := by
    simp only [releaseAddr, Sys2Proof.Machine.recordAddr]
    omega
  refine ⟨e, ?_⟩
  rw [e]
  have e1 : a.liveDirectoryBase + 4096 * (16 * g + k) + 12 - a.liveDirectoryBase = 4096 * (16 * g + k) + 12 := by omega
  unfold State.localClass
  rw [if_neg (by omega), if_neg (by omega), if_neg (by omega), h]
  show a.classOf _ = _
  have hh : a.liveDirectory.holds (a.liveDirectoryBase + 4096 * (16 * g + k) + 12) = true := by
    show (decide (a.liveDirectoryBase ≤ a.liveDirectoryBase + 4096 * (16 * g + k) + 12)
      && decide (a.liveDirectoryBase + 4096 * (16 * g + k) + 12 < a.liveDirectoryBase + 524288)) = true
    rw [decide_eq_true (by omega), decide_eq_true (by omega)]
    rfl
  unfold Anchor.classOf
  rw [if_neg (by omega), if_neg (by omega), if_pos hh, e1, if_pos (by omega)]
  congr 1 <;> omega

end Sys2Proof.Machine
end

