-- ==== Sys2Proof/Laws/Ports.lean ====
section
/-! SUPPORT. What a rig port does with its requests: a handled lane write touches no queue and no load, and requests that a
port takes up are as if they arrived there one after another. -/

namespace Sys2Proof.Machine

theorem PerRig.get_set_eq {α : Type} (p : PerRig α) (r : Rig) (v : α) : (p.set r v).get r = v := by cases r <;> rfl

theorem PerRig.set_set {α : Type} (p : PerRig α) (r : Rig) (v w : α) : (p.set r v).set r w = p.set r w := by cases r <;> rfl

theorem PerRig.set_same {α : Type} (p : PerRig α) (r : Rig) (v : α) (h : p.get r = v) : p.set r v = p := by
  subst h; cases r <;> rfl

/-- What a lane write cannot change: the queues of the ports, the loads, the Channel Map and the writes in flight. -/
def Cache.traffic (x : Cache) : PerRig (List RigRequest) × List LoadRequest × Table (Option Nat) × List CacheSend :=
  (x.ports, x.loads, x.channelMap, x.sends)

section
variable (s : State)

@[simp] theorem State.traffic_claim (f : Pool → Pool) : (s.claim f).cache.traffic = s.cache.traffic := rfl
@[simp] theorem State.traffic_post (g : Option Nat) (r : Option Rig) (b : NoticeBody) :
    (s.post g r b).cache.traffic = s.cache.traffic := rfl
@[simp] theorem State.traffic_modifyContext (k : Nat) (f : Context → Context) :
    (s.modifyContext k f).cache.traffic = s.cache.traffic := rfl
@[simp] theorem State.traffic_setLane (k : Nat) (r : Rig) (l : Nat) (v : Lane) :
    (s.setLane k r l v).cache.traffic = s.cache.traffic := rfl
@[simp] theorem State.traffic_storePayload (ln : Lane) (v : Word) : (s.storePayload ln v).cache.traffic = s.cache.traffic := rfl

@[simp] theorem State.traffic_sample (r : Role) (g : Nat) (f : HealthRecord → HealthRecord) :
    (s.sample r g f).cache.traffic = s.cache.traffic := by
  unfold State.sample; split <;> rfl

@[simp] theorem State.traffic_reportExhausted (r : Rig) (g c l : Nat) :
    (s.reportExhausted r g c l).cache.traffic = s.cache.traffic := by
  unfold State.reportExhausted; split <;> rfl

@[simp] theorem State.traffic_laneAllocate (r : Rig) (g c l : Nat) :
    (s.laneAllocate r g c l).2.cache.traffic = s.cache.traffic := by
  unfold State.laneAllocate
  split
  · exact s.traffic_reportExhausted r g c l
  · unfold State.sampleDraw
    split
    · exact State.traffic_sample _ _ _ _
    · rfl

@[simp] theorem State.traffic_openIfIdle (k : Nat) (r : Rig) (l : Nat) :
    (s.openIfIdle k r l).cache.traffic = s.cache.traffic := by
  unfold State.openIfIdle
  split
  · exact s.traffic_laneAllocate r _ _ l
  · rfl

@[simp] theorem State.traffic_fillPayload (k : Nat) (r : Rig) (l w : Nat) (v : Word) (en : Enables) :
    (s.fillPayload k r l w v en).cache.traffic = s.cache.traffic := by
  unfold State.fillPayload
  dsimp only
  split
  · split <;> rfl
  · rfl

@[simp] theorem State.traffic_fillHeader (k : Nat) (r : Rig) (l h : Nat) (v : Word) (en : Enables) :
    (s.fillHeader k r l h v en).cache.traffic = s.cache.traffic := by
  unfold State.fillHeader
  dsimp only
  split
  · split <;> rfl
  · rfl

@[simp] theorem State.traffic_reportOutcome (k : Nat) (r : Rig) (o : LaneOutcome) :
    (s.reportOutcome k r o).cache.traffic = s.cache.traffic := State.traffic_sample _ _ _ _

@[simp] theorem State.traffic_settleBlock (k : Nat) (r : Rig) (ln : Lane) (o : LaneOutcome) :
    (s.settleBlock k r ln o).cache.traffic = s.cache.traffic := by cases o <;> rfl

@[simp] theorem State.traffic_commitLane (k : Nat) (r : Rig) (l : Nat) (v : Word) (en : Enables) :
    (s.commitLane k r l v en).cache.traffic = s.cache.traffic := by
  unfold State.commitLane State.closeLane
  split
  · exact s.traffic_reportOutcome k r _
  · exact (State.traffic_reportOutcome _ _ _ _).trans (State.traffic_settleBlock _ _ _ _ _)

/-- A handled lane write leaves the queues, the loads, the map and the writes in flight. -/
@[simp] theorem State.traffic_handleLaneWrite (k : Nat) (r : Rig) (w : RigWrite) :
    (s.handleLaneWrite k r w).cache.traffic = s.cache.traffic := by
  unfold State.handleLaneWrite
  split <;> simp

theorem State.ports_handleLaneWrite (k : Nat) (r : Rig) (w : RigWrite) :
    (s.handleLaneWrite k r w).cache.ports = s.cache.ports := congrArg (fun t => t.1) (s.traffic_handleLaneWrite k r w)
end

/-- A port's queue that is set to what it holds. -/
theorem State.setPort_same (s : State) (r : Rig) (q : List RigRequest) (h : s.cache.ports.get r = q) : s.setPort r q = s := by
  unfold State.setPort
  rw [PerRig.set_same _ _ _ h]

/-- Requests behind a held write wait: they join the queue. -/
theorem State.arrive_held (r : Rig) (qs : List RigRequest) : ∀ (s : State), s.cache.ports.get r ≠ [] →
    s.arrive r qs = s.setPort r (s.cache.ports.get r ++ qs) := by
  induction qs with
  | nil => intro s _; rw [List.append_nil, State.setPort_same s r _ rfl]; rfl
  | cons q qs ih =>
    intro s h
    have step : s.rigRequest r q = s.setPort r (s.cache.ports.get r ++ [q]) := by
      unfold State.rigRequest
      rw [if_neg]
      simpa using h
    have got : (s.setPort r (s.cache.ports.get r ++ [q])).cache.ports.get r = s.cache.ports.get r ++ [q] :=
      PerRig.get_set_eq _ _ _
    unfold State.arrive
    rw [List.foldl_cons, step]
    refine (ih _ (by rw [got]; simp)).trans ?_
    rw [got]
    unfold State.setPort
    rw [List.append_assoc]
    dsimp only
    rw [PerRig.set_set]
    rfl

/-! ## A handled lane write and the queues do not meet -/

section
variable (s : State) (p : Rig) (q : List RigRequest)

theorem State.setPort_sample (r : Role) (g : Nat) (f : HealthRecord → HealthRecord) :
    (s.setPort p q).sample r g f = (s.sample r g f).setPort p q := by
  unfold State.sample
  by_cases h : s.part.state = .running <;> simp [h, State.setPort] <;> rfl

theorem State.setPort_reportExhausted (r : Rig) (g c l : Nat) :
    (s.setPort p q).reportExhausted r g c l = (s.reportExhausted r g c l).setPort p q := by
  unfold State.reportExhausted
  by_cases h : s.pool.exhaustReported.get r = true
  · rw [if_pos h, if_pos (show (s.setPort p q).pool.exhaustReported.get r = true from h)]
  · rw [if_neg h, if_neg (show ¬(s.setPort p q).pool.exhaustReported.get r = true from h)]
    rfl

theorem State.setPort_laneAllocate (r : Rig) (g c l : Nat) : (s.setPort p q).laneAllocate r g c l
    = ((s.laneAllocate r g c l).1, (s.laneAllocate r g c l).2.setPort p q) := by
  unfold State.laneAllocate
  rw [show (s.setPort p q).pool.laneAllocate r ((s.setPort p q).isTarget r g) = s.pool.laneAllocate r (s.isTarget r g)
    from rfl]
  split
  · exact congrArg (Prod.mk none) (s.setPort_reportExhausted p q r g c l)
  · rename_i b c left _
    unfold State.sampleDraw
    split
    · exact congrArg (Prod.mk (some b)) (State.setPort_sample (s.claim fun _ => left.setExhausted r false) p q _ _ _)
    · rfl

theorem State.setPort_openIfIdle (k : Nat) (r : Rig) (l : Nat) :
    (s.setPort p q).openIfIdle k r l = (s.openIfIdle k r l).setPort p q := by
  unfold State.openIfIdle
  rw [show (s.setPort p q).lane k r l = s.lane k r l from rfl]
  split
  · unfold State.openLane
    rw [show (s.setPort p q).context k = s.context k from rfl, State.setPort_laneAllocate]
    rfl
  · rfl

theorem State.setPort_fillPayload (k : Nat) (r : Rig) (l w : Nat) (v : Word) (en : Enables) :
    (s.setPort p q).fillPayload k r l w v en = (s.fillPayload k r l w v en).setPort p q := by
  unfold State.fillPayload
  rw [show (s.setPort p q).lane k r l = s.lane k r l from rfl]
  dsimp only
  split
  · split <;> rfl
  · rfl

theorem State.setPort_fillHeader (k : Nat) (r : Rig) (l h : Nat) (v : Word) (en : Enables) :
    (s.setPort p q).fillHeader k r l h v en = (s.fillHeader k r l h v en).setPort p q := by
  unfold State.fillHeader
  rw [show (s.setPort p q).lane k r l = s.lane k r l from rfl]
  dsimp only
  split
  · split <;> rfl
  · rfl

theorem State.setPort_reportOutcome (k : Nat) (r : Rig) (o : LaneOutcome) :
    (s.setPort p q).reportOutcome k r o = (s.reportOutcome k r o).setPort p q := by
  unfold State.reportOutcome
  rw [State.setPort_sample]
  rfl

theorem State.setPort_settleBlock (k : Nat) (r : Rig) (ln : Lane) (o : LaneOutcome) :
    (s.setPort p q).settleBlock k r ln o = (s.settleBlock k r ln o).setPort p q := by cases o <;> rfl

theorem State.setPort_commitLane (k : Nat) (r : Rig) (l : Nat) (v : Word) (en : Enables) :
    (s.setPort p q).commitLane k r l v en = (s.commitLane k r l v en).setPort p q := by
  unfold State.commitLane
  rw [show (s.setPort p q).lane k r l = s.lane k r l from rfl]
  split
  · exact s.setPort_reportOutcome p q k r _
  · unfold State.closeLane
    rw [show (s.setPort p q).lane k r l = s.lane k r l from rfl,
      show (s.setPort p q).commitOutcome k r l v en = s.commitOutcome k r l v en from rfl,
      show (s.setPort p q).setLane k r l (s.lane k r l).closed = (s.setLane k r l (s.lane k r l).closed).setPort p q from rfl,
      State.setPort_settleBlock, State.setPort_reportOutcome]

theorem State.setPort_handleLaneWrite (k : Nat) (r : Rig) (w : RigWrite) :
    (s.setPort p q).handleLaneWrite k r w = (s.handleLaneWrite k r w).setPort p q := by
  unfold State.handleLaneWrite
  split
  · rw [State.setPort_openIfIdle, State.setPort_fillPayload]
  · rw [State.setPort_openIfIdle, State.setPort_fillHeader]
  · exact s.setPort_commitLane p q k r _ _ _
  · rfl
  · rfl
end

/-- Rig port `r` holds the queue `q`, whose first write asks for a load of channel `c`. -/
def State.holding (s : State) (r : Rig) (q : List RigRequest) (c l : Nat) : State :=
  { s.setPort r q with cache := (s.setPort r q).cache.askLoad c r l }

theorem State.ports_holding (s : State) (r : Rig) (q : List RigRequest) (c l : Nat) :
    (s.holding r q c l).cache.ports.get r = q := by
  unfold State.holding Cache.askLoad Cache.openRequest Cache.sendRead
  dsimp only
  split
  · exact PerRig.get_set_eq _ _ _
  · split
    · exact PerRig.get_set_eq _ _ _
    · split <;> exact PerRig.get_set_eq _ _ _

theorem State.setPort_holding (s : State) (r : Rig) (q q' : List RigRequest) (c l : Nat) :
    (s.holding r q c l).setPort r q' = s.holding r q' c l := by
  unfold State.holding State.setPort Cache.askLoad Cache.openRequest Cache.sendRead Cache.newRequest Cache.loading
    Cache.evicting
  cases h : s.cache.loads.any (fun p => p.channel == c) <;>
    cases h' : s.cache.contexts.any (fun e => e.2.residence == .evicting && e.2.channel == c) <;>
    cases h'' : s.cache.sends <;> simp [PerRig.set_set]

/-- A port with an empty queue that takes up requests does as if they arrived one after another. -/
theorem State.serve_eq_arrive (r : Rig) (qs : List RigRequest) : ∀ (s : State), s.cache.ports.get r = [] →
    s.serve r qs = s.arrive r qs := by
  induction qs with
  | nil => intro s h; exact State.setPort_same s r [] h
  | cons q qs ih =>
    intro s h
    have first : s.rigRequest r q = s.serve r [q] := by unfold State.rigRequest; rw [if_pos]; simp [h]
    unfold State.arrive
    rw [List.foldl_cons, first]
    cases q with
    | read a n =>
      have e : s.serve r [.read a n] = s.answerRig r a n := State.setPort_same _ r [] h
      rw [e]
      exact ih _ h
    | write w =>
      unfold State.serve
      split
      · rw [State.serve, State.setPort_same s r [] h]
        exact ih s h
      · split
        · rename_i k _
          have hp := (congrArg (fun p : PerRig (List RigRequest) => p.get r) (s.ports_handleLaneWrite k r w)).trans h
          rw [State.serve, State.setPort_same _ r [] hp]
          exact ih _ hp
        · rename_i c l _ _ _
          have held := State.arrive_held r qs (s.holding r [.write w] c l) (by rw [State.ports_holding]; simp)
          rw [State.ports_holding, State.setPort_holding] at held
          exact held.symm

/-- What a port takes up does not depend on what its queue was. -/
theorem State.serve_setPort (r : Rig) (old : List RigRequest) (qs : List RigRequest) : ∀ (s : State),
    (s.setPort r old).serve r qs = s.serve r qs := by
  have twice : ∀ (s : State) (q : List RigRequest), (s.setPort r old).setPort r q = s.setPort r q := by
    intro s q; unfold State.setPort; dsimp only; rw [PerRig.set_set]
  induction qs with
  | nil => intro s; exact twice s []
  | cons q qs ih =>
    intro s
    cases q with
    | read a n => exact ih (s.answerRig r a n)
    | write w =>
      unfold State.serve
      split
      · exact ih s
      · rename_i c l _
        rw [show (s.setPort r old).cache.mapEntry c = s.cache.mapEntry c from rfl]
        split
        · rw [State.setPort_handleLaneWrite]; exact ih _
        · dsimp only; rw [twice]

/-- The waiting port's queue is emptied and its requests arrive anew. -/
theorem State.serve_eq_emptied (s : State) (r : Rig) (qs : List RigRequest) :
    s.serve r qs = (s.setPort r []).arrive r qs := by
  rw [← State.serve_eq_arrive r qs _ (PerRig.get_set_eq _ _ _), State.serve_setPort]

end Sys2Proof.Machine
end

