-- ==== Sys2Proof/Laws/Queues.lean ====
section
/-! SUPPORT. What the operations on the Blend Job Queue, the retained lists, the reads under way and the writes in flight can
do, each said once. -/

namespace Sys2Proof.Machine

/-! ## The Blend Job Queue (R106, R108, R112) -/

/-- The head runs and every job behind it is QUEUED. -/
def BlendQueue (js : List BlendJob) : Prop := ∀ j rest, js = j :: rest → j.phase ≠ .queued ∧ ∀ i ∈ rest, i.phase = .queued

theorem BlendQueue.startHead {js : List BlendJob} (h : ∀ i ∈ js.tail, i.phase = .queued) : BlendQueue (startHead js) := by
  intro j rest e
  cases js with
  | nil => cases e
  | cons i is =>
    injection e with e1 e2
    subst e1 e2
    refine ⟨?_, h⟩
    by_cases hq : i.phase = .queued <;> simp [hq]

/-- The head leaves and the next job starts. -/
theorem BlendQueue.tail {js : List BlendJob} (h : BlendQueue js) : BlendQueue (Machine.startHead js.tail) := by
  refine BlendQueue.startHead fun i hi => ?_
  cases js with
  | nil => cases hi
  | cons j rest => exact (h j rest rfl).2 i (List.mem_of_mem_tail hi)

/-- A QUEUED job joins at the tail. -/
theorem BlendQueue.append {js : List BlendJob} (h : BlendQueue js) {j : BlendJob} (hj : j.phase = .queued) :
    BlendQueue (Machine.startHead (js ++ [j])) := by
  refine BlendQueue.startHead fun i hi => ?_
  cases js with
  | nil => cases hi
  | cons k rest =>
    rcases List.mem_append.mp hi with hi | hi
    · exact (h k rest rfl).2 i hi
    · rw [List.mem_singleton.mp hi]; exact hj

/-- A running head keeps the queue as it is when the rest may start. -/
theorem startHead_running {j : BlendJob} {js : List BlendJob} (h : j.phase ≠ .queued) :
    startHead (j :: js) = j :: js := by simp [startHead, h]

/-- At a deadline a QUEUED job stays only for a later block. -/
theorem atDeadline_queued {j : BlendJob} (h : j.phase = .queued) (period : Nat) :
    j.atDeadline period = if j.block ≤ period then none else some j := by
  by_cases hp : j.block ≤ period <;> simp [BlendJob.atDeadline, BlendJob.overdue, h, hp]

/-- At a deadline the running job stays, DRAINING if its block is heard. -/
theorem atDeadline_running {j : BlendJob} (h : j.phase ≠ .queued) (period : Nat) :
    j.atDeadline period = some (if j.block ≤ period then { j with phase := .draining } else j) := by
  by_cases hp : j.block ≤ period
  · by_cases hd : j.phase = .draining
    · cases j; simp_all [BlendJob.atDeadline, BlendJob.overdue]
    · simp [BlendJob.atDeadline, BlendJob.overdue, h, hp, hd]
  · simp [BlendJob.atDeadline, BlendJob.overdue, hp]

/-- The QUEUED jobs that a deadline leaves are those of later blocks. -/
theorem filterMap_atDeadline {js : List BlendJob} (h : ∀ i ∈ js, i.phase = .queued) (period : Nat) :
    js.filterMap (BlendJob.atDeadline period) = js.filter (fun i => decide (period < i.block)) := by
  induction js with
  | nil => rfl
  | cons j js ih =>
    rw [List.filterMap_cons, atDeadline_queued (h j List.mem_cons_self), ih fun i hi => h i (List.mem_cons_of_mem _ hi)]
    by_cases hp : j.block ≤ period
    · simp [hp, Nat.not_lt.mpr hp]
    · simp [hp, Nat.lt_of_not_le hp]

/-- The queue a deadline leaves under a running head. -/
theorem deadline_queue {j : BlendJob} {js : List BlendJob} (hj : j.phase ≠ .queued) (h : ∀ i ∈ js, i.phase = .queued)
    (period : Nat) : startHead ((j :: js).filterMap (BlendJob.atDeadline period))
      = (if j.block ≤ period then { j with phase := .draining } else j)
        :: js.filter (fun i => decide (period < i.block)) := by
  rw [List.filterMap_cons, atDeadline_running hj, filterMap_atDeadline h]
  refine startHead_running ?_
  split
  · exact (nofun : JobPhase.draining ≠ JobPhase.queued)
  · exact hj

/-! ## Retained lists (R68 to R71) -/

theorem mem_insertEntry (e f : Entry) (es : List Entry) : f ∈ insertEntry e es ↔ f = e ∨ f ∈ es := by
  induction es with
  | nil => simp [insertEntry]
  | cons x xs ih =>
    unfold insertEntry
    split
    · simp
    · rw [List.mem_cons, ih, List.mem_cons]
      exact or_left_comm

/-- A block that the list lacks enters it in rising order. -/
theorem insertEntry_rising {e : Entry} {es : List Entry} (h : es.Pairwise (fun a b => a.block < b.block))
    (new : ∀ x ∈ es, x.block ≠ e.block) : (insertEntry e es).Pairwise (fun a b => a.block < b.block) := by
  induction es with
  | nil => simp [insertEntry]
  | cons x xs ih =>
    rw [List.pairwise_cons] at h
    unfold insertEntry
    split
    · rename_i hx
      refine List.pairwise_cons.mpr ⟨fun y hy => ?_, List.pairwise_cons.mpr h⟩
      rcases List.mem_cons.mp hy with rfl | hy
      · exact hx
      · exact Nat.lt_trans hx (h.1 y hy)
    · rename_i hx
      refine List.pairwise_cons.mpr ⟨fun y hy => ?_, ih h.2 fun y hy => new y (List.mem_cons_of_mem _ hy)⟩
      rcases (mem_insertEntry e y xs).mp hy with rfl | hy
      · exact Nat.lt_of_le_of_ne (Nat.le_of_not_lt hx) (new x List.mem_cons_self)
      · exact h.1 y hy

/-- A replacement keeps the block numbers, hence their order. -/
theorem replaceEntry_rising {e : Entry} {es : List Entry} (h : es.Pairwise (fun a b => a.block < b.block)) :
    (replaceEntry e es).Pairwise (fun a b => a.block < b.block) := by
  have same : ∀ x : Entry, (if x.block = e.block then e else x).block = x.block := by
    intro x; by_cases hx : x.block = e.block <;> simp [hx]
  refine List.pairwise_map.mpr (h.imp fun {a b} hab => ?_)
  rw [same, same]; exact hab

theorem findEntry_none_iff (n : Nat) (es : List Entry) : findEntry n es = none ↔ ∀ x ∈ es, x.block ≠ n := by
  simp [findEntry]

/-! ## RESET_N (R182) -/

/-- With RESET_N high a request or an edge has its effect. -/
theorem State.unlessHeld_high {s : State} (h : s.lines.resetLow = false) (t : State) : s.unlessHeld t = t := by
  simp [State.unlessHeld, h]

/-- With RESET_N low neither a request nor an edge has one. -/
theorem State.unlessHeld_low {s : State} (h : s.lines.resetLow = true) (t : State) : s.unlessHeld t = s := by
  simp [State.unlessHeld, h]

/-! ## Local Port requests (R156, R158, R164) -/

/-- Events taken in two parts are taken one after the other, each by the state as it then stands. -/
theorem State.portEvents_append (s : State) (xs ys : List PortEvent) :
    s.portEvents (xs ++ ys) = (s.portEvents xs).portEvents ys := List.foldl_append

/-- With no read under way a write word is taken at once. -/
theorem State.localRequest_write {s : State} (h : s.burst = none) (a : Nat) (v : Word) (en : Enables) :
    s.localRequest (.write a v en) = s.localWrite a v en := by
  rw [State.localRequest, h]; rfl

/-- With no read under way a read begins at once. -/
theorem State.localRequest_read {s : State} (h : s.burst = none) (a n : Nat) :
    s.localRequest (.read a (n + 1)) = { s with burst := some (ReadBurst.new a (n + 1)) } := by
  rw [State.localRequest, h]; rfl

/-- Behind a read under way a request waits, and nothing else changes. -/
theorem State.localRequest_waits {s : State} {b : ReadBurst} (h : s.burst = some b) (q : LocalRequest) :
    s.localRequest q = { s with burst := some { b with waiting := b.waiting ++ [q] } } := by
  rw [State.localRequest, h]

/-! ## The Channel Cache's accesses in flight (R162) -/

/-- With a write-back first, or with nothing in flight, no access is taken: all stays in flight. -/
theorem State.takeSends_flying (flying : List CacheSend) (h : ∀ p, flying.head? = some p → ∃ k, p = .writeback k) (s : State) :
    s.takeSends flying = { s with cache := { s.cache with sends := flying } } := by
  cases flying with
  | nil => rfl
  | cons x rest =>
    obtain ⟨k, rfl⟩ := h x rfl
    rfl

/-- The accesses up to the first write-back are taken in the order sent: the Cached writes are in DRAM, and the rest is in
flight. -/
theorem State.takeSends_taken (flying : List CacheSend) (h : ∀ p, flying.head? = some p → ∃ k, p = .writeback k) :
    ∀ (taken : List CacheSend) (s : State), (∀ k, CacheSend.writeback k ∉ taken) →
      s.takeSends (taken ++ flying)
        = { s with mem := takeWrites s.mem (taken.map s.cacheWrite), cache := { s.cache with sends := flying } } := by
  intro taken
  induction taken with
  | nil => intro s _; exact State.takeSends_flying flying h s
  | cons x taken ih =>
    intro s hl
    have later : ∀ m, ({ s with mem := m } : State).cacheWrite = s.cacheWrite := by
      intro m; funext y; cases y <;> rfl
    have hr : ∀ k, CacheSend.writeback k ∉ taken := fun k hk => hl k (List.mem_cons_of_mem _ hk)
    cases x with
    | writeback k => exact absurd List.mem_cons_self (hl k)
    | cached c d =>
      rw [List.cons_append, State.takeSends, ih _ hr, later, List.map_cons, takeWrites]
      simp only [State.cacheWrite, writeWords]
    | read c =>
      rw [List.cons_append, State.takeSends, ih _ hr, List.map_cons, takeWrites]
      simp only [State.cacheWrite, writeWords]

/-- What is in flight once the Memory Port has gone on: nothing, or a write-back and what is behind it. -/
theorem State.takeSends_head (sends : List CacheSend) : ∀ (s : State) (p : CacheSend),
    (s.takeSends sends).cache.sends.head? = some p → ∃ k, p = .writeback k := by
  induction sends with
  | nil => intro s p h; exact absurd h (by simp [State.takeSends])
  | cons x sends ih =>
    intro s p h
    cases x with
    | writeback k => exact ⟨k, (Option.some.inj h).symm⟩
    | cached c d => exact ih _ p h
    | read c => exact ih _ p h

/-- A read sent with nothing in flight is taken at once, and else it is the last access in flight. -/
theorem Cache.sendRead_sends (x : Cache) (c : Nat) :
    (x.sendRead c).sends = if x.sends = [] then [] else x.sends ++ [.read c] := by
  unfold Cache.sendRead
  cases h : x.sends <;> simp [h]

theorem Cache.sendRead_loads (x : Cache) (c : Nat) : (x.sendRead c).loads = x.loads := by
  unfold Cache.sendRead; split <;> rfl

end Sys2Proof.Machine
end

