-- ==== Sys2Proof/WellFormed.lean ====
section
/-! DEFINITION. Well-formed commands: the operand values the rules give each row. The rest is refused by this check, and exec
still gives every command its effect. -/

namespace Sys2Proof

/-- A channel, 0 to 767 (00_scope.md 5). -/
def channelOk (c : Nat) : Bool := c < 768

/-- A lane, 0 to 3 (R35). -/
def laneOk (l : Nat) : Bool := l < 4

/-- A group, 0 to 7 (00_scope.md 5). -/
def groupOk (g : Nat) : Bool := g < 8

/-- A slot, 0 to 15 (R81). -/
def slotOk (k : Nat) : Bool := k < 16

/-- A context, 0 to 95 (chapter 4, 4.2). -/
def contextOk (k : Nat) : Bool := k < 96

/-- A word address of a rig port (R156). -/
def rigAddrOk (a : Word) : Bool := a.toNat % 4 == 0

/-- A lane address of the Source Window (R35). -/
def laneAddrOk (a : Word) : Bool := rigAddrOk a && a.toNat < 3145728

/-- A word address of the Local Port: 34 bits (R156, 10.3). -/
def localAddrOk (a : Nat) : Bool := a % 4 == 0 && a < 17179869184

/-- A read: a request has 1 to 16 words; a rig port's address space has 32 bits, and no block answers there (R156, R157). -/
def readOk (p : ReadPlace) (n : Nat) (events : List PortEvent) : Bool :=
  match p with
  | .localPort a => localAddrOk a && 1 ≤ n && n ≤ 16
  | .burst => !events.isEmpty
  | .rigPort _ a => a % 4 == 0 && a < 4294967296 && 1 ≤ n && n ≤ 16 && events.isEmpty

/-- The operands of an act at a period event. -/
def PeriodWork.wellFormed : PeriodWork → Bool
  | .laneStale c _ l => channelOk c && laneOk l
  | .streamingExpiry c => channelOk c
  | .forcedRelease g k => groupOk g && slotOk k
  | .blendDeadline => true
  | .healthWindowClose g => groupOk g

/-- The operands of a command. -/
def Instr.wellFormed : Instr → Bool
  | .blockClockEdge _ _ early => early.all PeriodWork.wellFormed
  | .clockLoss _ early => early.all PeriodWork.wellFormed
  | .synthesizedBeat _ early => early.all PeriodWork.wellFormed
  | .payloadWrite _ a _ _ => laneAddrOk a && a.toNat % 1024 < 512
  | .headerWrite _ a _ _ => laneAddrOk a && 512 ≤ a.toNat % 1024 && a.toNat % 1024 < 536
  | .commit _ a _ _ => laneAddrOk a && a.toNat % 1024 == 536
  | .rigPortUnusedWrite _ a _ _ => rigAddrOk a
  | .contextLoadReadDone c _ => channelOk c
  | .evictionWritebackEnd k => contextOk k
  | .laneStale c _ l => channelOk c && laneOk l
  | .streamingExpiry c => channelOk c
  | .slotRecordWritten g k => groupOk g && slotOk k
  | .slotHeaderWritten g (.ready k) => groupOk g && slotOk k
  | .slotHeaderWritten g (.other k) => groupOk g && slotOk k
  | .liveWindowRead p n events => readOk p n events
  | .readerRelease g k _ _ => groupOk g && slotOk k
  | .forcedRelease g k => groupOk g && slotOk k
  | .healthWindowClose g => groupOk g
  | .localPortWrite a _ _ => localAddrOk a
  | _ => true

end Sys2Proof
end

