-- ==== Sys2Proof/Tests/Slice0.lean ====
section
/-! SUPPORT. Tests: the well-formedness check, single commands on small states, and a witness for the hypotheses of every
obligation. -/

namespace Sys2Proof.Tests

open Sys2Proof.Machine

/-! ## The well-formedness check refuses -/

theorem test_wf_channel : (Instr.streamingExpiry 768).wellFormed = false := by decide
theorem test_wf_lane : (Instr.laneStale 0 .rig1 4).wellFormed = false := by decide
theorem test_wf_group : (Instr.healthWindowClose 8).wellFormed = false := by decide
theorem test_wf_slot : (Instr.forcedRelease 0 16).wellFormed = false := by decide
theorem test_wf_release_slot : (Instr.readerRelease 7 16 0 15).wellFormed = false := by decide
theorem test_wf_context : (Instr.evictionWritebackEnd 96).wellFormed = false := by decide
theorem test_wf_load_channel : (Instr.contextLoadReadDone 768 false).wellFormed = false := by decide
theorem test_wf_payload_place : (Instr.payloadWrite .rig1 512 0 15).wellFormed = false := by decide
theorem test_wf_header_place : (Instr.headerWrite .rig1 508 0 15).wellFormed = false := by decide
theorem test_wf_commit_place : (Instr.commit .rig2 540 1 15).wellFormed = false := by decide
theorem test_wf_rig_word : (Instr.rigPortUnusedWrite .rig1 2 0 15).wellFormed = false := by decide
theorem test_wf_window : (Instr.payloadWrite .rig1 3145728 0 15).wellFormed = false := by decide
theorem test_wf_local_word : (Instr.localPortWrite 6 0 15).wellFormed = false := by decide
theorem test_wf_local_range : (Instr.localPortWrite 17179869184 0 15).wellFormed = false := by decide
theorem test_wf_read_length : (Instr.liveWindowRead (.localPort 0) 17 [.answer .ok]).wellFormed = false := by decide
theorem test_wf_read_none : (Instr.liveWindowRead (.localPort 0) 0 []).wellFormed = false := by decide
theorem test_wf_read_part : (Instr.liveWindowRead .burst 0 []).wellFormed = false := by decide
theorem test_wf_rig_read_range : (Instr.liveWindowRead (.rigPort .rig1 4294967296) 1 []).wellFormed = false := by decide
theorem test_wf_rig_read_status : (Instr.liveWindowRead (.rigPort .rig1 0) 1 [.answer .ok]).wellFormed = false := by decide
theorem test_wf_ready_header : (Instr.slotHeaderWritten 8 (.ready 0)).wellFormed = false := by decide
theorem test_wf_other_header : (Instr.slotHeaderWritten 0 (.other 16)).wellFormed = false := by decide
theorem test_wf_early_work : (Instr.clockLoss 0 [.laneStale 0 .rig1 4]).wellFormed = false := by decide
theorem test_wf_beat_work : (Instr.synthesizedBeat 0 [.forcedRelease 8 0]).wellFormed = false := by decide
theorem test_wf_edge_work : (Instr.blockClockEdge 0 true [.streamingExpiry 768]).wellFormed = false := by decide
theorem test_wf_accepts_commit : (Instr.commit .rig2 (4096 * 767 + 1024 * 3 + 536) 1 15).wellFormed = true := by decide

/-! ## Small states -/

/-- An anchor with the least rings and the least pool. -/
def sampleAnchor : Anchor :=
  { commandRingBase := 64, commandRingEntries := 16, noticeRingBase := 2048, noticeRingEntries := 64, statusBase := 4096
    channelDirectoryBase := 8192, liveDirectoryBase := 65536, poolBase := 1048576, poolBuckets := 2048 }

/-- A part in state `p` under that anchor, with group 0 defined and a few buckets free. -/
def sample (p : PartState) : State :=
  { State.reset with
    part := { State.reset.part with state := p }
    pool := { base := 1048576, buckets := 2048, table := [], freeList := [1, 2], quota := ⟨1, 1⟩, commonGuard := 0
              exhaustReported := ⟨false, false⟩ }
    groups := [(0, { GroupRecord.initial with defined := true })]
    cache := { Cache.initial with horizon := 32, expectSpan := 32 }
    resolver := { Resolver.initial with resolveLead := 4, releaseGrace := 2 }
    sup := { Supervisor.initial with anchor := some sampleAnchor }
    notices := { NoticeUnit.initial with lastHanded := 63, available := 64, coalesceCount := 8, coalesceTime := 20 } }

/-- A part that executes an entry with the given words. -/
def handing (p : PartState) (words : List Word) : State :=
  (sample p).modifyCommand (fun u => { u with phase := .executing, entry := words })

/-- A LOCKED clock with N = 66,666 steps whose last beat fell at 0. -/
def lockedClock : Clock :=
  { Clock.initial with state := .locked, history := List.replicate 16 66666, nominal := some 66666, reference := some 0 }

/-- A FLYWHEEL clock with the given next beat and open window. -/
def flywheelClock (next window : Option Nat) (relock empty : Nat) : Clock :=
  { lockedClock with state := .flywheel, nextBeat := next, openWindow := window, relock := relock, emptyWindows := empty }

/-- A VALID context 0 of channel 5 in group 0, with lane 0 of Rig Port 1 as given. -/
def withLane (s : State) (ln : Lane) : State :=
  { s with cache := { s.cache with
    contexts := [(0, (Context.loaded 5 { DirEntry.undefined with defined := true } 0).setLane .rig1 0 ln)]
    channelMap := [(5, some 0)], lru := [0] } }

/-- A FILLING lane with bucket 1 and all its payload. -/
def fullLane : Lane := { Lane.initial with state := .filling, bucket := some 1, nextWord := 128 }

/-- The state a command answers satisfies the test. -/
def answers (o : Host.Outcome State Fault Refusal) (p : State → Bool) : Bool :=
  match o with
  | .next t => p t
  | _ => false

/-! ## Single commands -/

theorem test_reset_quiet : answers (exec (.reset true true false .high) (sample .running)) (fun t =>
    t.part.state == .quiet && t.lines.dramSize == 4294967296 && t.groups == []) = true := by decide

/-- RESET_N is low after reset values are taken. -/
def heldState : State := { State.reset with lines := { State.reset.lines with resetLow := true } }

theorem test_reset_low_holds : answers (exec (.reset true true false .low) (sample .running)) (fun t =>
    t.part.state == .quiet && t.lines == { State.reset.lines with resetLow := true } && t.groups == []) = true := by decide

theorem test_held_answers_nothing : answers (exec (.localPortWrite 64 1 15) heldState) (fun t => t == heldState) = true
    ∧ answers (exec (.liveWindowRead (.localPort 64) 1 []) heldState) (fun t => t == heldState) = true
    ∧ answers (exec (.blockClockEdge 5 true []) heldState) (fun t => t.clock == Clock.initial) = true := by decide

theorem test_edge_locks : answers (exec (.blockClockEdge 66666 true [])
    { sample .standby with clock := { Clock.initial with history := List.replicate 15 66666, reference := some 0 } })
    (fun t => t.clock.state == .locked && t.clock.nominal == some 66666 && t.notices.queue.length == 1) = true := by decide

theorem test_edge_glitch_resets : answers (exec (.blockClockEdge 100 true [])
    { sample .standby with clock := { Clock.initial with history := List.replicate 15 66666, reference := some 0 } })
    (fun t => t.clock.state == .noClock && t.clock.history == []) = true := by decide

theorem test_loss : answers (exec (.clockLoss 99999 []) { sample .standby with clock := lockedClock })
    (fun t => t.clock.state == .flywheel && t.clock.nextBeat == some 133332) = true := by decide

set_option maxRecDepth 20000 in
theorem test_period_event : answers (exec (.blockClockEdge 66666 true []) { sample .running with clock := lockedClock })
    (fun t => t.part.period == 1 && t.resolver.resolveFront == 1 && (t.slot 0 0).awaitingRecord) = true := by decide

theorem test_go_starts_take : answers (exec (.goWrite 1 15) (sample .standby)) (fun t =>
    t.sup.take == some .reading && readWord t.mem 0 == 1) = true := by decide

theorem test_kick_fetches : answers (exec (.commandKick 0 15) (sample .standby)) (fun t =>
    t.sup.command.phase == .fetching && t.sup.command.target == some 0) = true := by decide

theorem test_kick_behind_next : answers (exec (.commandKick 15 15) (sample .standby)) (fun t =>
    t.sup.command.phase == .idle && t.sup.command.target == none) = true := by decide

theorem test_unknown : answers (exec .unknownCommand (handing .standby [15])) (fun t =>
    t.sup.command.result == .unknownCommand && t.sup.command.phase == .writing) = true := by decide

theorem test_lock : answers (exec .lock (handing .standby [13])) (fun t => t.sup.locked && t.sup.command.result == .done)
    = true := by decide

theorem test_arm : answers (exec .armShow (handing .standby [7, 0, 100, 0])) (fun t =>
    t.part.state == .armed && t.part.period == 100 && (t.slot 0 4).block == 100 && (t.slot 0 3).block == 115) = true := by
  decide

theorem test_switch_cut : answers (exec .switch (handing .armed [9, 2, 1])) (fun t =>
    (t.group 0).selectState == .onBackup && t.lines.tallyBackup && !t.lines.tallyMain && t.notices.queue.length == 2)
    = true := by decide

theorem test_hold : answers (exec .hold (handing .running [10])) (fun t => (t.group 0).hold) = true := by decide

theorem test_payload_stored : answers (exec (.payloadWrite .rig1 (4096 * 5) 0x04030201 15)
    (withLane (sample .running) Lane.initial)) (fun t =>
    readByte t.mem (1048576 + 512 + 2) == 3 && (t.lane 0 .rig1 0).nextWord == 1 && t.pool.freeList == [2]) = true := by
  decide

theorem test_payload_spoils : answers (exec (.payloadWrite .rig1 (4096 * 5 + 8) 1 15)
    (withLane (sample .running) { Lane.initial with state := .filling, bucket := some 1, nextWord := 1 })) (fun t =>
    (t.lane 0 .rig1 0).state == .spoiled && t.mem == []) = true := by decide

theorem test_commit_incomplete : answers (exec (.commit .rig1 (4096 * 5 + 536) 1 15)
    (withLane (sample .running) { fullLane with nextWord := 127 })) (fun t =>
    (t.lane 0 .rig1 0).state == .idle && (t.context 0).damaged.rig1 == 1 && (t.healthOf 0).main.damaged == 1) = true := by
  decide

theorem test_unmapped_read : answers (exec (.liveWindowRead (.localPort 536870912) 1 [.answer .ok]) (sample .standby))
    (fun t => t.answers == [⟨[0], true⟩]) = true := by decide

theorem test_read_in_parts : answers (exec (.liveWindowRead (.localPort 64) 2 [.answer .ok]) (sample .standby)) (fun t =>
    t.answers == [] && t.burst == some { ReadBurst.new 68 1 with data := [0] }) = true := by decide

/-- A write that arrives behind a read under way waits for its last word, and is then taken (R158). -/
theorem test_write_waits : answers (exec (.localPortWrite 128 7 15)
    { sample .standby with burst := some (ReadBurst.new 64 1) }) (fun t =>
    t.mem == [] && t.burst == some { ReadBurst.new 64 1 with waiting := [.write 128 7 15] }
      && answers (exec (.liveWindowRead .burst 0 [.answer .ok]) t) (fun u =>
        u.answers == [⟨[0], false⟩] && u.burst == none && readWord u.mem 128 == 7)) = true := by decide

/-- Two words of a write in flight are taken before its end, and a read sees them (R162). -/
theorem test_words_taken : answers (exec (.liveWindowRead (.localPort 4100) 1 [.took .status 2, .answer .ok])
    { sample .standby with sup := { (sample .standby).sup with status := ⟨0, some ⟨4096, [5, 6, 7]⟩, false⟩ } }) (fun t =>
    t.answers == [⟨[6], false⟩] && readWord t.mem 4104 == 0
      && t.sup.status.writing == some { base := 4104, words := [7] }) = true := by decide

theorem test_rig_read_zeros : answers (exec (.liveWindowRead (.rigPort .rig1 0) 2 []) (sample .quiet)) (fun t =>
    t.rigAnswers == ⟨[⟨[0, 0], false⟩], []⟩) = true := by decide

theorem test_guarded_write : answers (exec (.localPortWrite 8192 7 15) (sample .standby)) (fun t => t.mem == []) = true := by
  decide

theorem test_sub_word_passes : answers (exec (.localPortWrite 128 0x11223344 5) (sample .standby)) (fun t =>
    readWord t.mem 128 == 0x00220044) = true := by decide

set_option maxRecDepth 20000 in
/-- R39: the CRC-32 of 128 payload words, here of the first one: four zero bytes give 0x2144DF1C. -/
theorem test_crc : crcWord 0xFFFFFFFF 0 ^^^ 0xFFFFFFFF = 0x2144DF1C := by decide

/-- R110: a sum of −98,562 gives −2. -/
theorem test_crossfade_floor : crossfade (BitVec.ofInt 32 (-2)) (BitVec.ofInt 32 (-1)) 32510 = BitVec.ofInt 32 (-2) := by
  decide

/-! ## States for the witnesses -/

/-- A STANDBY part with a status write of one word in flight. -/
def writingStatus (followUp : Bool) : State :=
  { sample .standby with sup := { (sample .standby).sup with status := ⟨0, some ⟨64, [1]⟩, followUp⟩ } }

/-- A clock in NO_CLOCK with `n` accepted intervals. -/
def collecting (n : Nat) (r : Option Nat) : State :=
  { sample .standby with clock := { Clock.initial with history := List.replicate n 66666, reference := r } }

/-- A RUNNING part under a LOCKED clock. -/
def running (guarded : Bool) (start : Nat) : State :=
  { sample .running with
    clock := lockedClock
    part := { (sample .running).part with startGuard := guarded, startInstant := start } }

/-- Group 0 has the given record. -/
def withGroup (s : State) (gr : GroupRecord) : State := { s with groups := [(0, { gr with defined := true })] }

/-- The Takeover line has been low since the given instant. -/
def lowLine (p : PartState) (since : Option Nat) (follow : Bool) (sel : SelectState) : State :=
  withGroup { sample p with lines := { (sample p).lines with takeoverLowSince := since } }
    { GroupRecord.initial with followLine := follow, selectState := sel }

/-- An anchor take is in progress. -/
def taking (p : PartState) (t : AnchorTake) : State := { sample p with sup := { (sample p).sup with take := some t } }

/-- A Go waits. -/
def goWaits (p : PartState) : State := { sample p with sup := { (sample p).sup with goPending := true } }

/-- A Go waits too. -/
def goHeld (s : State) : State := { s with sup := { s.sup with goPending := true } }

/-- DRAM with the sample anchor in words 2 to 10. -/
def anchorMem : Memory := writeWords [] 8 [64, 16, 2048, 64, 4096, 8192, 65536, 1048576, 2048]

/-- The Command Unit fetches entry 0. -/
def fetching (m : Memory) : State :=
  { sample .standby with
    mem := m
    sup := { (sample .standby).sup with command := { CommandUnit.initial with phase := .fetching, target := some 0 } } }

/-- The Command Unit writes the result of an entry whose Notify bit is set. -/
def finishing (r : ResultCode) (target : Option Nat) (next : Nat) : State :=
  (sample .standby).modifyCommand (fun u =>
    { u with phase := .writing, entry := [0x40000007], result := r, resultData := [0, 0, 0, 0, 0], target := target
             next := next })

/-- The part is Locked. -/
def lockedUp (s : State) : State := { s with sup := { s.sup with locked := true } }

/-- A blend job of channel 5 for block 0 of group 0 in a phase, with its output samples or none. -/
def sampleJob (ph : JobPhase) (out : Option (List Word)) : BlendJob :=
  { group := 0, block := 0, channel := 5, old := 1, new := 2, output := 3, fadeIndex := 0, fadeLength := 1, phase := ph
    samples := out }

/-- The jobs are on the Blend Job Queue. -/
def withJobs (s : State) (js : List BlendJob) : State := { s with blend := js }

/-- A VALID context of channel `c`. -/
def contextOf (c : Nat) : Context := Context.loaded c { DirEntry.undefined with defined := true } 0

/-- A load request of channel 6, with its starter waiting or not. -/
def sampleRequest (waits : Bool) : LoadRequest :=
  { channel := 6, starter := .rig1, starterLane := 0, waiting := ⟨waits, false⟩, stage := .reading }

/-- The payload write to lane 0 of channel 6 that a rig port holds. -/
def heldWrite : RigWrite := ⟨24576, 1, 15⟩

/-- A load of channel 6 is reading, and Rig Port 1 holds the write that started it. -/
def loadingState (s : State) : State :=
  { s with cache := { s.cache with loads := [sampleRequest true], ports := ⟨[.write heldWrite], []⟩ } }

/-- The load of channel 6, which DRAM defines, over the given contexts and with the given writes in flight. -/
def definedLoad (contexts : Table Context) (lru : List Nat) (sends : List CacheSend) : State :=
  let s := loadingState (sample .running)
  { s with mem := [(8192 + 192, 1)], cache := { s.cache with contexts := contexts, lru := lru, sends := sends } }

/-- Ninety-six VALID contexts, streaming or not. -/
def fullCache (streaming : Bool) : Table Context :=
  (List.range 96).map (fun k => (k, { contextOf (100 + k) with streaming := streaming }))

/-- The request of channel 6 evicts context 3 and has read that its channel is defined. -/
def evictingRequest (waits : Bool) : LoadRequest :=
  { sampleRequest waits with stage := .evicting 3 { DirEntry.undefined with defined := true } }

/-- Context 3 of channel 5 is EVICTING for the load of channel 6, whose write Rig Port 1 holds; `rest` is in flight behind
its write-back. -/
def evictingState (rest : List CacheSend) : State :=
  { sample .running with
    cache := { (sample .running).cache with
      contexts := [(3, { contextOf 5 with residence := .evicting })]
      loads := [evictingRequest true], ports := ⟨[.write heldWrite], []⟩, sends := .writeback 3 :: rest } }

/-- A load of channel 5 waits for the write-back of that channel, for Rig Port 2. -/
def alsoWaiting (s : State) : State :=
  { s with
    cache := { s.cache with
      loads := s.cache.loads ++
        [{ channel := 5, starter := .rig2, starterLane := 0, waiting := ⟨false, true⟩, stage := .waitWriteback }] } }

/-- The part is in step 5 of an End Show teardown with the loads in flight. -/
def waitingLoads (s : State) (loads : List LoadRequest) : State :=
  { s with
    part := { s.part with state := .standby }
    cache := { s.cache with loads := loads, ports := ⟨[], []⟩ }
    sup := { (handing .standby [8]).sup with teardown := some .waitingLoads } }

/-- Slot `k` of group 0 as given. -/
def withSlot (s : State) (k : Nat) (sl : Slot) : State := s.modifySlot 0 k (fun _ => sl)

/-- The verdicts of group 0. -/
def judgedAs (s : State) (main backup : RigVerdict) (agreement : AgreementVerdict) : State :=
  { s with health := [(0, { GroupHealth.initial with
      main := { HealthRecord.start with verdict := main }
      backup := { HealthRecord.start with verdict := backup }
      agreement := { AgreementRecord.start with verdict := agreement } })] }

/-- A write to the record of slot 0. -/
def sampleWrite (k : SlotWriteKind) : SlotWrite :=
  { kind := k, group := 0, slot := 0, block := 0, addr := 65536, words := [0] }

/-- Slot 0 waits for a write that stands behind another. -/
def slotWriting (k : SlotWriteKind) (outstanding : Nat) (record header : Bool) : State :=
  withSlot { sample .running with resolver :=
      { Resolver.initial with releaseGrace := 2, writes := [sampleWrite .other, sampleWrite k] } } 0
    { Slot.initial with outstanding := outstanding, awaitingRecord := record, awaitingHeader := header }

/-- Slot `k` is READY with block `k` while Period is `period`. -/
def readySlot (k period : Nat) : State :=
  withSlot { sample .running with part := { (sample .running).part with period := period } } k
    { Slot.initial with state := .ready, block := k }

/-- A window of group 0 that is due, with the given figures. -/
def judged (damaged compared disagreed : Nat) : GroupHealth :=
  { GroupHealth.initial with
    windowOpen := true
    main := { HealthRecord.start with damaged := damaged }
    agreement := { AgreementRecord.start with compared := compared, disagreed := disagreed } }

/-- A RUNNING part with that window. -/
def judging (damaged compared disagreed : Nat) : State :=
  { sample .running with health := [(0, judged damaged compared disagreed)] }

/-- A Streaming context of channel 5 whose lane opened, and whose last commit fell, in Period 0. -/
def aged (p : PartState) (ln : Lane) (period : Nat) : State :=
  ({ withLane (sample p) ln with part := { (sample p).part with period := period } }).modifyContext 0
    (fun x => { x with streaming := true })

/-- A Streaming context of channel 5 in group 0 with the given retained lists. -/
def streamingChannel (rig1 rig2 : List Entry) : State :=
  (withLane (sample .running) Lane.initial).modifyContext 0 (fun x => { x with streaming := true, lists := ⟨rig1, rig2⟩ })

/-- A complete lane whose header is right for block `n` of channel 5. -/
def goodLane (n : Nat) : Lane :=
  { fullLane with crc := 1, header := [(0, 1), (1, 5), (2, word n), (4, 0xFFFFFFFE)] }

/-- The lane's context holds an entry in the list of Rig Port 1. -/
def withLaneAndEntry (ln : Lane) (e : Entry) : State :=
  let s := withLane (sample .running) ln
  { s with pool := { s.pool with table := [(1, ⟨.filling, 0, .quota .rig1⟩), (2, ⟨.retained, 0, .common .rig1⟩)]
                                 freeList := [] } }.modifyContext 0 (fun x => { x with lists := ⟨[e], []⟩ })

/-- A pool of `n` buckets with no quotas. -/
def withPool (s : State) (n : Nat) : State := { s with pool := { s.pool with buckets := n, quota := ⟨0, 0⟩ } }

/-- Configure Bridge with CoalesceCount 2 and CoalesceTime 1, one entry unreturned since 0, at instant `now`. -/
def tested (now : Nat) : State :=
  { handing .standby [1, 0, 0, 0, 0, 0, 0x00010114, 4, 0x00010002] with
    timer := ⟨now, false, false⟩, notices := { NoticeUnit.initial with available := 63 } }

/-- MAIN's record of group 0 with `misses` and the setting MissTrip. -/
def tripping (p : PartState) (misses trip : Nat) : State :=
  { sample p with health := [(0, { GroupHealth.initial with
      settings := { HealthSettings.unset with missTrip := trip }
      main := { HealthRecord.start with misses := misses } })] }

/-- Every slot of group 0 is RELEASED. -/
def releasedRing (s : State) : State :=
  (List.range 16).foldl (fun t k => t.modifySlot 0 k (fun sl => { sl with state := .released })) s

/-- Two notices are in the ring and not handed back. -/
def returning (last : Nat) : State :=
  { sample .standby with notices := { (sample .standby).notices with lastHanded := last, available := 62 } }

/-- A pending notice. -/
def sampleNotice : Notice := { group := none, source := none, period := 0, body := .readerLate 0 }

/-- One notice is pending, being written or not. -/
def noticing (writing : Bool) : State :=
  { sample .standby with notices := { (sample .standby).notices with queue := [sampleNotice], writing := writing } }

/-- A pool of three buckets under its laws: bucket 1 retained on the quota of rig 1, bucket 2 free. -/
def smallPool : Pool :=
  { base := 1048576, buckets := 3, table := [(1, ⟨.retained, 0, .quota .rig1⟩)], freeList := [2], quota := ⟨1, 0⟩
    commonGuard := 0, exhaustReported := ⟨false, false⟩ }

/-- A RUNNING part with that pool and a command waiting. -/
def lawful : State := { sample .running with pool := smallPool, mem := [(64, 1)], pending := [.lock] }

theorem smallPool_law : smallPool.Law where
  canonical := by decide
  inRange := by decide
  inUse := by decide
  nodup := by decide
  free := by
    intro b
    match b with
    | 0 => decide
    | 1 => decide
    | 2 => decide
    | b + 3 =>
      constructor
      · intro h; simp [smallPool] at h
      · intro h; exact absurd h.2.1 (by simp [smallPool])
  count := by decide

theorem lawful_inv : lawful.Inv := ⟨by decide, smallPool_law⟩

theorem lawful_order : lawful.Order where
  quota := by intro r; cases r <;> decide
  common := by decide
  blend := by decide
  atRest := by intro h; exact absurd h (by decide)
  ports := by intro h; exact absurd h (by decide)
  takeAlone := by intro h; exact absurd rfl h
  takeOk := by intro a h; cases h
  anchorOk := by intro a h; cases h; decide
  teardown := by intro h; exact absurd rfl h
  contexts := by decide
  result := by intro h; cases h

theorem lawful_shape : lawful.Shape where
  running := by intro j js h; cases h
  room := by decide
  samples := by intro j h; cases h
  waits := by intro _ q h; cases h
  oneLoad := by intro r; cases r <;> decide
  held := by intro r _ q h; cases h
  twoLoads := by decide
  sends := by intro x xs h; cases h
  channels := by decide
  writtenBack := by intro ws h; cases h
  lists := by intro k r; cases r <;> exact List.Pairwise.nil
  notices := by decide
  burst := by intro b h; cases h
  inReset := by intro h; cases h
  landed := ⟨fun h => absurd h (by decide), fun h => absurd h (by decide), fun h => absurd h (by decide),
    fun h => absurd h (by decide), fun h => absurd h (by decide), by decide⟩

/-! ## A witness for the hypotheses of every obligation, clause by clause -/

theorem test_witness_EmptyQueueIsOneTick :
    (∃ s : State, s.pending = []) :=
  ⟨State.reset, by decide⟩

/-- A part held in reset, at the values of reset. -/
theorem test_witness_ResetCommand_held : ∃ (c : Instr) (s : State), s.lines.resetLow = true ∧ s.Fresh
    ∧ ∀ b a l h, c ≠ .reset b a l h :=
  ⟨.lock, heldState, rfl, by unfold State.Fresh; decide, fun _ _ _ _ h => by cases h⟩

/-- A command that neither touches the clock, the show state, the timer nor DRAM, and answers a next state. -/
theorem test_witness_ClockAndPartFrame : ∃ (c : Instr) (s t : State), exec c s = .next t ∧ drivesClock c = false
    ∧ drivesPart c = false ∧ drivesTimer c = false :=
  ⟨.noticeWriteBegin, State.reset, State.reset, rfl, rfl, rfl, rfl⟩

/-- The same command is the witness of the second frame. -/
theorem test_witness_DramAndLinesFrame : ∃ (c : Instr) (s t : State), exec c s = .next t ∧ writesDram c = false
    ∧ (∀ b a l h, c ≠ .reset b a l h) ∧ (∀ p n ev, c ≠ .liveWindowRead p n ev) ∧ answersRig c = false
    ∧ writesLocal c = false :=
  ⟨.noticeWriteBegin, State.reset, State.reset, rfl, rfl, (fun _ _ _ _ h => by cases h), (fun _ _ _ h => by cases h),
   rfl, rfl⟩

/-- A status write of one word is in flight at 64: bytes 63 and 68 lie outside it. -/
theorem test_witness_ResetCommand : ∃ s : State, (∀ an, s.sup.take ≠ some (.initialising an))
    ∧ (∀ x ∈ [63, 68], ∀ w ∈ s.statusInFlight ++ s.noticeInFlight ++ s.resultInFlight ++ s.teardownInFlight
        ++ s.evictionsInFlight ++ s.blendInFlight ++ s.slotsInFlight, x < w.1 ∨ w.1 + 4 * w.2.length ≤ x)
    ∧ s.statusInFlight ≠ [] :=
  ⟨writingStatus false, (fun _ h => by cases h), by decide, by decide⟩

theorem test_witness_ReferenceClockStops :
    (∃ s : State, s.timer.refclkStopped = true ∧ s.timer.heldCounted = false)
    ∧ (∃ s : State, s.timer.refclkStopped = true ∧ s.timer.heldCounted = true)
    ∧ (∃ s : State, s.timer.refclkStopped = false) :=
  ⟨⟨{ sample .standby with timer := ⟨7, true, false⟩ }, by decide⟩,
   ⟨{ sample .standby with timer := ⟨7, true, true⟩ }, by decide⟩,
   ⟨sample .standby, by decide⟩⟩

theorem test_witness_CollectingGainsLock :
    (∃ s : State, s.timer.refclkStopped = false ∧ s.clock.state = .noClock ∧ s.clock.reference = none ∧
        s.lines.resetLow = false)
    ∧ (∃ (dt : Nat) (s : State), dt = 12499 ∧ s.timer.refclkStopped = false ∧ s.clock.state = .noClock ∧
        s.clock.reference = some 0 ∧ (¬(12500 ≤ s.timer.now + dt - 0 ∧ s.timer.now + dt - 0 ≤ 250000)) ∧
        s.lines.resetLow = false)
    ∧ (∃ (dt : Nat) (s : State), dt = 250001 ∧ s.timer.refclkStopped = false ∧ s.clock.state = .noClock ∧
        s.clock.reference = some 0 ∧ (¬(12500 ≤ s.timer.now + dt - 0 ∧ s.timer.now + dt - 0 ≤ 250000)) ∧
        s.lines.resetLow = false)
    ∧ (∃ (dt : Nat) (s : State), dt = 12500 ∧ s.timer.refclkStopped = false ∧ s.clock.state = .noClock ∧
        s.clock.reference = some 0 ∧ 12500 ≤ s.timer.now + dt - 0 ∧ s.timer.now + dt - 0 ≤ 250000 ∧
        s.clock.history.length < 15 ∧ s.lines.resetLow = false)
    ∧ (∃ (dt : Nat) (s : State), dt = 250000 ∧ s.timer.refclkStopped = false ∧ s.clock.state = .noClock ∧
        s.clock.reference = some 0 ∧ 12500 ≤ s.timer.now + dt - 0 ∧ s.timer.now + dt - 0 ≤ 250000 ∧
        s.clock.history.length < 15 ∧ s.lines.resetLow = false)
    ∧ (∃ (dt : Nat) (s : State), dt = 12500 ∧ s.timer.refclkStopped = false ∧ s.clock.state = .noClock ∧
        s.clock.reference = some 0 ∧ 12500 ≤ s.timer.now + dt - 0 ∧ s.timer.now + dt - 0 ≤ 250000 ∧
        s.clock.history.length = 15 ∧ s.lines.resetLow = false)
    ∧ (∃ (dt : Nat) (s : State), dt = 250000 ∧ s.timer.refclkStopped = false ∧ s.clock.state = .noClock ∧
        s.clock.reference = some 0 ∧ 12500 ≤ s.timer.now + dt - 0 ∧ s.timer.now + dt - 0 ≤ 250000 ∧
        s.clock.history.length = 15 ∧ s.lines.resetLow = false) :=
  ⟨⟨collecting 0 none, by decide⟩,
   ⟨12499, collecting 15 (some 0), by decide⟩,
   ⟨250001, collecting 15 (some 0), by decide⟩,
   ⟨12500, collecting 14 (some 0), by decide⟩,
   ⟨250000, collecting 14 (some 0), by decide⟩,
   ⟨12500, collecting 15 (some 0), by decide⟩,
   ⟨250000, collecting 15 (some 0), by decide⟩⟩

theorem test_witness_LockedEdge :
    (∃ (dt n : Nat) (s : State), dt = 33333 ∧ s.timer.refclkStopped = false ∧ s.clock.state = .locked ∧
        s.clock.reference = some 0 ∧ s.clock.nominal = some n ∧ n ≤ 2 * (s.timer.now + dt - 0) ∧
        2 * (s.timer.now + dt - 0) ≤ 3 * n ∧ s.part.state = .running ∧ s.part.startGuard = false ∧
        s.lines.resetLow = false)
    ∧ (∃ (dt n : Nat) (s : State), dt = 33332 ∧ s.timer.refclkStopped = false ∧ s.clock.state = .locked ∧
        s.clock.reference = some 0 ∧ s.clock.nominal = some n ∧ 2 * (s.timer.now + dt - 0) < n ∧
        s.lines.resetLow = false)
    ∧ (∃ (dt n : Nat) (s : State), dt = 33333 ∧ s.timer.refclkStopped = false ∧ s.clock.state = .locked ∧
        s.clock.reference = some 0 ∧ s.clock.nominal = some n ∧ n ≤ 2 * (s.timer.now + dt - 0) ∧
        2 * (s.timer.now + dt - 0) ≤ 3 * n ∧ s.part.state ≠ .running ∧ s.lines.resetLow = false)
    ∧ (∃ (dt n : Nat) (s : State), dt = 99999 ∧ s.timer.refclkStopped = false ∧ s.clock.state = .locked ∧
        s.clock.reference = some 0 ∧ s.clock.nominal = some n ∧ n ≤ 2 * (s.timer.now + dt - 0) ∧
        2 * (s.timer.now + dt - 0) ≤ 3 * n ∧ s.part.state ≠ .running ∧ s.lines.resetLow = false) :=
  ⟨⟨33333, 66666, running false 0, by decide⟩,
   ⟨33332, 66666, { sample .standby with clock := lockedClock }, by decide⟩,
   ⟨33333, 66666, { sample .standby with clock := lockedClock }, by decide⟩,
   ⟨99999, 66666, { sample .standby with clock := lockedClock }, by decide⟩⟩

theorem test_witness_PeriodEventOfBeat :
    (∃ (dt n : Nat) (s : State), dt = 53332 ∧ s.timer.refclkStopped = false ∧ s.clock.state = .locked ∧
        s.clock.reference = some 0 ∧ s.clock.nominal = some n ∧ s.part.state = .running ∧
        n ≤ 2 * (s.timer.now + dt - 0) ∧ 2 * (s.timer.now + dt - 0) ≤ 3 * n ∧ s.part.startGuard = true ∧
        2 * (s.timer.now + dt - s.part.startInstant) < n ∧ s.lines.resetLow = false)
    ∧ (∃ (dt n : Nat) (s : State), dt = 53333 ∧ s.timer.refclkStopped = false ∧ s.clock.state = .locked ∧
        s.clock.reference = some 0 ∧ s.clock.nominal = some n ∧ s.part.state = .running ∧
        n ≤ 2 * (s.timer.now + dt - 0) ∧ 2 * (s.timer.now + dt - 0) ≤ 3 * n ∧ s.part.startGuard = true ∧
        (s.part.startGuard = false ∨ n ≤ 2 * (s.timer.now + dt - s.part.startInstant)) ∧ s.lines.resetLow = false)
    ∧ (∃ (dt n : Nat) (s : State), dt = 33333 ∧ s.timer.refclkStopped = false ∧ s.clock.state = .locked ∧
        s.clock.reference = some 0 ∧ s.clock.nominal = some n ∧ s.part.state = .running ∧
        n ≤ 2 * (s.timer.now + dt - 0) ∧ 2 * (s.timer.now + dt - 0) ≤ 3 * n ∧ s.part.startGuard = false ∧
        (s.part.startGuard = false ∨ n ≤ 2 * (s.timer.now + dt - s.part.startInstant)) ∧ s.lines.resetLow = false)
    ∧ (∃ (dt n : Nat) (s : State) (a : Anchor), s.timer.refclkStopped = false ∧ s.clock.state = .locked ∧
        s.clock.reference = some 0 ∧ s.clock.nominal = some n ∧ s.part.state = .running ∧
        n ≤ 2 * (s.timer.now + dt - 0) ∧ 2 * (s.timer.now + dt - 0) ≤ 3 * n ∧
        (s.part.startGuard = false ∨ n ≤ 2 * (s.timer.now + dt - s.part.startInstant)) ∧ s.sup.anchor = some a ∧
        s.sup.status.writing = none ∧ s.sup.take = none ∧ s.lines.resetLow = false)
    ∧ (∃ (dt n : Nat) (s : State) (a : Anchor), s.timer.refclkStopped = false ∧ s.clock.state = .locked ∧
        s.clock.reference = some 0 ∧ s.clock.nominal = some n ∧ s.part.state = .running ∧
        n ≤ 2 * (s.timer.now + dt - 0) ∧ 2 * (s.timer.now + dt - 0) ≤ 3 * n ∧
        (s.part.startGuard = false ∨ n ≤ 2 * (s.timer.now + dt - s.part.startInstant)) ∧ s.sup.anchor = some a ∧
        s.sup.status.writing ≠ none ∧ s.lines.resetLow = false) :=
  ⟨⟨53332, 66666, running true 20000, by decide⟩,
   ⟨53333, 66666, running true 20000, by decide⟩,
   ⟨33333, 66666, running false 20000, by decide⟩,
   ⟨33333, 66666, running false 0, sampleAnchor, by decide⟩,
   ⟨33333, 66666, { running false 0 with sup := (writingStatus false).sup }, sampleAnchor, by decide⟩⟩

theorem test_witness_LossOfClock :
    (∃ (dt n : Nat) (s : State), dt = 99998 ∧ s.timer.refclkStopped = false ∧ s.clock.state = .locked ∧
        s.clock.reference = some 0 ∧ s.clock.nominal = some n ∧ 2 * (s.timer.now + dt - 0) < 3 * n)
    ∧ (∃ (dt n : Nat) (s : State), dt = 99999 ∧ s.timer.refclkStopped = false ∧ s.clock.state = .locked ∧
        s.clock.reference = some 0 ∧ s.clock.nominal = some n ∧ 3 * n ≤ 2 * (s.timer.now + dt - 0) ∧
        s.part.state ≠ .running)
    ∧ (∃ (dt n : Nat) (s : State), dt = 99999 ∧ s.timer.refclkStopped = false ∧ s.clock.state = .locked ∧
        s.clock.reference = some 0 ∧ s.clock.nominal = some n ∧ 3 * n ≤ 2 * (s.timer.now + dt - 0) ∧
        s.part.state = .running ∧ (s.part.startGuard = false ∨ n ≤ 2 * (s.timer.now + dt - s.part.startInstant))) :=
  ⟨⟨99998, 66666, { sample .standby with clock := lockedClock }, by decide⟩,
   ⟨99999, 66666, { sample .standby with clock := lockedClock }, by decide⟩,
   ⟨99999, 66666, running false 0, by decide⟩⟩

theorem test_witness_SynthesizedBeat :
    (∃ (dt sb n : Nat) (s : State), dt = 99 ∧ s.timer.refclkStopped = false ∧ s.clock.state = .flywheel ∧
        s.clock.nominal = some n ∧ s.clock.nextBeat = some sb ∧ s.clock.openWindow = none ∧ s.timer.now + dt < sb)
    ∧ (∃ (dt sb n : Nat) (s : State), dt = 100 ∧ s.timer.refclkStopped = false ∧ s.clock.state = .flywheel ∧
        s.clock.nominal = some n ∧ s.clock.nextBeat = some sb ∧ s.clock.openWindow = none ∧ sb ≤ s.timer.now + dt ∧
        s.part.state ≠ .running)
    ∧ (∃ (dt sb n : Nat) (s : State), dt = 100 ∧ s.timer.refclkStopped = false ∧ s.clock.state = .flywheel ∧
        s.clock.nominal = some n ∧ s.clock.nextBeat = some sb ∧ s.clock.openWindow = none ∧ sb ≤ s.timer.now + dt ∧
        s.part.state = .running ∧ (s.part.startGuard = false ∨ n ≤ 2 * (s.timer.now + dt - s.part.startInstant))) :=
  ⟨⟨99, 100, 66666, { sample .standby with clock := flywheelClock (some 100) none 0 0 }, by decide⟩,
   ⟨100, 100, 66666, { sample .standby with clock := flywheelClock (some 100) none 0 0 }, by decide⟩,
   ⟨100, 100, 66666, { sample .running with clock := flywheelClock (some 100) none 0 0 }, by decide⟩⟩

theorem test_witness_FlywheelEdge :
    (∃ (dt w n : Nat) (s : State), dt = 16666 ∧ s.timer.refclkStopped = false ∧ s.clock.state = .flywheel ∧
        s.clock.nominal = some n ∧ s.clock.openWindow = some w ∧ 4 * (s.timer.now + dt) ≤ 4 * w + n ∧
        s.clock.relock < 3 ∧ s.lines.resetLow = false)
    ∧ (∃ (dt w n : Nat) (s : State), dt = 16666 ∧ s.timer.refclkStopped = false ∧ s.clock.state = .flywheel ∧
        s.clock.nominal = some n ∧ s.clock.openWindow = some w ∧ 4 * (s.timer.now + dt) ≤ 4 * w + n ∧
        s.clock.relock = 3 ∧ s.lines.resetLow = false)
    ∧ (∃ (dt sb n : Nat) (s : State), dt = 83333 ∧ s.timer.refclkStopped = false ∧ s.clock.state = .flywheel ∧
        s.clock.nominal = some n ∧ s.clock.nextBeat = some sb ∧ s.clock.openWindow = none ∧
        4 * (s.timer.now + dt) + n < 4 * sb ∧ s.lines.resetLow = false)
    ∧ (∃ (dt sb n : Nat) (s : State), dt = 83334 ∧ s.timer.refclkStopped = false ∧ s.clock.state = .flywheel ∧
        s.clock.nominal = some n ∧ s.clock.nextBeat = some sb ∧ s.clock.openWindow = none ∧
        4 * sb ≤ 4 * (s.timer.now + dt) + n ∧ s.timer.now + dt < sb ∧ s.clock.relock < 3 ∧ s.part.state ≠ .running ∧
        s.lines.resetLow = false)
    ∧ (∃ (dt sb n : Nat) (s : State), dt = 99999 ∧ s.timer.refclkStopped = false ∧ s.clock.state = .flywheel ∧
        s.clock.nominal = some n ∧ s.clock.nextBeat = some sb ∧ s.clock.openWindow = none ∧
        4 * sb ≤ 4 * (s.timer.now + dt) + n ∧ s.timer.now + dt < sb ∧ s.clock.relock < 3 ∧ s.part.state = .running ∧
        (s.part.startGuard = false ∨ n ≤ 2 * (s.timer.now + dt - s.part.startInstant)) ∧ s.lines.resetLow = false)
    ∧ (∃ (dt sb n : Nat) (s : State), dt = 83334 ∧ s.timer.refclkStopped = false ∧ s.clock.state = .flywheel ∧
        s.clock.nominal = some n ∧ s.clock.nextBeat = some sb ∧ s.clock.openWindow = none ∧
        4 * sb ≤ 4 * (s.timer.now + dt) + n ∧ s.timer.now + dt < sb ∧ s.clock.relock = 3 ∧ s.part.state ≠ .running ∧
        s.lines.resetLow = false)
    ∧ (∃ (dt sb n : Nat) (s : State), dt = 99999 ∧ s.timer.refclkStopped = false ∧ s.clock.state = .flywheel ∧
        s.clock.nominal = some n ∧ s.clock.nextBeat = some sb ∧ s.clock.openWindow = none ∧
        4 * sb ≤ 4 * (s.timer.now + dt) + n ∧ s.timer.now + dt < sb ∧ s.clock.relock = 3 ∧ s.part.state = .running ∧
        (s.part.startGuard = false ∨ n ≤ 2 * (s.timer.now + dt - s.part.startInstant)) ∧ s.lines.resetLow = false) :=
  ⟨⟨16666, 0, 66666, { sample .standby with clock := flywheelClock (some 66666) (some 0) 2 0 }, by decide⟩,
   ⟨16666, 0, 66666, { sample .standby with clock := flywheelClock (some 66666) (some 0) 3 0 }, by decide⟩,
   ⟨83333, 100000, 66666, { sample .standby with clock := flywheelClock (some 100000) none 2 0 }, by decide⟩,
   ⟨83334, 100000, 66666, { sample .standby with clock := flywheelClock (some 100000) none 2 0 }, by decide⟩,
   ⟨99999, 100000, 66666, { sample .running with clock := flywheelClock (some 100000) none 0 0 }, by decide⟩,
   ⟨83334, 100000, 66666, { sample .standby with clock := flywheelClock (some 100000) none 3 0 }, by decide⟩,
   ⟨99999, 100000, 66666, { sample .running with clock := flywheelClock (some 100000) none 3 0 }, by decide⟩⟩

theorem test_witness_AcceptanceWindowClose :
    (∃ (dt w n : Nat) (s : State), dt = 16666 ∧ s.timer.refclkStopped = false ∧ s.clock.state = .flywheel ∧
        s.clock.nominal = some n ∧ s.clock.openWindow = some w ∧ 4 * (s.timer.now + dt) ≤ 4 * w + n)
    ∧ (∃ (dt w n : Nat) (s : State), dt = 16667 ∧ s.timer.refclkStopped = false ∧ s.clock.state = .flywheel ∧
        s.clock.nominal = some n ∧ s.clock.openWindow = some w ∧ 4 * w + n < 4 * (s.timer.now + dt) ∧
        s.part.state ≠ .running ∧ s.clock.emptyWindows < 15)
    ∧ (∃ (dt w n : Nat) (s : State), dt = 16667 ∧ s.timer.refclkStopped = false ∧ s.clock.state = .flywheel ∧
        s.clock.nominal = some n ∧ s.clock.openWindow = some w ∧ 4 * w + n < 4 * (s.timer.now + dt) ∧
        s.part.state = .running ∧ s.clock.emptyWindows = 16)
    ∧ (∃ (dt w n : Nat) (s : State), dt = 16667 ∧ s.timer.refclkStopped = false ∧ s.clock.state = .flywheel ∧
        s.clock.nominal = some n ∧ s.clock.openWindow = some w ∧ 4 * w + n < 4 * (s.timer.now + dt) ∧
        s.part.state ≠ .running ∧ 15 ≤ s.clock.emptyWindows) :=
  ⟨⟨16666, 0, 66666, { sample .standby with clock := flywheelClock (some 66666) (some 0) 2 0 }, by decide⟩,
   ⟨16667, 0, 66666, { sample .standby with clock := flywheelClock (some 66666) (some 0) 2 14 }, by decide⟩,
   ⟨16667, 0, 66666, { sample .running with clock := flywheelClock (some 66666) (some 0) 2 16 }, by decide⟩,
   ⟨16667, 0, 66666, { sample .standby with clock := flywheelClock (some 66666) (some 0) 2 15 }, by decide⟩⟩

theorem test_witness_ShowSyncStarts :
    (∃ s : State, s.part.state ≠ .armed ∧ s.lines.resetLow = false)
    ∧ (∃ s : State, s.part.state = .armed ∧ s.clock.state ≠ .locked ∧ s.lines.resetLow = false)
    ∧ (∃ (s : State) (a : Anchor), s.part.state = .armed ∧ s.clock.state = .locked ∧ 0 ∈ s.definedGroups ∧
        s.sup.anchor = some a ∧ s.sup.status.writing = none ∧ s.sup.take = none ∧ s.lines.resetLow = false)
    ∧ (∃ (s : State) (a : Anchor), s.part.state = .armed ∧ s.clock.state = .locked ∧ 1 ∉ s.definedGroups ∧
        s.sup.anchor = some a ∧ s.sup.status.writing ≠ none ∧ s.lines.resetLow = false) :=
  ⟨⟨sample .running, by decide⟩,
   ⟨sample .armed, by decide⟩,
   ⟨{ sample .armed with clock := lockedClock }, sampleAnchor, by decide⟩,
   ⟨{ sample .armed with clock := lockedClock, sup := (writingStatus false).sup }, sampleAnchor, by decide⟩⟩

theorem test_witness_SwitchAndCut :
    (∃ (s : State) (ms : List Nat) (fade : Bool), ms.Nodup ∧ 0 ∈ ms ∧ 2 ∉ ms ∧ fade = true ∧ s.part.state ≠ .armed)
    ∧ (∃ (s : State) (r : Role), (s.group 0).selectState = .on r)
    ∧ (∃ (s : State) (r : Role), (s.group 0).selectState = .to r ∧ s.part.state ≠ .quiet)
    ∧ (∃ (s : State) (r : Role), (s.group 0).selectState ≠ .on r ∧ (s.group 0).selectState ≠ .to r ∧
        s.part.state ≠ .quiet)
    ∧ (∃ (s : State) (r : Role) (ms : List Nat), ms = s.members 0 ∧
        ms.all (fun m => (s.group m).selectState == .on r || (s.group m).selectState == .to r) = true ∧
        ms.any (fun m => (s.group m).selectState.fading) = true)
    ∧ (∃ (s : State) (r : Role) (ms : List Nat), ms = s.members 0 ∧
        ms.all (fun m => (s.group m).selectState == .on r || (s.group m).selectState == .to r) = false ∧
        ms.any (fun m => (s.group m).selectState.fading) = false) :=
  ⟨⟨sample .running, [0, 1], true, by decide⟩,
   ⟨sample .running, .main, by decide⟩,
   ⟨withGroup (sample .running) { GroupRecord.initial with selectState := .toBackup }, .backup, by decide⟩,
   ⟨sample .running, .backup, by decide⟩,
   ⟨withGroup (sample .running) { GroupRecord.initial with selectState := .toBackup }, .backup, [0], by decide⟩,
   ⟨sample .running, .backup, [0], by decide⟩⟩

/-- The lengths and the notices of a switch exist for every set. -/
theorem test_witness_SwitchAndCut_notices : ∀ (s : State) (r : Role) (fade : Bool) (cause : SwitchCause),
    ∃ (len : Nat → Nat) (started finished : Nat → Notice),
      (∀ g, len g = (if fade = true ∧ s.part.state ≠ .armed then (s.group g).fadeLength else 0))
      ∧ (∀ g, started g = { group := some g, source := some (s.rigOf r), period := s.part.period
                            body := .switchStarted (s.group g).targetRole r cause (len g) s.resolver.resolveFront
                              (s.group g).linkSet (sat16 (s.group g).switchCount) })
      ∧ ∀ g, finished g = { group := some g, source := some (s.rigOf r), period := s.part.period
                            body := .switchFinished r .immediate cause s.resolver.resolveFront } :=
  fun _ _ _ _ => ⟨_, _, _, fun _ => rfl, fun _ => rfl, fun _ => rfl⟩

theorem test_witness_SwitchAndCut_evaluation :
    (∃ s : State, (∃ m ∈ s.members 0, (s.group m).selectState.fading = true))
    ∧ (∃ (s : State) (r : Role) (f : Nat), (∀ m ∈ s.members 0, (s.group m).selectState = .on r.other) ∧
        f ∈ s.members 0 ∧ s.verdict f r.other = .failed ∧ (∀ m ∈ s.members 0, m < f → s.verdict m r.other ≠ .failed) ∧
        (∀ m ∈ s.members 0, (s.group m).hold = false ∧ (s.healthOf m).agreement.verdict ≠ .diverged ∧
          s.verdict m r = .sound))
    ∧ (∃ (s : State) (r : Role) (f : Nat), (∀ m ∈ s.members 0, (s.group m).selectState = .on r.other) ∧
        f ∈ s.members 0 ∧ s.verdict f r.other = .failed ∧ (∀ m ∈ s.members 0, m < f → s.verdict m r.other ≠ .failed) ∧
        (∀ m ∈ s.members 0, (s.group m).hold = false ∧ (s.healthOf m).agreement.verdict ≠ .diverged ∧
          s.verdict m r = .sound))
    ∧ (∃ (s : State) (r : Role) (f x : Nat), (∀ m ∈ s.members 0, (s.group m).selectState = .on r.other) ∧
        f ∈ s.members 0 ∧ s.verdict f r.other = .failed ∧ (∀ m ∈ s.members 0, m < f → s.verdict m r.other ≠ .failed) ∧
        x ∈ s.members 0 ∧ s.part.state ≠ .quiet ∧ (s.group x).hold = true ∧
        (∀ m ∈ s.members 0, m < x → (s.group m).hold = false) ∧
        (∃ m ∈ s.members 0, (s.group m).withheldReported = true))
    ∧ (∃ (s : State) (r : Role) (f x : Nat), (∀ m ∈ s.members 0, (s.group m).selectState = .on r.other) ∧
        f ∈ s.members 0 ∧ s.verdict f r.other = .failed ∧ (∀ m ∈ s.members 0, m < f → s.verdict m r.other ≠ .failed) ∧
        x ∈ s.members 0 ∧ s.part.state ≠ .quiet ∧ (∀ m ∈ s.members 0, (s.group m).hold = false) ∧
        (s.healthOf x).agreement.verdict = .diverged ∧
        (∀ m ∈ s.members 0, m < x → (s.healthOf m).agreement.verdict ≠ .diverged) ∧
        (∀ m ∈ s.members 0, (s.group m).withheldReported = false))
    ∧ (∃ (s : State) (r : Role) (f x : Nat), (∀ m ∈ s.members 0, (s.group m).selectState = .on r.other) ∧
        f ∈ s.members 0 ∧ s.verdict f r.other = .failed ∧ (∀ m ∈ s.members 0, m < f → s.verdict m r.other ≠ .failed) ∧
        x ∈ s.members 0 ∧ s.part.state ≠ .quiet ∧
        (∀ m ∈ s.members 0, (s.group m).hold = false ∧ (s.healthOf m).agreement.verdict ≠ .diverged) ∧
        s.verdict x r ≠ .sound ∧ (∀ m ∈ s.members 0, m < x → s.verdict m r = .sound) ∧
        (∀ m ∈ s.members 0, (s.group m).withheldReported = false))
    ∧ (∃ s : State, (∀ m ∈ s.members 0, (s.group m).selectState = .onMain ∧ s.verdict m .main ≠ .failed))
    ∧ (∃ s : State, s.members 0 ≠ [] ∧
        (∀ m ∈ s.members 0, (s.group m).selectState = .onBackup ∧ s.verdict m .backup ≠ .failed) ∧
        (∀ m ∈ s.members 0, (s.group m).autoReturn = true ∧ (s.group m).hold = false ∧ s.verdict m .main = .sound ∧
          (s.healthOf m).agreement.verdict = .agreed))
    ∧ (∃ s : State, s.members 0 ≠ [] ∧
        (∀ m ∈ s.members 0, (s.group m).selectState = .onBackup ∧ s.verdict m .backup ≠ .failed) ∧
        (∃ m ∈ s.members 0, (s.group m).autoReturn = false ∨ (s.group m).hold = true ∨ s.verdict m .main ≠ .sound ∨
          (s.healthOf m).agreement.verdict ≠ .agreed)) :=
  ⟨⟨withGroup (sample .running) { GroupRecord.initial with selectState := .toBackup }, by decide⟩,
   ⟨judgedAs (sample .running) .failed .sound .unproven, .backup, 0, by decide⟩,
   ⟨judgedAs (withGroup (sample .running) { GroupRecord.initial with selectState := .onBackup }) .sound .failed .agreed,
      .main, 0, by decide⟩,
   ⟨judgedAs (withGroup (sample .running) { GroupRecord.initial with hold := true, withheldReported := true }) .failed .sound .diverged,
      .backup, 0, 0, by decide⟩,
   ⟨judgedAs (sample .running) .failed .failed .diverged, .backup, 0, 0, by decide⟩,
   ⟨judgedAs (withGroup (sample .running) { GroupRecord.initial with selectState := .onBackup }) .suspect .failed .agreed,
      .main, 0, 0, by decide⟩,
   ⟨judgedAs (sample .running) .suspect .sound .agreed, by decide⟩,
   ⟨judgedAs (withGroup (sample .running) { GroupRecord.initial with selectState := .onBackup, autoReturn := true }) .sound .sound .agreed,
      by decide⟩,
   ⟨judgedAs (withGroup (sample .running) { GroupRecord.initial with selectState := .onBackup, autoReturn := true }) .sound .sound .unproven,
      by decide⟩⟩

theorem test_witness_SwitchAndCut_fadeEnd :
    (∃ (s : State) (n : Nat), s.part.state ≠ .quiet ∧ (s.group 0).selectState.fading = true ∧
        n + 1 = (s.group 0).fadeEnd)
    ∧ (∃ (s : State) (n : Nat), s.part.state ≠ .quiet ∧
        ((s.group 0).selectState.fading = false ∨ n + 1 ≠ (s.group 0).fadeEnd)) :=
  ⟨⟨withGroup (sample .running) { GroupRecord.initial with selectState := .toBackup, targetRole := .backup, fadeEnd := 4 },
      3, by decide⟩,
   ⟨withGroup (sample .running) { GroupRecord.initial with selectState := .toBackup, targetRole := .backup, fadeEnd := 4 },
      2, by decide⟩⟩

theorem test_witness_TakeoverLine :
    (∃ s : State, (s.part.state ≠ .running ∨ s.lines.takeoverLowSince = none) ∧ s.lines.resetLow = false)
    ∧ (∃ (dt : Nat) (s : State), dt = 249999 ∧ s.lines.takeoverLowSince = some 0 ∧
        (s.advance dt).timer.now < 0 + 250000 ∧ s.lines.resetLow = false)
    ∧ (∃ (dt : Nat) (s : State), dt = 250000 ∧ s.lines.takeoverLowSince = some 0 ∧
        0 + 250000 ≤ (s.advance dt).timer.now ∧ s.part.state = .running ∧ 0 ∈ s.definedGroups ∧
        (∃ m ∈ s.members 0, (s.group m).followLine = true) ∧ (∀ m ∈ s.members 0, (s.group m).selectState = .onMain) ∧
        s.lines.resetLow = false)
    ∧ (∃ (dt : Nat) (s : State), dt = 250000 ∧ s.lines.takeoverLowSince = some 0 ∧
        0 + 250000 ≤ (s.advance dt).timer.now ∧ s.part.state = .running ∧ 0 ∈ s.definedGroups ∧
        (∀ m ∈ s.members 0, (s.group m).followLine = false) ∧ s.lines.resetLow = false)
    ∧ (∃ (dt : Nat) (s : State), dt = 250000 ∧ s.lines.takeoverLowSince = some 0 ∧
        0 + 250000 ≤ (s.advance dt).timer.now ∧ s.part.state = .running ∧ 0 ∈ s.definedGroups ∧
        (∃ m ∈ s.members 0, (s.group m).selectState ≠ .onMain) ∧ s.lines.resetLow = false)
    ∧ (∃ s : State,
        (∃ g ∈ s.definedGroups, (∃ m ∈ s.members g, (s.group m).followLine = true) ∧
          ∀ m ∈ s.members g, (s.group m).selectState = .onMain) ∧
        s.lines.resetLow = false)
    ∧ (∃ s : State,
        (∀ g ∈ s.definedGroups, (∀ m ∈ s.members g, (s.group m).followLine = false) ∨
          ∃ m ∈ s.members g, (s.group m).selectState ≠ .onMain) ∧
        s.definedGroups ≠ [] ∧ s.lines.resetLow = false) :=
  ⟨⟨lowLine .running none false .onMain, by decide⟩,
   ⟨249999, lowLine .running (some 0) true .onMain, by decide⟩,
   ⟨250000, lowLine .running (some 0) true .onMain, by decide⟩,
   ⟨250000, lowLine .running (some 0) false .onMain, by decide⟩,
   ⟨250000, lowLine .running (some 0) true .onBackup, by decide⟩,
   ⟨lowLine .running (some 0) true .onMain, by decide⟩,
   ⟨lowLine .running (some 0) true .onBackup, by decide⟩⟩

theorem test_witness_GoWrite :
    (∃ (v : Word) (en : Enables) (s : State), s.burst = none ∧ (¬(en = 15 ∧ v = 1)) ∧ s.lines.resetLow = false)
    ∧ (∃ s : State, s.burst = none ∧ (s.part.state = .armed ∨ s.part.state = .running) ∧ s.lines.resetLow = false)
    ∧ (∃ s : State, s.burst = none ∧ (s.part.state = .quiet ∨ s.part.state = .standby) ∧
        (s.sup.take ≠ none ∨ s.sup.goPending = true) ∧ s.lines.resetLow = false)
    ∧ (∃ s : State, s.burst = none ∧ (s.part.state = .quiet ∨ s.part.state = .standby) ∧ s.sup.take = none ∧
        s.sup.goPending = false ∧
        (s.sup.command.phase ≠ .idle ∨ s.sup.teardown ≠ none ∨ s.sup.status.writing ≠ none ∨ s.notices.writing = true) ∧
        s.lines.resetLow = false)
    ∧ (∃ s : State, s.burst = none ∧ (s.part.state = .quiet ∨ s.part.state = .standby) ∧ s.sup.take = none ∧
        s.sup.goPending = false ∧ s.sup.command.phase = .idle ∧ s.sup.teardown = none ∧ s.sup.status.writing = none ∧
        s.notices.writing = false ∧ s.lines.resetLow = false) :=
  ⟨⟨1, 7, State.reset, by decide⟩,
   ⟨sample .armed, by decide⟩,
   ⟨taking .quiet .reading, by decide⟩,
   ⟨handing .standby [7], by decide⟩,
   ⟨State.reset, by decide⟩⟩

theorem test_witness_DeferredGo :
    (∃ s : State,
        (s.sup.goPending = false ∨ s.sup.command.phase ≠ .idle ∨ s.sup.teardown ≠ none ∨ s.sup.status.writing ≠ none ∨
          s.notices.writing = true))
    ∧ (∃ s : State, s.sup.goPending = true ∧ s.sup.command.phase = .idle ∧ s.sup.teardown = none ∧
        s.sup.status.writing = none ∧ s.notices.writing = false ∧ (s.part.state = .quiet ∨ s.part.state = .standby))
    ∧ (∃ s : State, s.sup.goPending = true ∧ s.sup.command.phase = .idle ∧ s.sup.teardown = none ∧
        s.sup.status.writing = none ∧ s.notices.writing = false ∧ (s.part.state = .armed ∨ s.part.state = .running)) :=
  ⟨⟨sample .standby, by decide⟩,
   ⟨goWaits .standby, by decide⟩,
   ⟨goWaits .armed, by decide⟩⟩

theorem test_witness_AnchorChecks :
    (∃ (a : Anchor) (dram : Nat), a.ok dram = true)
    ∧ (∃ (a : Anchor) (dram : Nat), a.ok dram = false) :=
  ⟨⟨sampleAnchor, 2097152, by decide⟩,
   ⟨sampleAnchor, 2097151, by decide⟩⟩

set_option maxRecDepth 20000 in
theorem test_witness_AnchorReadDone :
    (∃ s : State, s.sup.take ≠ some .reading)
    ∧ (∃ (error : Bool) (s : State), error = true ∧ s.sup.take = some .reading ∧
        (error = true ∨ (readAnchor s.mem).ok s.lines.dramSize = false) ∧
        (s.sup.status.followUp = false ∨ s.sup.anchor = none))
    ∧ (∃ (error : Bool) (s : State) (a : Anchor), error = false ∧ s.sup.take = some .reading ∧
        (error = true ∨ (readAnchor s.mem).ok s.lines.dramSize = false) ∧ s.sup.status.followUp = true ∧
        s.sup.anchor = some a)
    ∧ (∃ (s : State) (a : Anchor), s.sup.take = some .reading ∧ a = readAnchor s.mem ∧ a.ok s.lines.dramSize = true) :=
  ⟨⟨sample .standby, by decide⟩,
   ⟨true, taking .standby .reading, by decide⟩,
   ⟨false,
      { taking .standby .reading with sup := { (taking .standby .reading).sup with status := ⟨3, none, true⟩ } },
      sampleAnchor, by decide⟩,
   ⟨{ taking .standby .reading with mem := anchorMem }, sampleAnchor, by decide⟩⟩

theorem test_witness_AnchorTakeEnd :
    (∃ (s : State) (a : Anchor), s.sup.take = some (.initialising a) ∧ a.ok s.lines.dramSize = true ∧
        s.sup.status.writing = none ∧ s.landed.zeroBucket ≤ 128 ∧ s.landed.directory ≤ 6144 ∧
        s.landed.liveDirectory ≤ 131072)
    ∧ (∃ s : State, s.sup.take = some .reading)
    ∧ (∃ (s : State) (a : Anchor), s.sup.take = some (.initialising a) ∧ a.ok s.lines.dramSize = true ∧
        s.sup.status.writing = none ∧ s.landed.zeroBucket ≤ 128 ∧ s.landed.directory ≤ 6144 ∧
        s.landed.liveDirectory ≤ 131072 ∧ s.landed.zeroBucket = 128 ∧ s.landed.directory = 6144 ∧
        s.landed.liveDirectory = 1024 * 127 + 1023) :=
  ⟨⟨taking .standby (.initialising sampleAnchor), sampleAnchor, by decide⟩,
   ⟨taking .standby .reading, by decide⟩,
   ⟨{ taking .standby (.initialising sampleAnchor) with landed := { Landed.none with zeroBucket := 128, directory := 6144, liveDirectory := 131071 } },
      sampleAnchor, by decide⟩⟩

/-- The words of an EMPTY record exist. -/
theorem test_witness_empty_record : ∃ empty : Nat → Word,
    ∀ j, empty j = if j = 1 ∨ j = 3 then 0xFFFFFFFF else if j = 2 then 0xFFFF else if j = 4 then 1 else 0 :=
  ⟨_, fun _ => rfl⟩

theorem test_witness_CommandKick :
    (∃ (en : Enables) (s : State), s.burst = none ∧ (en ≠ 15 ∨ s.sup.anchor = none) ∧ s.lines.resetLow = false)
    ∧ (∃ (en : Enables) (s : State), s.burst = none ∧ en = 15 ∧ (en ≠ 15 ∨ s.sup.anchor = none) ∧
        s.lines.resetLow = false)
    ∧ (∃ (v : Word) (s : State) (a : Anchor), s.burst = none ∧ v = 16 ∧ s.sup.anchor = some a ∧
        s.part.state ≠ .quiet ∧ a.commandRingEntries ≤ v.toNat ∧ s.lines.resetLow = false)
    ∧ (∃ (v : Word) (s : State) (a : Anchor), s.burst = none ∧ v = 15 ∧ s.sup.anchor = some a ∧
        s.part.state ≠ .quiet ∧ v.toNat < a.commandRingEntries ∧ s.sup.command.phase = .idle ∧
        s.sup.command.target = none ∧
        v.toNat = (s.sup.command.next + a.commandRingEntries - 1) % a.commandRingEntries ∧ s.lines.resetLow = false)
    ∧ (∃ (v : Word) (s : State) (a : Anchor), s.burst = none ∧ v = 14 ∧ s.sup.anchor = some a ∧
        s.part.state ≠ .quiet ∧ v.toNat < a.commandRingEntries ∧ s.sup.command.phase = .idle ∧
        (s.sup.command.target ≠ none ∨ v.toNat ≠ (s.sup.command.next + a.commandRingEntries - 1) % a.commandRingEntries) ∧
        s.lines.resetLow = false)
    ∧ (∃ (v : Word) (s : State) (a : Anchor), s.burst = none ∧ v = 15 ∧ s.sup.anchor = some a ∧
        s.part.state ≠ .quiet ∧ v.toNat < a.commandRingEntries ∧ s.sup.command.phase ≠ .idle ∧
        s.lines.resetLow = false) :=
  ⟨⟨7, sample .standby, by decide⟩,
   ⟨15, State.reset, by decide⟩,
   ⟨16, sample .standby, sampleAnchor, by decide⟩,
   ⟨15, sample .standby, sampleAnchor, by decide⟩,
   ⟨14, sample .standby, sampleAnchor, by decide⟩,
   ⟨15, handing .standby [], sampleAnchor, by decide⟩⟩

theorem test_witness_CommandFetch :
    (∃ (s : State) (a : Anchor), s.sup.anchor = some a ∧ s.sup.command.phase ≠ .fetching)
    ∧ (∃ (error : Bool) (s : State) (a : Anchor), error = false ∧ s.sup.anchor = some a ∧
        s.sup.command.phase = .fetching ∧
        (error = true ∨ (readWord s.mem (a.commandRingBase + 64 * s.sup.command.next)).getLsbD 31 = false))
    ∧ (∃ (error : Bool) (s : State) (a : Anchor), error = false ∧ s.sup.anchor = some a ∧
        s.sup.command.phase = .fetching ∧
        (readWord s.mem (a.commandRingBase + 64 * s.sup.command.next)).getLsbD 31 = true) :=
  ⟨⟨sample .standby, sampleAnchor, by decide⟩,
   ⟨false, fetching [], sampleAnchor, by decide⟩,
   ⟨false, fetching [(67, 128)], sampleAnchor, by decide⟩⟩

theorem test_witness_CommandResultWritten :
    (∃ (s : State) (a : Anchor) (e : Nat), s.sup.anchor = some a ∧ s.sup.command.phase = .writing ∧
        e = a.commandRingBase + 64 * s.sup.command.next ∧ s.sup.command.resultData.length = 5 ∧
        (s.landed.result ≤ (if s.sup.command.result = .done ∨ s.sup.command.result = .noContext then 6 else 1)) ∧
        (s.sup.command.result = .done ∨ s.sup.command.result = .noContext) ∧
        s.sup.command.target = some s.sup.command.next ∧ s.sup.status.writing = none ∧ s.sup.take = none)
    ∧ (∃ (s : State) (a : Anchor) (e : Nat), s.sup.anchor = some a ∧ s.sup.command.phase = .writing ∧
        e = a.commandRingBase + 64 * s.sup.command.next ∧ s.sup.command.resultData.length = 5 ∧
        (s.landed.result ≤ (if s.sup.command.result = .done ∨ s.sup.command.result = .noContext then 6 else 1)) ∧
        s.sup.command.result ≠ .done ∧ s.sup.command.result ≠ .noContext ∧
        ((s.sup.command.entry.getD 0 0).getLsbD 30 = true ∧ s.part.state ≠ .quiet))
    ∧ (∃ (s : State) (a : Anchor) (e j : Nat), s.sup.anchor = some a ∧ s.sup.command.phase = .writing ∧
        e = a.commandRingBase + 64 * s.sup.command.next ∧ s.sup.command.resultData.length = 5 ∧
        (s.landed.result ≤ (if s.sup.command.result = .done ∨ s.sup.command.result = .noContext then 6 else 1)) ∧
        s.sup.command.target = some j ∧ j ≠ s.sup.command.next ∧ s.sup.goPending = false)
    ∧ (∃ (s : State) (a : Anchor) (e j : Nat), s.sup.anchor = some a ∧ s.sup.command.phase = .writing ∧
        e = a.commandRingBase + 64 * s.sup.command.next ∧ s.sup.command.resultData.length = 5 ∧
        (s.landed.result ≤ (if s.sup.command.result = .done ∨ s.sup.command.result = .noContext then 6 else 1)) ∧
        s.sup.command.target = some j ∧ j ≠ s.sup.command.next ∧ s.sup.goPending = true)
    ∧ (∃ (s : State) (a : Anchor) (e : Nat), s.sup.anchor = some a ∧ s.sup.command.phase = .writing ∧
        e = a.commandRingBase + 64 * s.sup.command.next ∧ s.sup.command.resultData.length = 5 ∧
        (s.landed.result ≤ (if s.sup.command.result = .done ∨ s.sup.command.result = .noContext then 6 else 1)) ∧
        0 < s.landed.result ∧ s.landed.result = 6) :=
  ⟨⟨finishing .done (some 0) 0, sampleAnchor, 64, by decide⟩,
   ⟨finishing .busy (some 0) 15, sampleAnchor, 1024, by decide⟩,
   ⟨finishing .noContext (some 0) 15, sampleAnchor, 1024, 0, by decide⟩,
   ⟨goHeld (finishing .done (some 1) 0), sampleAnchor, 64, 1, by decide⟩,
   ⟨{ finishing .done (some 0) 0 with landed := { Landed.none with result := 6 } }, sampleAnchor, 64, by decide⟩⟩

theorem test_witness_GatingOfCommands :
    (∃ s : State, s.executing = true ∧ (s.sup.command.kind = 0 ∨ 14 < s.sup.command.kind))
    ∧ (∃ s : State, s.executing = true ∧ s.sup.command.kind = 15)
    ∧ (∃ s : State, s.hand 1 = true ∧ s.sup.locked = true)
    ∧ (∃ s : State, s.hand 2 = true ∧ s.sup.locked = true)
    ∧ (∃ s : State, s.hand 3 = true ∧ s.sup.locked = true)
    ∧ (∃ s : State, s.hand 4 = true ∧ s.sup.locked = true)
    ∧ (∃ s : State, s.hand 5 = true ∧ s.sup.locked = true)
    ∧ (∃ s : State, s.hand 7 = true ∧ s.sup.locked = true)
    ∧ (∃ s : State, s.hand 8 = true ∧ s.sup.locked = true)
    ∧ (∃ s : State, s.hand 1 = true ∧ s.sup.locked = false ∧ s.part.state ≠ .standby)
    ∧ (∃ s : State, s.hand 2 = true ∧ s.sup.locked = false ∧ s.part.state ≠ .standby)
    ∧ (∃ s : State, s.hand 4 = true ∧ s.sup.locked = false ∧ s.part.state ≠ .standby)
    ∧ (∃ s : State, s.hand 5 = true ∧ s.sup.locked = false ∧ s.part.state ≠ .standby)
    ∧ (∃ s : State, s.hand 7 = true ∧ s.sup.locked = false ∧ s.part.state ≠ .standby)
    ∧ (∃ s : State, s.hand 8 = true ∧ s.sup.locked = false ∧ (s.part.state = .quiet ∨ s.part.state = .standby))
    ∧ (∃ s : State, s.hand 9 = true ∧ s.sup.locked = false ∧ (s.part.state = .quiet ∨ s.part.state = .standby))
    ∧ (∃ s : State, s.hand 10 = true ∧ s.sup.locked = false ∧ (s.part.state = .quiet ∨ s.part.state = .standby))
    ∧ (∃ s : State, s.hand 11 = true ∧ s.sup.locked = false ∧ (s.part.state = .quiet ∨ s.part.state = .standby))
    ∧ (∃ s : State, s.hand 12 = true ∧ s.sup.locked = false ∧ (s.part.state = .quiet ∨ s.part.state = .standby)) :=
  ⟨⟨handing .standby [0], by decide⟩,
   ⟨handing .standby [15], by decide⟩,
   ⟨lockedUp (handing .standby [1]), by decide⟩,
   ⟨lockedUp (handing .standby [2]), by decide⟩,
   ⟨lockedUp (handing .standby [3]), by decide⟩,
   ⟨lockedUp (handing .standby [4]), by decide⟩,
   ⟨lockedUp (handing .standby [5]), by decide⟩,
   ⟨lockedUp (handing .standby [7]), by decide⟩,
   ⟨lockedUp (handing .standby [8]), by decide⟩,
   ⟨(handing .armed [1]), by decide⟩,
   ⟨(handing .armed [2]), by decide⟩,
   ⟨(handing .armed [4]), by decide⟩,
   ⟨(handing .armed [5]), by decide⟩,
   ⟨(handing .armed [7]), by decide⟩,
   ⟨(handing .standby [8]), by decide⟩,
   ⟨(handing .standby [9]), by decide⟩,
   ⟨(handing .standby [10]), by decide⟩,
   ⟨(handing .standby [11]), by decide⟩,
   ⟨(handing .standby [12]), by decide⟩⟩

theorem test_witness_GatingOfCommands_missingGroup :
    (∃ s : State, ((s.cmdGroup ≠ 255 ∧ 7 < s.cmdGroup) ∨ (s.cmdGroup ≤ 7 ∧ (s.group s.cmdGroup).defined = false)) ∧
        s.hand 3 = true ∧ s.sup.locked = false)
    ∧ (∃ s : State, ((s.cmdGroup ≠ 255 ∧ 7 < s.cmdGroup) ∨ (s.cmdGroup ≤ 7 ∧ (s.group s.cmdGroup).defined = false)) ∧
        s.cmdGroup ≠ 255 ∧ s.hand 9 = true ∧ (s.part.state = .armed ∨ s.part.state = .running))
    ∧ (∃ s : State, ((s.cmdGroup ≠ 255 ∧ 7 < s.cmdGroup) ∨ (s.cmdGroup ≤ 7 ∧ (s.group s.cmdGroup).defined = false)) ∧
        s.hand 10 = true ∧ (s.part.state = .armed ∨ s.part.state = .running))
    ∧ (∃ s : State, ((s.cmdGroup ≠ 255 ∧ 7 < s.cmdGroup) ∨ (s.cmdGroup ≤ 7 ∧ (s.group s.cmdGroup).defined = false)) ∧
        s.hand 11 = true ∧ (s.part.state = .armed ∨ s.part.state = .running))
    ∧ (∃ s : State, s.sup.locked = false ∧ s.part.state = .standby ∧ s.hand 4 = true ∧
        (7 < s.cmdGroup ∨ (s.group s.cmdGroup).defined = false)) :=
  ⟨⟨handing .armed [0x00080003], by decide⟩,
   ⟨handing .armed [0x00090009], by decide⟩,
   ⟨handing .running [0x0007000A], by decide⟩,
   ⟨handing .running [0x0001000B], by decide⟩,
   ⟨handing .standby [0x00010004, 5], by decide⟩⟩

theorem test_witness_LockAndUnlock :
    (∃ s : State, s.hand 13 = true ∧ s.sup.locked = false)
    ∧ (∃ s : State, s.hand 14 = true ∧ s.sup.locked = true) :=
  ⟨⟨(handing .standby [13]), by decide⟩,
   ⟨lockedUp (handing .standby [14]), by decide⟩⟩

theorem test_witness_ConfigureBridge :
    (∃ s : State, s.hand 1 = true ∧ s.sup.locked = false ∧ s.part.state = .standby ∧ 2 ≤ byteOf (s.cmdWord 2) 3)
    ∧ (∃ (s : State) (b : BridgeSettings), s.hand 1 = true ∧ s.sup.locked = false ∧ s.part.state = .standby ∧
        byteOf (s.cmdWord 2) 3 = 1 ∧ b = BridgeSettings.defaults s.pool.buckets)
    ∧ (∃ (s : State) (b : BridgeSettings), s.hand 1 = true ∧ s.sup.locked = false ∧ s.part.state = .standby ∧
        byteOf (s.cmdWord 2) 3 = 0 ∧ byteOf (s.cmdWord 2) 0 ≤ 1 ∧ b = s.sup.command.bridgeSettings ∧
        b.quota1 + b.quota2 ≤ s.pool.buckets - 65 ∧ b.commonGuard ≤ 65535 ∧ 20 ≤ b.horizon ∧ b.horizon ≤ 48 ∧
        1 ≤ b.resolveLead ∧ b.resolveLead ≤ 12 ∧ 1 ≤ b.releaseGrace ∧ b.releaseGrace ≤ 3 ∧ 4 ≤ b.expectSpan ∧
        b.expectSpan ≤ 255 ∧ 1 ≤ b.coalesceCount ∧ b.coalesceCount ≤ 64 ∧ b.coalesceTime ≤ 1000)
    ∧ (∃ (s : State) (b : BridgeSettings) (a : Anchor), s.hand 1 = true ∧ s.sup.locked = false ∧
        s.part.state = .standby ∧ byteOf (s.cmdWord 2) 3 = 0 ∧ byteOf (s.cmdWord 2) 0 ≤ 1 ∧
        b = s.sup.command.bridgeSettings ∧ b.quota1 + b.quota2 ≤ s.pool.buckets - 65 ∧ b.commonGuard ≤ 65535 ∧
        20 ≤ b.horizon ∧ b.horizon ≤ 48 ∧ 1 ≤ b.resolveLead ∧ b.resolveLead ≤ 12 ∧ 1 ≤ b.releaseGrace ∧
        b.releaseGrace ≤ 3 ∧ 4 ≤ b.expectSpan ∧ b.expectSpan ≤ 255 ∧ 1 ≤ b.coalesceCount ∧ b.coalesceCount ≤ 64 ∧
        b.coalesceTime ≤ 1000 ∧ s.sup.anchor = some a ∧ b.coalesceCount ≤ a.noticeRingEntries - s.notices.available)
    ∧ (∃ (s : State) (b : BridgeSettings) (a : Anchor) (unreturned written : Nat), s.hand 1 = true ∧
        s.sup.locked = false ∧ s.part.state = .standby ∧ byteOf (s.cmdWord 2) 3 = 0 ∧
        b = s.sup.command.bridgeSettings ∧ b.quota1 + b.quota2 ≤ s.pool.buckets - 65 ∧ b.commonGuard ≤ 65535 ∧
        20 ≤ b.horizon ∧ b.horizon ≤ 48 ∧ 1 ≤ b.resolveLead ∧ b.resolveLead ≤ 12 ∧ 1 ≤ b.releaseGrace ∧
        b.releaseGrace ≤ 3 ∧ 4 ≤ b.expectSpan ∧ b.expectSpan ≤ 255 ∧ 1 ≤ b.coalesceCount ∧ b.coalesceCount ≤ 64 ∧
        b.coalesceTime ≤ 1000 ∧ s.lines.interrupt = false ∧ s.sup.anchor = some a ∧
        unreturned = a.noticeRingEntries - s.notices.available ∧
        written = Table.get 0 s.notices.writeTimes ((s.notices.lastHanded + 1) % a.noticeRingEntries) ∧
        b.coalesceTime ≠ 0 ∧ 0 < unreturned ∧ written + b.coalesceTime < s.timer.now / 25000)
    ∧ (∃ (s : State) (b : BridgeSettings) (a : Anchor) (unreturned written : Nat), s.hand 1 = true ∧
        s.sup.locked = false ∧ s.part.state = .standby ∧ byteOf (s.cmdWord 2) 3 = 0 ∧
        b = s.sup.command.bridgeSettings ∧ b.quota1 + b.quota2 ≤ s.pool.buckets - 65 ∧ b.commonGuard ≤ 65535 ∧
        20 ≤ b.horizon ∧ b.horizon ≤ 48 ∧ 1 ≤ b.resolveLead ∧ b.resolveLead ≤ 12 ∧ 1 ≤ b.releaseGrace ∧
        b.releaseGrace ≤ 3 ∧ 4 ≤ b.expectSpan ∧ b.expectSpan ≤ 255 ∧ 1 ≤ b.coalesceCount ∧ b.coalesceCount ≤ 64 ∧
        b.coalesceTime ≤ 1000 ∧ s.lines.interrupt = false ∧ s.sup.anchor = some a ∧
        unreturned = a.noticeRingEntries - s.notices.available ∧
        written = Table.get 0 s.notices.writeTimes ((s.notices.lastHanded + 1) % a.noticeRingEntries) ∧
        unreturned < b.coalesceCount ∧
        (b.coalesceTime = 0 ∨ unreturned = 0 ∨ s.timer.now / 25000 ≤ written + b.coalesceTime))
    ∧ (∃ s : State, s.hand 1 = true ∧ s.sup.locked = false ∧ s.part.state = .standby ∧ byteOf (s.cmdWord 2) 3 = 0 ∧
        s.pool.buckets - 65 < (s.cmdWord 3).toNat + (s.cmdWord 4).toNat) :=
  ⟨⟨handing .standby [1, 0, 0x02000000], by decide⟩,
   ⟨handing .standby [1, 0, 0x01000000], BridgeSettings.defaults 2048, by decide⟩,
   ⟨handing .standby [1, 0, 1, 1983, 0, 65535, 0x00030C30, 255, 0x03E80040],
      ⟨.backup, 1983, 0, 65535, 48, 12, 3, 255, 64, 1000⟩, by decide⟩,
   ⟨{ handing .standby [1, 0, 0, 0, 0, 0, 0x00010114, 4, 1] with notices := { NoticeUnit.initial with available := 63 } },
      ⟨.main, 0, 0, 0, 20, 1, 1, 4, 1, 0⟩, sampleAnchor, by decide⟩,
   ⟨tested 50000, ⟨.main, 0, 0, 0, 20, 1, 1, 4, 2, 1⟩, sampleAnchor, 1, 0, by decide⟩,
   ⟨tested 49999, ⟨.main, 0, 0, 0, 20, 1, 1, 4, 2, 1⟩, sampleAnchor, 1, 0, by decide⟩,
   ⟨handing .standby [1, 0, 0, 1983, 1, 0, 0x00010114, 4, 1], by decide⟩⟩

theorem test_witness_DefineGroup :
    (∃ s : State, s.hand 2 = true ∧ s.sup.locked = false ∧ s.part.state = .standby ∧
        (7 < s.cmdGroup ∨ 2 ≤ byteOf (s.cmdWord 4) 3))
    ∧ (∃ s : State, s.hand 2 = true ∧ s.sup.locked = false ∧ s.part.state = .standby ∧ byteOf (s.cmdWord 4) 3 = 0 ∧
        4 < byteOf (s.cmdWord 2) 0)
    ∧ (∃ s : State, s.hand 2 = true ∧ s.sup.locked = false ∧ s.part.state = .standby ∧ s.cmdGroup ≤ 7 ∧
        byteOf (s.cmdWord 4) 3 = 1)
    ∧ (∃ s : State, s.hand 2 = true ∧ s.sup.locked = false ∧ s.part.state = .standby ∧ s.cmdGroup ≤ 7 ∧
        byteOf (s.cmdWord 4) 3 = 0 ∧ byteOf (s.cmdWord 2) 0 = 4 ∧ byteOf (s.cmdWord 2) 1 = 16 ∧
        byteOf (s.cmdWord 3) 0 = 1 ∧ byteOf (s.cmdWord 3) 1 = 8 ∧ byteOf (s.cmdWord 4) 0 = 1 ∧
        byteOf (s.cmdWord 4) 1 = 1 ∧ byteOf (s.cmdWord 4) 2 = 1 ∧
        (∀ m ∈ s.definedGroups, m ≠ s.cmdGroup → 4 ≠ 0 → (s.group m).linkSet = 4 → (s.group m).selectState = .onMain ∧
          (s.healthOf m).main.verdict ≠ .failed ∧ (s.group m).withheldReported = false)) :=
  ⟨⟨handing .standby [0x00080002], by decide⟩,
   ⟨handing .standby [2, 0, 5], by decide⟩,
   ⟨handing .standby [0x00070002, 0, 0, 0, 0x01000000], by decide⟩,
   ⟨handing .standby [2, 0, 0x1004, 0x0801, 0x00010101], by decide⟩⟩

theorem test_witness_SetThresholds :
    (∃ s : State, s.hand 3 = true ∧ s.sup.locked = false ∧ (s.cmdGroup ≤ 7 ∧ (s.group s.cmdGroup).defined = false))
    ∧ (∃ s : State, s.hand 3 = true ∧ s.sup.locked = false ∧ s.cmdGroup = 255 ∧ s.definedGroups = [])
    ∧ (∃ (s : State) (named : List Nat), s.hand 3 = true ∧ s.sup.locked = false ∧
        ((s.cmdGroup = 255 ∧ s.definedGroups ≠ [] ∧ named = s.definedGroups) ∨ (s.cmdGroup ≤ 7 ∧
          (s.group s.cmdGroup).defined = true ∧ named = [s.cmdGroup])) ∧
        lowHalf (s.cmdWord 2) < 8)
    ∧ (∃ (s : State) (named : List Nat), s.hand 3 = true ∧ s.sup.locked = false ∧
        ((s.cmdGroup = 255 ∧ s.definedGroups ≠ [] ∧ named = s.definedGroups) ∨ (s.cmdGroup ≤ 7 ∧
          (s.group s.cmdGroup).defined = true ∧ named = [s.cmdGroup])) ∧
        1024 < lowHalf (s.cmdWord 2))
    ∧ (∃ (s : State) (named : List Nat), s.hand 3 = true ∧ s.sup.locked = false ∧
        ((s.cmdGroup = 255 ∧ s.definedGroups ≠ [] ∧ named = s.definedGroups) ∨ (s.cmdGroup ≤ 7 ∧
          (s.group s.cmdGroup).defined = true ∧ named = [s.cmdGroup])) ∧
        8 ≤ lowHalf (s.cmdWord 2) ∧ lowHalf (s.cmdWord 2) ≤ 1024 ∧ highHalf (s.cmdWord 2) ≤ 1 ∧
        byteOf (s.cmdWord 6) 0 ≤ 48 ∧ 1 ≤ byteOf (s.cmdWord 7) 0 ∧ byteOf (s.cmdWord 7) 0 ≤ 15 ∧
        1 ≤ byteOf (s.cmdWord 7) 1 ∧ byteOf (s.cmdWord 7) 1 ≤ 15 ∧ 1 ≤ byteOf (s.cmdWord 7) 2 ∧
        byteOf (s.cmdWord 7) 2 ≤ 15 ∧ 1 ≤ byteOf (s.cmdWord 7) 3 ∧ byteOf (s.cmdWord 7) 3 ≤ 15)
    ∧ (∃ (s : State) (named : List Nat), s.hand 3 = true ∧ s.sup.locked = false ∧
        ((s.cmdGroup = 255 ∧ s.definedGroups ≠ [] ∧ named = s.definedGroups) ∨ (s.cmdGroup ≤ 7 ∧
          (s.group s.cmdGroup).defined = true ∧ named = [s.cmdGroup])) ∧
        8 ≤ lowHalf (s.cmdWord 2) ∧ lowHalf (s.cmdWord 2) ≤ 1024 ∧ highHalf (s.cmdWord 2) ≤ 1 ∧
        byteOf (s.cmdWord 6) 0 ≤ 48 ∧ 1 ≤ byteOf (s.cmdWord 7) 0 ∧ byteOf (s.cmdWord 7) 0 ≤ 15 ∧
        1 ≤ byteOf (s.cmdWord 7) 1 ∧ byteOf (s.cmdWord 7) 1 ≤ 15 ∧ 1 ≤ byteOf (s.cmdWord 7) 2 ∧
        byteOf (s.cmdWord 7) 2 ≤ 15 ∧ 1 ≤ byteOf (s.cmdWord 7) 3 ∧ byteOf (s.cmdWord 7) 3 ≤ 15) :=
  ⟨⟨handing .armed [0x00010003], by decide⟩,
   ⟨{ handing .armed [0x00FF0003] with groups := [] }, by decide⟩,
   ⟨handing .armed [3, 0, 7], [0], by decide⟩,
   ⟨handing .armed [3, 0, 1025], [0], by decide⟩,
   ⟨handing .running [0x00FF0003, 0, 0x00010400, 0, 0, 0, 48, 0x0F0F0F0F], [0], by decide⟩,
   ⟨handing .quiet [3, 0, 8, 0, 0, 0, 0, 0x01010101], [0], by decide⟩⟩

theorem test_witness_ChannelDefinition :
    (∃ (s : State) (a : Anchor) (c e : Nat), s.sup.anchor = some a ∧ c = s.cmdChannel ∧
        e = a.channelDirectoryBase + 32 * c ∧ s.sup.locked = false ∧ s.part.state = .standby ∧ s.hand 4 = true ∧
        (767 < c ∨ 7 < s.cmdGroup ∨ 1 < (s.cmdWord 2).toNat ∨ (s.group s.cmdGroup).defined = false))
    ∧ (∃ (s : State) (a : Anchor) (c e : Nat), s.sup.anchor = some a ∧ c = s.cmdChannel ∧
        e = a.channelDirectoryBase + 32 * c ∧ s.sup.locked = false ∧ s.part.state = .standby ∧ s.hand 4 = true ∧
        c ≤ 767 ∧ s.cmdGroup ≤ 7 ∧ (s.cmdWord 2).toNat ≤ 1 ∧ (s.group s.cmdGroup).defined = true)
    ∧ (∃ (s : State) (a : Anchor) (c e : Nat), s.sup.anchor = some a ∧ c = s.cmdChannel ∧
        e = a.channelDirectoryBase + 32 * c ∧ s.sup.locked = false ∧ s.part.state = .standby ∧ s.hand 5 = true ∧
        767 < c)
    ∧ (∃ (s : State) (a : Anchor) (c e : Nat), s.sup.anchor = some a ∧ c = s.cmdChannel ∧
        e = a.channelDirectoryBase + 32 * c ∧ s.sup.locked = false ∧ s.part.state = .standby ∧ s.hand 5 = true ∧
        c ≤ 767)
    ∧ (∃ (s : State) (a : Anchor) (c e : Nat), s.sup.anchor = some a ∧ c = s.cmdChannel ∧
        e = a.channelDirectoryBase + 32 * c ∧ s.sup.command.phase = .executing ∧ s.sup.command.directoryWait = .read ∧
        s.sup.command.kind = 4)
    ∧ (∃ (s : State) (a : Anchor) (c e : Nat), s.sup.anchor = some a ∧ c = s.cmdChannel ∧
        e = a.channelDirectoryBase + 32 * c ∧ s.sup.command.phase = .executing ∧ s.sup.command.directoryWait = .read ∧
        s.sup.command.kind = 6) :=
  ⟨⟨handing .standby [4, 768], sampleAnchor, 768, 32768, by decide⟩,
   ⟨handing .standby [4, 767, 1], sampleAnchor, 767, 32736, by decide⟩,
   ⟨handing .standby [5, 768], sampleAnchor, 768, 32768, by decide⟩,
   ⟨handing .standby [5, 767], sampleAnchor, 767, 32736, by decide⟩,
   ⟨(handing .standby [4, 767, 1]).modifyCommand (fun u => { u with directoryWait := .read }), sampleAnchor, 767,
      32736, by decide⟩,
   ⟨(handing .running [6, 767]).modifyCommand (fun u => { u with directoryWait := .read }), sampleAnchor, 767, 32736,
      by decide⟩⟩

theorem test_witness_ReadContextAndQueryCoverage_measures :
    (∃ (m i : Nat) (es : List Entry), es.Pairwise (fun e f => e.block < f.block) ∧ i < coverageFrom m es ∧ i = 1)
    ∧ (∃ (m : Nat) (pre es : List Entry) (e : Entry), es = pre ++ [e] ∧ m ≤ e.block ∧ m = e.block)
    ∧ (∃ (s : State) (channels streaming : List Context),
        channels = (s.cache.validContexts.map s.context).filter (fun x => decide (x.group = 0)) ∧
        streaming = channels.filter (fun x => x.streaming) ∧ streaming ≠ [])
    ∧ (∃ (s : State) (channels streaming : List Context),
        channels = (s.cache.validContexts.map s.context).filter (fun x => decide (x.group = 0)) ∧
        streaming = channels.filter (fun x => x.streaming) ∧ streaming = []) :=
  ⟨⟨4, 1, [⟨3, 1, 0, false⟩, ⟨4, 2, 0, false⟩, ⟨5, 3, 0, false⟩, ⟨7, 4, 0, false⟩], by decide⟩,
   ⟨7, [], [⟨7, 1, 0, false⟩], ⟨7, 1, 0, false⟩, by decide⟩,
   ⟨streamingChannel [⟨0, 1, 0, false⟩] [], [(streamingChannel [⟨0, 1, 0, false⟩] []).context 0],
      [(streamingChannel [⟨0, 1, 0, false⟩] []).context 0], by decide⟩,
   ⟨sample .running, [], [], by decide⟩⟩

theorem test_witness_ReadContextAndQueryCoverage :
    (∃ s : State, s.hand 6 = true ∧ 767 < s.cmdChannel)
    ∧ (∃ (s : State) (k : Nat), s.hand 6 = true ∧ s.cmdChannel ≤ 767 ∧ s.cache.mapEntry s.cmdChannel = some k)
    ∧ (∃ s : State, s.hand 6 = true ∧ s.cmdChannel ≤ 767 ∧ s.cache.mapEntry s.cmdChannel = none)
    ∧ (∃ s : State, s.hand 12 = true ∧ (s.part.state = .armed ∨ s.part.state = .running) ∧ s.cmdWord 1 ≠ 0xFFFFFFFF ∧
        767 < s.cmdChannel)
    ∧ (∃ s : State, s.hand 12 = true ∧ (s.part.state = .armed ∨ s.part.state = .running) ∧ s.cmdWord 1 = 0xFFFFFFFF ∧
        (7 < s.cmdGroup ∨ (s.group s.cmdGroup).defined = false))
    ∧ (∃ s : State, s.hand 12 = true ∧ (s.part.state = .armed ∨ s.part.state = .running) ∧ s.cmdWord 1 ≠ 0xFFFFFFFF ∧
        s.cmdChannel ≤ 767 ∧ s.cache.mapEntry s.cmdChannel = none)
    ∧ (∃ (s : State) (k : Nat), s.hand 12 = true ∧ (s.part.state = .armed ∨ s.part.state = .running) ∧
        s.cmdWord 1 ≠ 0xFFFFFFFF ∧ s.cmdChannel ≤ 767 ∧ s.cache.mapEntry s.cmdChannel = some k)
    ∧ (∃ s : State, s.hand 12 = true ∧ (s.part.state = .armed ∨ s.part.state = .running) ∧ s.cmdWord 1 = 0xFFFFFFFF ∧
        s.cmdGroup ≤ 7 ∧ (s.group s.cmdGroup).defined = true) :=
  ⟨⟨handing .running [6, 768], by decide⟩,
   ⟨withLane (handing .running [6, 5]) Lane.initial, 0, by decide⟩,
   ⟨handing .running [6, 767], by decide⟩,
   ⟨handing .armed [12, 768], by decide⟩,
   ⟨handing .armed [0x0001000C, 0xFFFFFFFF], by decide⟩,
   ⟨handing .armed [12, 767], by decide⟩,
   ⟨withLane (handing .running [12, 5]) Lane.initial, 0, by decide⟩,
   ⟨handing .running [12, 0xFFFFFFFF], by decide⟩⟩

theorem test_witness_ArmShow :
    (∃ (s : State) (b : Nat), s.hand 7 = true ∧ s.sup.locked = false ∧ s.part.state = .standby ∧
        b = (s.cmdWord 2).toNat + 4294967296 * (s.cmdWord 3).toNat ∧ s.definedGroups = [])
    ∧ (∃ (s : State) (b : Nat), s.hand 7 = true ∧ s.sup.locked = false ∧ s.part.state = .standby ∧
        b = (s.cmdWord 2).toNat + 4294967296 * (s.cmdWord 3).toNat ∧ s.definedGroups ≠ [] ∧
        281474976710656 - 1099511627776 ≤ b)
    ∧ (∃ (s : State) (b : Nat), s.hand 7 = true ∧ s.sup.locked = false ∧ s.part.state = .standby ∧
        b = (s.cmdWord 2).toNat + 4294967296 * (s.cmdWord 3).toNat ∧ s.definedGroups ≠ [] ∧
        b < 281474976710656 - 1099511627776) :=
  ⟨⟨{ handing .standby [7, 0, 1, 0] with groups := [] }, 1, by decide⟩,
   ⟨handing .standby [7, 0, 0, 0xFF00], 280375465082880, by decide⟩,
   ⟨handing .standby [7, 0, 0xFFFFFFFF, 0xFEFF], 280375465082879, by decide⟩⟩

theorem test_witness_EndShow :
    (∃ s : State, s.sup.anchor = some sampleAnchor ∧ s.hand 8 = true ∧ s.sup.locked = false ∧
        (s.part.state = .armed ∨ s.part.state = .running) ∧ s.blend.filter (fun j => j.phase != .queued) ≠ [])
    ∧ (∃ s : State, s.sup.anchor = some sampleAnchor ∧ s.hand 8 = true ∧ s.sup.locked = false ∧
        (s.part.state = .armed ∨ s.part.state = .running) ∧ s.blend.filter (fun j => j.phase != .queued) = [] ∧
        s.cache.loads ≠ [])
    ∧ (∃ s : State, s.sup.anchor = some sampleAnchor ∧ s.hand 8 = true ∧ s.sup.locked = false ∧
        (s.part.state = .armed ∨ s.part.state = .running) ∧ s.blend.filter (fun j => j.phase != .queued) = [] ∧
        s.cache.loads = [] ∧ s.cache.contexts ≠ [] ∧ Table.wf Context.initial s.cache.contexts) :=
  ⟨⟨withJobs (handing .running [8]) [sampleJob .reading none], by decide⟩,
   ⟨loadingState (handing .running [8]), by decide⟩,
   ⟨withLane (handing .armed [8]) Lane.initial, by decide⟩⟩

theorem test_witness_TeardownEnd :
    (∃ (s : State) (ws : List (Nat × List Word)), s.sup.teardown = some (.writingBack ws) ∧ 0 ∈ s.definedGroups ∧
        (∀ w ∈ ws, 32767 < w.1 ∨ w.1 + 4 * w.2.length ≤ 32767)) :=
  ⟨{ handing .standby [8] with sup := { (handing .standby [8]).sup with teardown := some (.writingBack [(8192, [1])]) } },
      [(8192, [1])], by decide⟩

theorem test_witness_SwitchCommand :
    (∃ s : State, s.hand 9 = true ∧ (s.part.state = .armed ∨ s.part.state = .running) ∧
        ((s.cmdGroup ≠ 255 ∧ 7 < s.cmdGroup) ∨ (s.cmdGroup ≤ 7 ∧ (s.group s.cmdGroup).defined = false)))
    ∧ (∃ s : State, s.hand 9 = true ∧ (s.part.state = .armed ∨ s.part.state = .running) ∧
        (s.cmdGroup = 255 ∨ (s.cmdGroup ≤ 7 ∧ (s.group s.cmdGroup).defined = true)) ∧
        ((s.cmdWord 1 ≠ 1 ∧ s.cmdWord 1 ≠ 2) ∨ (s.cmdWord 2 ≠ 0 ∧ s.cmdWord 2 ≠ 1)))
    ∧ (∃ (s : State) (r : Role), s.hand 9 = true ∧ (s.part.state = .armed ∨ s.part.state = .running) ∧
        (s.cmdGroup = 255 ∨ (s.cmdGroup ≤ 7 ∧ (s.group s.cmdGroup).defined = true)) ∧
        ((s.cmdWord 1 = 1 ∧ r = .main) ∨ (s.cmdWord 1 = 2 ∧ r = .backup)) ∧ (s.cmdWord 2 = 0 ∨ s.cmdWord 2 = 1) ∧
        s.cmdWord 2 = 0 ∧ s.part.state = .running ∧ (∃ m ∈ s.namedMembers, (s.group m).selectState.fading = true))
    ∧ (∃ (s : State) (r : Role), s.hand 9 = true ∧ (s.part.state = .armed ∨ s.part.state = .running) ∧
        (s.cmdGroup = 255 ∨ (s.cmdGroup ≤ 7 ∧ (s.group s.cmdGroup).defined = true)) ∧
        ((s.cmdWord 1 = 1 ∧ r = .main) ∨ (s.cmdWord 1 = 2 ∧ r = .backup)) ∧ (s.cmdWord 2 = 0 ∨ s.cmdWord 2 = 1) ∧
        (∀ m ∈ s.namedMembers, (s.group m).selectState.fading = false) ∧ 0 ∈ s.namedMembers ∧
        (s.group 0).selectState ≠ .on r ∧ (s.cmdWord 2 = 1 ∨ s.part.state = .armed))
    ∧ (∃ (s : State) (r : Role), s.hand 9 = true ∧ (s.part.state = .armed ∨ s.part.state = .running) ∧
        (s.cmdGroup = 255 ∨ (s.cmdGroup ≤ 7 ∧ (s.group s.cmdGroup).defined = true)) ∧
        ((s.cmdWord 1 = 1 ∧ r = .main) ∨ (s.cmdWord 1 = 2 ∧ r = .backup)) ∧ (s.cmdWord 2 = 0 ∨ s.cmdWord 2 = 1) ∧
        (∀ m ∈ s.namedMembers, (s.group m).selectState.fading = false) ∧ 0 ∈ s.namedMembers ∧
        (s.group 0).selectState ≠ .on r ∧ s.cmdWord 2 = 0 ∧ s.part.state = .running)
    ∧ (∃ (s : State) (r : Role), s.hand 9 = true ∧ (s.part.state = .armed ∨ s.part.state = .running) ∧
        (s.cmdGroup = 255 ∨ (s.cmdGroup ≤ 7 ∧ (s.group s.cmdGroup).defined = true)) ∧
        ((s.cmdWord 1 = 1 ∧ r = .main) ∨ (s.cmdWord 1 = 2 ∧ r = .backup)) ∧ (s.cmdWord 2 = 0 ∨ s.cmdWord 2 = 1) ∧
        (s.cmdWord 2 = 1 ∨ s.part.state = .armed) ∧ (∃ m ∈ s.namedMembers, (s.group m).selectState.fading = true))
    ∧ (∃ (s : State) (r : Role) (ms : List Nat), ms = s.members 0 ∧ ms.Nodup ∧
        (∃ m ∈ ms, (s.group m).selectState.fading = true) ∧ s.part.state ≠ .quiet ∧
        (∃ m ∈ ms, (s.group m).selectState = .to r))
    ∧ (∃ (s : State) (r : Role) (ms : List Nat), ms = s.members 0 ∧ ms.Nodup ∧
        (∃ m ∈ ms, (s.group m).selectState.fading = true) ∧ s.part.state ≠ .quiet ∧
        (∃ m ∈ ms, (s.group m).selectState = .to r.other)) :=
  ⟨⟨handing .armed [0x00080009, 1], by decide⟩,
   ⟨handing .armed [9, 3], by decide⟩,
   ⟨withGroup (handing .running [9, 2]) { GroupRecord.initial with selectState := .toMain, targetRole := .main },
      .backup, by decide⟩,
   ⟨handing .armed [9, 2], .backup, by decide⟩,
   ⟨handing .running [0x00FF0009, 2], .backup, by decide⟩,
   ⟨withGroup (handing .running [9, 2, 1]) { GroupRecord.initial with selectState := .toBackup }, .backup, by decide⟩,
   ⟨withGroup (handing .running [9, 2, 1]) { GroupRecord.initial with selectState := .toBackup }, .backup, [0],
      by decide⟩,
   ⟨withGroup (handing .running [9, 2, 1]) { GroupRecord.initial with selectState := .toBackup }, .main, [0],
      by decide⟩⟩

theorem test_witness_HoldAndRelease :
    (∃ (s : State) (leaders : List Nat), (s.part.state = .armed ∨ s.part.state = .running) ∧
        (s.cmdGroup = 255 ∨ (s.cmdGroup ≤ 7 ∧ (s.group s.cmdGroup).defined = true)) ∧ s.hand 10 = true ∧
        leaders = (if s.cmdGroup = 255 then s.definedGroups.filter (fun g => (s.members g).head? == some g)
          else [s.cmdGroup]) ∧
        0 ∈ leaders.flatMap s.members)
    ∧ (∃ (s : State) (leaders : List Nat), (s.part.state = .armed ∨ s.part.state = .running) ∧
        (s.cmdGroup = 255 ∨ (s.cmdGroup ≤ 7 ∧ (s.group s.cmdGroup).defined = true)) ∧ s.hand 11 = true ∧
        leaders = (if s.cmdGroup = 255 then s.definedGroups.filter (fun g => (s.members g).head? == some g)
          else [s.cmdGroup]) ∧
        0 ∈ leaders.flatMap s.members) :=
  ⟨⟨handing .armed [10], [0], by decide⟩,
   ⟨withGroup (handing .running [0x00FF000B]) { GroupRecord.initial with hold := true }, [0], by decide⟩⟩

theorem test_witness_NoticeReturn :
    (∃ (en : Enables) (s : State), s.burst = none ∧ (en ≠ 15 ∨ s.sup.anchor = none) ∧ s.lines.resetLow = false)
    ∧ (∃ (v : Word) (s : State) (a : Anchor) (n count : Nat), s.burst = none ∧ v = 64 ∧ s.sup.anchor = some a ∧
        s.part.state ≠ .quiet ∧ n = a.noticeRingEntries ∧ count = (v.toNat + n - s.notices.lastHanded) % n ∧
        n ≤ v.toNat ∧ s.lines.resetLow = false)
    ∧ (∃ (v : Word) (s : State) (a : Anchor) (n count : Nat), s.burst = none ∧ v = 62 ∧ s.sup.anchor = some a ∧
        s.part.state ≠ .quiet ∧ n = a.noticeRingEntries ∧ count = (v.toNat + n - s.notices.lastHanded) % n ∧
        v.toNat < n ∧ count = 0 ∧ s.lines.resetLow = false)
    ∧ (∃ (v : Word) (s : State) (a : Anchor) (n count : Nat), s.burst = none ∧ v = 1 ∧ s.sup.anchor = some a ∧
        s.part.state ≠ .quiet ∧ n = a.noticeRingEntries ∧ count = (v.toNat + n - s.notices.lastHanded) % n ∧
        v.toNat < n ∧ n - s.notices.available < count ∧ s.lines.resetLow = false)
    ∧ (∃ (v : Word) (s : State) (a : Anchor) (n count : Nat), s.burst = none ∧ v = 0 ∧ s.sup.anchor = some a ∧
        s.part.state ≠ .quiet ∧ n = a.noticeRingEntries ∧ count = (v.toNat + n - s.notices.lastHanded) % n ∧
        v.toNat < n ∧ count ≠ 0 ∧ count ≤ n - s.notices.available ∧ s.lines.resetLow = false) :=
  ⟨⟨7, sample .standby, by decide⟩,
   ⟨64, returning 62, sampleAnchor, 64, 2, by decide⟩,
   ⟨62, returning 62, sampleAnchor, 64, 0, by decide⟩,
   ⟨1, returning 62, sampleAnchor, 64, 3, by decide⟩,
   ⟨0, returning 62, sampleAnchor, 64, 2, by decide⟩⟩

theorem test_witness_NoticeWrite :
    (∃ l x ls : Nat, l < 256 ∧ x < 281474976710656 ∧ ls < 256 ∧ x = 281474976710655)
    ∧ (∃ (c d : Nat) (lead : Option Nat), c < 65536 ∧ d < 65536 ∧ lead = none)
    ∧ (∃ lead : Option Nat, lead = some 255)
    ∧ (∃ (s : State) (a : Anchor), s.sup.anchor = some a ∧
        (s.notices.writing = true ∨ s.notices.queue = [] ∨ s.notices.available = 0 ∨ s.sup.take ≠ none))
    ∧ (∃ (s : State) (a : Anchor), s.sup.anchor = some a ∧ s.notices.writing = false ∧ s.notices.queue ≠ [] ∧
        0 < s.notices.available ∧ s.sup.take = none)
    ∧ (∃ (s : State) (a : Anchor) (n : Notice) (rest : List Notice) (e : Nat), s.sup.anchor = some a ∧
        s.notices.writing = true ∧ s.notices.queue = n :: rest ∧ e = a.noticeRingBase + 32 * s.notices.writeIndex ∧
        s.landed.notice ≤ 7)
    ∧ (∃ (s : State) (a : Anchor) (n : Notice) (rest : List Notice) (e : Nat), s.sup.anchor = some a ∧
        s.notices.writing = true ∧ s.notices.queue = n :: rest ∧ e = a.noticeRingBase + 32 * s.notices.writeIndex ∧
        s.landed.notice = 7)
    ∧ (∃ (dt : Nat) (s : State) (a : Anchor), dt = 525000 ∧ s.sup.anchor = some a ∧ s.timer.refclkStopped = false ∧
        s.notices.coalesceTime ≠ 0 ∧ 0 < a.noticeRingEntries - s.notices.available ∧
        Table.get 0 s.notices.writeTimes ((s.notices.lastHanded + 1) % a.noticeRingEntries) + s.notices.coalesceTime < (s.timer.now + dt) / 25000)
    ∧ (∃ (dt : Nat) (s : State) (a : Anchor), dt = 524999 ∧ s.sup.anchor = some a ∧ s.timer.refclkStopped = false ∧
        (s.notices.coalesceTime = 0 ∨ a.noticeRingEntries - s.notices.available = 0 ∨
          (s.timer.now + dt) / 25000 ≤ Table.get 0 s.notices.writeTimes ((s.notices.lastHanded + 1) % a.noticeRingEntries) + s.notices.coalesceTime)) :=
  ⟨⟨16, 281474976710655, 4, by decide⟩,
   ⟨65535, 0, none, by decide⟩,
   ⟨some 255, by decide⟩,
   ⟨sample .standby, sampleAnchor, by decide⟩,
   ⟨noticing false, sampleAnchor, by decide⟩,
   ⟨noticing true, sampleAnchor, sampleNotice, [], 2048, by decide⟩,
   ⟨{ noticing true with landed := { Landed.none with notice := 7 } }, sampleAnchor, sampleNotice, [], 2048,
      by decide⟩,
   ⟨525000, returning 63, sampleAnchor, by decide⟩,
   ⟨524999, returning 63, sampleAnchor, by decide⟩⟩

theorem test_witness_StatusRecord :
    (∃ (s : State) (w : StatusWrite) (n k : Nat), s.sup.status.writing = some w ∧ k = min n (w.words.length - 1) ∧
        n = 5)
    ∧ (∃ s : State, s.sup.status.writing = none)
    ∧ (∃ (s : State) (w : StatusWrite), s.sup.status.writing = some w ∧ 0 < w.words.length ∧
        (s.sup.status.followUp = false ∨ s.sup.take ≠ none ∨ s.sup.anchor = none))
    ∧ (∃ (s : State) (w : StatusWrite) (a : Anchor), s.sup.status.writing = some w ∧ s.sup.status.followUp = true ∧
        s.sup.take = none ∧ s.sup.anchor = some a ∧
        (s.sup.goPending = false ∨ s.sup.command.phase ≠ .idle ∨ s.sup.teardown ≠ none ∨ s.part.state = .armed ∨
          s.part.state = .running) ∧
        (s.group 0).defined = true ∧ (s.group 7).defined = false)
    ∧ (∃ (s : State) (w : StatusWrite), s.sup.status.writing = some w ∧ s.sup.goPending = true ∧
        s.sup.command.phase = .idle ∧ s.sup.teardown = none ∧ (s.part.state = .quiet ∨ s.part.state = .standby)) :=
  ⟨⟨writingStatus false, ⟨64, [1]⟩, 5, 0, by decide⟩,
   ⟨sample .standby, by decide⟩,
   ⟨writingStatus false, ⟨64, [1]⟩, by decide⟩,
   ⟨writingStatus true, ⟨64, [1]⟩, sampleAnchor, by decide⟩,
   ⟨goHeld (writingStatus true), ⟨64, [1]⟩, by decide⟩⟩

theorem test_witness_RigPorts :
    (∃ (a : Word) (c l o : Nat), c < 768 ∧ l < 4 ∧ o < 1024 ∧ a.toNat = 4096 * c + 1024 * l + o)
    ∧ (∃ a : Word, 3145728 ≤ a.toNat)
    ∧ (∃ s : State, (s.part.state = .quiet ∨ s.part.state = .standby) ∧ s.lines.resetLow = false)
    ∧ (∃ (s : State) (a : Word), (s.part.state = .armed ∨ s.part.state = .running) ∧ s.cache.ports.get .rig1 = [] ∧
        (rigPlace a = .unused ∨ rigPlace a = .outside) ∧ s.lines.resetLow = false)
    ∧ (∃ s : State, (s.part.state = .armed ∨ s.part.state = .running) ∧ s.cache.ports.get .rig1 ≠ [] ∧
        s.lines.resetLow = false)
    ∧ (∃ (s : State) (a : Word) (c l i : Nat), (s.part.state = .armed ∨ s.part.state = .running) ∧
        s.cache.ports.get .rig1 = [] ∧ rigPlace a = .payload c l i ∧ s.cache.mapEntry c = none ∧
        s.cache.loading c = false ∧ s.lines.resetLow = false)
    ∧ (∃ (s : State) (a : Word) (c l i : Nat), (s.part.state = .armed ∨ s.part.state = .running) ∧
        s.cache.ports.get .rig2 = [] ∧ rigPlace a = .payload c l i ∧ s.cache.mapEntry c = none ∧
        s.cache.loading c = false ∧ s.cache.evicting c = false ∧ s.cache.sends ≠ [] ∧ s.lines.resetLow = false)
    ∧ (∃ (s : State) (a : Word) (c l : Nat), (s.part.state = .armed ∨ s.part.state = .running) ∧
        s.cache.ports.get .rig2 = [] ∧ rigPlace a = .commit c l ∧ s.cache.mapEntry c = none ∧
        s.cache.loading c = true ∧ s.lines.resetLow = false)
    ∧ (∃ (s : State) (x n : Nat) (er : Bool), x = 3145724 ∧ n = 1 ∧ s.cache.ports.get .rig1 = [] ∧
        (er = true ↔ 0 < n ∧ 3145728 ≤ x + 4 * (n - 1)) ∧ s.lines.resetLow = false)
    ∧ (∃ (s : State) (x n : Nat) (er : Bool), x = 3145724 ∧ n = 2 ∧ s.cache.ports.get .rig1 = [] ∧
        (er = true ↔ 0 < n ∧ 3145728 ≤ x + 4 * (n - 1)) ∧ s.lines.resetLow = false) :=
  ⟨⟨3145727, 767, 3, 1023, by decide⟩,
   ⟨3145728, by decide⟩,
   ⟨sample .standby, by decide⟩,
   ⟨sample .armed, 540, by decide⟩,
   ⟨loadingState (sample .running), by decide⟩,
   ⟨sample .running, 3144704, 767, 3, 0, by decide⟩,
   ⟨evictingState [], 3144704, 767, 3, 0, by decide⟩,
   ⟨loadingState (sample .running), 25112, 6, 0, by decide⟩,
   ⟨sample .standby, 3145724, 1, false, by decide⟩,
   ⟨sample .running, 3145724, 2, true, by decide⟩⟩

/-- The answers of a rig port's reads exist. -/
theorem test_witness_RigPorts_answers : ∃ answer : Nat × Nat → ReadAnswer,
    ∀ q, ∃ er, (er = true ↔ 0 < q.2 ∧ 3145728 ≤ q.1 + 4 * (q.2 - 1)) ∧ answer q = ⟨List.replicate q.2 0, er⟩ :=
  ⟨fun q => ⟨_, decide (0 < q.2 ∧ 3145728 ≤ q.1 + 4 * (q.2 - 1))⟩, fun _ => ⟨_, decide_eq_true_iff, rfl⟩⟩

theorem test_witness_OpenLaneWrites :
    (∃ (s : State) (a : Word) (ln : Lane) (i : Nat), (s.part.state = .armed ∨ s.part.state = .running) ∧
        s.cache.ports.get .rig1 = [] ∧ s.cache.mapEntry 5 = some 0 ∧ ln = s.lane 0 .rig1 0 ∧
        rigPlace a = .payload 5 0 i ∧ (ln.state = .spoiled ∨ ln.state = .starved) ∧ s.lines.resetLow = false)
    ∧ (∃ (s : State) (a : Word) (ln : Lane) (i : Nat), (s.part.state = .armed ∨ s.part.state = .running) ∧
        s.cache.ports.get .rig1 = [] ∧ s.cache.mapEntry 5 = some 0 ∧ ln = s.lane 0 .rig1 0 ∧
        rigPlace a = .header 5 0 i ∧ (ln.state = .spoiled ∨ ln.state = .starved) ∧ s.lines.resetLow = false)
    ∧ (∃ (s : State) (a : Word) (ln : Lane) (i b : Nat), (s.part.state = .armed ∨ s.part.state = .running) ∧
        s.cache.ports.get .rig1 = [] ∧ s.cache.mapEntry 5 = some 0 ∧ ln = s.lane 0 .rig1 0 ∧
        rigPlace a = .payload 5 0 i ∧ ln.state = .filling ∧ ln.bucket = some b ∧ i = ln.nextWord ∧ i < 128 ∧
        s.lines.resetLow = false)
    ∧ (∃ (s : State) (a : Word) (ln : Lane) (i : Nat), (s.part.state = .armed ∨ s.part.state = .running) ∧
        s.cache.ports.get .rig1 = [] ∧ s.cache.mapEntry 5 = some 0 ∧ ln = s.lane 0 .rig1 0 ∧
        rigPlace a = .payload 5 0 i ∧ ln.state = .filling ∧ (i ≠ ln.nextWord ∨ 128 ≤ i) ∧ s.lines.resetLow = false)
    ∧ (∃ (s : State) (a : Word) (ln : Lane) (i : Nat) (en : Enables),
        (s.part.state = .armed ∨ s.part.state = .running) ∧ s.cache.ports.get .rig1 = [] ∧
        s.cache.mapEntry 5 = some 0 ∧ ln = s.lane 0 .rig1 0 ∧ rigPlace a = .payload 5 0 i ∧ ln.state = .filling ∧
        (en ≠ 15 ∨ i ≠ ln.nextWord ∨ 128 ≤ i) ∧ i = ln.nextWord ∧ s.lines.resetLow = false)
    ∧ (∃ (s : State) (a : Word) (ln : Lane) (i : Nat), (s.part.state = .armed ∨ s.part.state = .running) ∧
        s.cache.ports.get .rig1 = [] ∧ s.cache.mapEntry 5 = some 0 ∧ ln = s.lane 0 .rig1 0 ∧
        rigPlace a = .header 5 0 i ∧ ln.state = .filling ∧ s.lines.resetLow = false) :=
  ⟨⟨withLane (sample .running) { fullLane with state := .spoiled }, 20480, { fullLane with state := .spoiled }, 0,
      by decide⟩,
   ⟨withLane (sample .running) { fullLane with state := .starved }, 20992, { fullLane with state := .starved }, 0,
      by decide⟩,
   ⟨withLane (sample .running) { fullLane with nextWord := 127 }, 20988, { fullLane with nextWord := 127 }, 127, 1,
      by decide⟩,
   ⟨withLane (sample .running) fullLane, 20988, fullLane, 127, by decide⟩,
   ⟨withLane (sample .running) { fullLane with nextWord := 127 }, 20988, { fullLane with nextWord := 127 }, 127, 7,
      by decide⟩,
   ⟨withLane (sample .armed) fullLane, 21012, fullLane, 5, by decide⟩⟩

theorem test_witness_LaneOpens :
    (∃ (s : State) (g b : Nat) (rest : List Nat), (s.part.state = .armed ∨ s.part.state = .running) ∧
        s.cache.ports.get .rig1 = [] ∧ s.cache.mapEntry 5 = some 0 ∧ rigPlace 20480 = .payload 5 0 0 ∧
        (s.lane 0 .rig1 0).state = .idle ∧ g = (s.context 0).group ∧
        s.pool.laneCharge .rig1 (s.roleOf .rig1 == (s.group g).targetRole) = some (.quota .rig1) ∧
        s.pool.freeList = b :: rest ∧ s.lines.resetLow = false)
    ∧ (∃ (s : State) (g b : Nat) (rest : List Nat), (s.part.state = .armed ∨ s.part.state = .running) ∧
        s.cache.ports.get .rig1 = [] ∧ s.cache.mapEntry 5 = some 0 ∧ rigPlace 20480 = .payload 5 0 0 ∧
        (s.lane 0 .rig1 0).state = .idle ∧ g = (s.context 0).group ∧
        s.pool.laneCharge .rig1 (s.roleOf .rig1 == (s.group g).targetRole) = some (.common .rig1) ∧
        s.pool.freeList = b :: rest ∧ s.part.state = .running ∧ s.lines.resetLow = false)
    ∧ (∃ (s : State) (g : Nat), (s.part.state = .armed ∨ s.part.state = .running) ∧ s.cache.ports.get .rig1 = [] ∧
        s.cache.mapEntry 5 = some 0 ∧ rigPlace 20480 = .payload 5 0 0 ∧ (s.lane 0 .rig1 0).state = .idle ∧
        g = (s.context 0).group ∧ s.pool.laneCharge .rig1 (s.roleOf .rig1 == (s.group g).targetRole) = none ∧
        s.lines.resetLow = false)
    ∧ (∃ (s : State) (g b : Nat) (rest : List Nat), (s.part.state = .armed ∨ s.part.state = .running) ∧
        s.cache.ports.get .rig1 = [] ∧ s.cache.mapEntry 5 = some 0 ∧ rigPlace 20480 = .payload 5 0 0 ∧
        (s.lane 0 .rig1 0).state = .idle ∧ g = (s.context 0).group ∧ rigPlace 20484 = .payload 5 0 1 ∧
        s.pool.laneCharge .rig1 (s.roleOf .rig1 == (s.group g).targetRole) = some (.quota .rig1) ∧
        s.pool.freeList = b :: rest ∧ s.lines.resetLow = false)
    ∧ (∃ (s : State) (g b : Nat) (rest : List Nat), (s.part.state = .armed ∨ s.part.state = .running) ∧
        s.cache.ports.get .rig1 = [] ∧ s.cache.mapEntry 5 = some 0 ∧ rigPlace 20480 = .payload 5 0 0 ∧
        (s.lane 0 .rig1 0).state = .idle ∧ g = (s.context 0).group ∧ rigPlace 21012 = .header 5 0 5 ∧
        s.pool.laneCharge .rig1 (s.roleOf .rig1 == (s.group g).targetRole) = some (.quota .rig1) ∧
        s.pool.freeList = b :: rest ∧ s.lines.resetLow = false)
    ∧ (∃ (s : State) (g : Nat), (s.part.state = .armed ∨ s.part.state = .running) ∧ s.cache.ports.get .rig1 = [] ∧
        s.cache.mapEntry 5 = some 0 ∧ rigPlace 20480 = .payload 5 0 0 ∧ (s.lane 0 .rig1 0).state = .idle ∧
        g = (s.context 0).group ∧ rigPlace 20992 = .header 5 0 0 ∧
        s.pool.laneCharge .rig1 (s.roleOf .rig1 == (s.group g).targetRole) = none ∧ s.lines.resetLow = false) :=
  ⟨⟨withLane (sample .running) Lane.initial, 0, 1, [2], by decide⟩,
   ⟨withPool (withLane (sample .running) Lane.initial) 2048, 0, 1, [2], by decide⟩,
   ⟨withPool (withLane (sample .running) Lane.initial) 65, 0, by decide⟩,
   ⟨withLane (sample .running) Lane.initial, 0, 1, [2], by decide⟩,
   ⟨withLane (sample .armed) Lane.initial, 0, 1, [2], by decide⟩,
   ⟨withPool (withLane (sample .running) Lane.initial) 65, 0, by decide⟩⟩

set_option maxRecDepth 20000 in
theorem test_witness_CommitWrite :
    (∃ (s : State) (x : Context) (ln : Lane) (n : Nat), (s.part.state = .armed ∨ s.part.state = .running) ∧
        s.cache.ports.get .rig1 = [] ∧ s.cache.mapEntry 5 = some 0 ∧ rigPlace 21016 = .commit 5 0 ∧ x = s.context 0 ∧
        ln = x.lane .rig1 0 ∧ n = ln.blockNumber ∧ ln.state = .idle ∧ s.lines.resetLow = false)
    ∧ (∃ (s : State) (x : Context) (ln : Lane) (n : Nat) (o : LaneOutcome) (v : Word) (en : Enables),
        (s.part.state = .armed ∨ s.part.state = .running) ∧ s.cache.ports.get .rig1 = [] ∧
        s.cache.mapEntry 5 = some 0 ∧ rigPlace 21016 = .commit 5 0 ∧ x = s.context 0 ∧ ln = x.lane .rig1 0 ∧
        n = ln.blockNumber ∧ ln.state ≠ .idle ∧
        (o = (if ¬(en = 15 ∧ v = 1) then .abandoned else if ln.state = .starved then .starved
          else if ln.state = .spoiled then .spoiled else if ln.nextWord < 128 then .incomplete
          else if (ln.headerWord 0).toNat % 65536 ≠ 1 ∨ (ln.headerWord 1).toNat ≠ x.channel ∨
          (ln.headerWord 3).toNat / 65536 ≠ 0 then .malformed
          else if ln.crc ^^^ 0xFFFFFFFF ≠ ln.headerWord 4 then .crcMismatch
          else if n < s.resolver.resolveFront then .late
          else if (s.ring x.group).playBase + s.cache.horizon ≤ n then .tooEarly
          else if ∃ e ∈ x.lists.get .rig1, e.block = n then .replaced else .accepted)) ∧
        o = .abandoned ∧ s.lines.resetLow = false)
    ∧ (∃ (s : State) (x : Context) (ln : Lane) (n : Nat) (o : LaneOutcome) (v : Word) (en : Enables),
        (s.part.state = .armed ∨ s.part.state = .running) ∧ s.cache.ports.get .rig1 = [] ∧
        s.cache.mapEntry 5 = some 0 ∧ rigPlace 21016 = .commit 5 0 ∧ x = s.context 0 ∧ ln = x.lane .rig1 0 ∧
        n = ln.blockNumber ∧ ln.state ≠ .idle ∧
        (o = (if ¬(en = 15 ∧ v = 1) then .abandoned else if ln.state = .starved then .starved
          else if ln.state = .spoiled then .spoiled else if ln.nextWord < 128 then .incomplete
          else if (ln.headerWord 0).toNat % 65536 ≠ 1 ∨ (ln.headerWord 1).toNat ≠ x.channel ∨
          (ln.headerWord 3).toNat / 65536 ≠ 0 then .malformed
          else if ln.crc ^^^ 0xFFFFFFFF ≠ ln.headerWord 4 then .crcMismatch
          else if n < s.resolver.resolveFront then .late
          else if (s.ring x.group).playBase + s.cache.horizon ≤ n then .tooEarly
          else if ∃ e ∈ x.lists.get .rig1, e.block = n then .replaced else .accepted)) ∧
        o = .abandoned ∧ s.lines.resetLow = false)
    ∧ (∃ (s : State) (x : Context) (ln : Lane) (n : Nat) (o : LaneOutcome) (v : Word) (en : Enables),
        (s.part.state = .armed ∨ s.part.state = .running) ∧ s.cache.ports.get .rig1 = [] ∧
        s.cache.mapEntry 5 = some 0 ∧ rigPlace 21016 = .commit 5 0 ∧ x = s.context 0 ∧ ln = x.lane .rig1 0 ∧
        n = ln.blockNumber ∧ ln.state ≠ .idle ∧
        (o = (if ¬(en = 15 ∧ v = 1) then .abandoned else if ln.state = .starved then .starved
          else if ln.state = .spoiled then .spoiled else if ln.nextWord < 128 then .incomplete
          else if (ln.headerWord 0).toNat % 65536 ≠ 1 ∨ (ln.headerWord 1).toNat ≠ x.channel ∨
          (ln.headerWord 3).toNat / 65536 ≠ 0 then .malformed
          else if ln.crc ^^^ 0xFFFFFFFF ≠ ln.headerWord 4 then .crcMismatch
          else if n < s.resolver.resolveFront then .late
          else if (s.ring x.group).playBase + s.cache.horizon ≤ n then .tooEarly
          else if ∃ e ∈ x.lists.get .rig1, e.block = n then .replaced else .accepted)) ∧
        o = .starved ∧ s.lines.resetLow = false)
    ∧ (∃ (s : State) (x : Context) (ln : Lane) (n : Nat) (o : LaneOutcome) (v : Word) (en : Enables),
        (s.part.state = .armed ∨ s.part.state = .running) ∧ s.cache.ports.get .rig1 = [] ∧
        s.cache.mapEntry 5 = some 0 ∧ rigPlace 21016 = .commit 5 0 ∧ x = s.context 0 ∧ ln = x.lane .rig1 0 ∧
        n = ln.blockNumber ∧ ln.state ≠ .idle ∧
        (o = (if ¬(en = 15 ∧ v = 1) then .abandoned else if ln.state = .starved then .starved
          else if ln.state = .spoiled then .spoiled else if ln.nextWord < 128 then .incomplete
          else if (ln.headerWord 0).toNat % 65536 ≠ 1 ∨ (ln.headerWord 1).toNat ≠ x.channel ∨
          (ln.headerWord 3).toNat / 65536 ≠ 0 then .malformed
          else if ln.crc ^^^ 0xFFFFFFFF ≠ ln.headerWord 4 then .crcMismatch
          else if n < s.resolver.resolveFront then .late
          else if (s.ring x.group).playBase + s.cache.horizon ≤ n then .tooEarly
          else if ∃ e ∈ x.lists.get .rig1, e.block = n then .replaced else .accepted)) ∧
        o = .spoiled ∧ s.lines.resetLow = false)
    ∧ (∃ (s : State) (x : Context) (ln : Lane) (n : Nat) (o : LaneOutcome) (v : Word) (en : Enables),
        (s.part.state = .armed ∨ s.part.state = .running) ∧ s.cache.ports.get .rig1 = [] ∧
        s.cache.mapEntry 5 = some 0 ∧ rigPlace 21016 = .commit 5 0 ∧ x = s.context 0 ∧ ln = x.lane .rig1 0 ∧
        n = ln.blockNumber ∧ ln.state ≠ .idle ∧
        (o = (if ¬(en = 15 ∧ v = 1) then .abandoned else if ln.state = .starved then .starved
          else if ln.state = .spoiled then .spoiled else if ln.nextWord < 128 then .incomplete
          else if (ln.headerWord 0).toNat % 65536 ≠ 1 ∨ (ln.headerWord 1).toNat ≠ x.channel ∨
          (ln.headerWord 3).toNat / 65536 ≠ 0 then .malformed
          else if ln.crc ^^^ 0xFFFFFFFF ≠ ln.headerWord 4 then .crcMismatch
          else if n < s.resolver.resolveFront then .late
          else if (s.ring x.group).playBase + s.cache.horizon ≤ n then .tooEarly
          else if ∃ e ∈ x.lists.get .rig1, e.block = n then .replaced else .accepted)) ∧
        o = .incomplete ∧ s.lines.resetLow = false)
    ∧ (∃ (s : State) (x : Context) (ln : Lane) (n : Nat) (o : LaneOutcome) (v : Word) (en : Enables),
        (s.part.state = .armed ∨ s.part.state = .running) ∧ s.cache.ports.get .rig1 = [] ∧
        s.cache.mapEntry 5 = some 0 ∧ rigPlace 21016 = .commit 5 0 ∧ x = s.context 0 ∧ ln = x.lane .rig1 0 ∧
        n = ln.blockNumber ∧ ln.state ≠ .idle ∧
        (o = (if ¬(en = 15 ∧ v = 1) then .abandoned else if ln.state = .starved then .starved
          else if ln.state = .spoiled then .spoiled else if ln.nextWord < 128 then .incomplete
          else if (ln.headerWord 0).toNat % 65536 ≠ 1 ∨ (ln.headerWord 1).toNat ≠ x.channel ∨
          (ln.headerWord 3).toNat / 65536 ≠ 0 then .malformed
          else if ln.crc ^^^ 0xFFFFFFFF ≠ ln.headerWord 4 then .crcMismatch
          else if n < s.resolver.resolveFront then .late
          else if (s.ring x.group).playBase + s.cache.horizon ≤ n then .tooEarly
          else if ∃ e ∈ x.lists.get .rig1, e.block = n then .replaced else .accepted)) ∧
        o = .malformed ∧ s.lines.resetLow = false)
    ∧ (∃ (s : State) (x : Context) (ln : Lane) (n : Nat) (o : LaneOutcome) (v : Word) (en : Enables),
        (s.part.state = .armed ∨ s.part.state = .running) ∧ s.cache.ports.get .rig1 = [] ∧
        s.cache.mapEntry 5 = some 0 ∧ rigPlace 21016 = .commit 5 0 ∧ x = s.context 0 ∧ ln = x.lane .rig1 0 ∧
        n = ln.blockNumber ∧ ln.state ≠ .idle ∧
        (o = (if ¬(en = 15 ∧ v = 1) then .abandoned else if ln.state = .starved then .starved
          else if ln.state = .spoiled then .spoiled else if ln.nextWord < 128 then .incomplete
          else if (ln.headerWord 0).toNat % 65536 ≠ 1 ∨ (ln.headerWord 1).toNat ≠ x.channel ∨
          (ln.headerWord 3).toNat / 65536 ≠ 0 then .malformed
          else if ln.crc ^^^ 0xFFFFFFFF ≠ ln.headerWord 4 then .crcMismatch
          else if n < s.resolver.resolveFront then .late
          else if (s.ring x.group).playBase + s.cache.horizon ≤ n then .tooEarly
          else if ∃ e ∈ x.lists.get .rig1, e.block = n then .replaced else .accepted)) ∧
        o = .crcMismatch ∧ s.lines.resetLow = false)
    ∧ (∃ (s : State) (x : Context) (ln : Lane) (n : Nat) (o : LaneOutcome) (v : Word) (en : Enables),
        (s.part.state = .armed ∨ s.part.state = .running) ∧ s.cache.ports.get .rig1 = [] ∧
        s.cache.mapEntry 5 = some 0 ∧ rigPlace 21016 = .commit 5 0 ∧ x = s.context 0 ∧ ln = x.lane .rig1 0 ∧
        n = ln.blockNumber ∧ ln.state ≠ .idle ∧
        (o = (if ¬(en = 15 ∧ v = 1) then .abandoned else if ln.state = .starved then .starved
          else if ln.state = .spoiled then .spoiled else if ln.nextWord < 128 then .incomplete
          else if (ln.headerWord 0).toNat % 65536 ≠ 1 ∨ (ln.headerWord 1).toNat ≠ x.channel ∨
          (ln.headerWord 3).toNat / 65536 ≠ 0 then .malformed
          else if ln.crc ^^^ 0xFFFFFFFF ≠ ln.headerWord 4 then .crcMismatch
          else if n < s.resolver.resolveFront then .late
          else if (s.ring x.group).playBase + s.cache.horizon ≤ n then .tooEarly
          else if ∃ e ∈ x.lists.get .rig1, e.block = n then .replaced else .accepted)) ∧
        o = .late ∧ s.lines.resetLow = false)
    ∧ (∃ (s : State) (x : Context) (ln : Lane) (n : Nat) (o : LaneOutcome) (v : Word) (en : Enables),
        (s.part.state = .armed ∨ s.part.state = .running) ∧ s.cache.ports.get .rig1 = [] ∧
        s.cache.mapEntry 5 = some 0 ∧ rigPlace 21016 = .commit 5 0 ∧ x = s.context 0 ∧ ln = x.lane .rig1 0 ∧
        n = ln.blockNumber ∧ ln.state ≠ .idle ∧
        (o = (if ¬(en = 15 ∧ v = 1) then .abandoned else if ln.state = .starved then .starved
          else if ln.state = .spoiled then .spoiled else if ln.nextWord < 128 then .incomplete
          else if (ln.headerWord 0).toNat % 65536 ≠ 1 ∨ (ln.headerWord 1).toNat ≠ x.channel ∨
          (ln.headerWord 3).toNat / 65536 ≠ 0 then .malformed
          else if ln.crc ^^^ 0xFFFFFFFF ≠ ln.headerWord 4 then .crcMismatch
          else if n < s.resolver.resolveFront then .late
          else if (s.ring x.group).playBase + s.cache.horizon ≤ n then .tooEarly
          else if ∃ e ∈ x.lists.get .rig1, e.block = n then .replaced else .accepted)) ∧
        o = .tooEarly ∧ s.lines.resetLow = false)
    ∧ (∃ (s : State) (x : Context) (ln : Lane) (n : Nat) (o : LaneOutcome) (v : Word) (en : Enables),
        (s.part.state = .armed ∨ s.part.state = .running) ∧ s.cache.ports.get .rig1 = [] ∧
        s.cache.mapEntry 5 = some 0 ∧ rigPlace 21016 = .commit 5 0 ∧ x = s.context 0 ∧ ln = x.lane .rig1 0 ∧
        n = ln.blockNumber ∧ ln.state ≠ .idle ∧
        (o = (if ¬(en = 15 ∧ v = 1) then .abandoned else if ln.state = .starved then .starved
          else if ln.state = .spoiled then .spoiled else if ln.nextWord < 128 then .incomplete
          else if (ln.headerWord 0).toNat % 65536 ≠ 1 ∨ (ln.headerWord 1).toNat ≠ x.channel ∨
          (ln.headerWord 3).toNat / 65536 ≠ 0 then .malformed
          else if ln.crc ^^^ 0xFFFFFFFF ≠ ln.headerWord 4 then .crcMismatch
          else if n < s.resolver.resolveFront then .late
          else if (s.ring x.group).playBase + s.cache.horizon ≤ n then .tooEarly
          else if ∃ e ∈ x.lists.get .rig1, e.block = n then .replaced else .accepted)) ∧
        o = .accepted ∧ s.lines.resetLow = false)
    ∧ (∃ (s : State) (x : Context) (ln : Lane) (n : Nat) (o : LaneOutcome) (v : Word) (en : Enables),
        (s.part.state = .armed ∨ s.part.state = .running) ∧ s.cache.ports.get .rig1 = [] ∧
        s.cache.mapEntry 5 = some 0 ∧ rigPlace 21016 = .commit 5 0 ∧ x = s.context 0 ∧ ln = x.lane .rig1 0 ∧
        n = ln.blockNumber ∧ ln.state ≠ .idle ∧
        (o = (if ¬(en = 15 ∧ v = 1) then .abandoned else if ln.state = .starved then .starved
          else if ln.state = .spoiled then .spoiled else if ln.nextWord < 128 then .incomplete
          else if (ln.headerWord 0).toNat % 65536 ≠ 1 ∨ (ln.headerWord 1).toNat ≠ x.channel ∨
          (ln.headerWord 3).toNat / 65536 ≠ 0 then .malformed
          else if ln.crc ^^^ 0xFFFFFFFF ≠ ln.headerWord 4 then .crcMismatch
          else if n < s.resolver.resolveFront then .late
          else if (s.ring x.group).playBase + s.cache.horizon ≤ n then .tooEarly
          else if ∃ e ∈ x.lists.get .rig1, e.block = n then .replaced else .accepted)) ∧
        o = .replaced ∧ s.lines.resetLow = false) :=
  ⟨⟨withLane (sample .armed) Lane.initial, (withLane (sample .armed) Lane.initial).context 0, Lane.initial, 0,
      by decide⟩,
   ⟨withLane (sample .running) (goodLane 31), (withLane (sample .running) (goodLane 31)).context 0, (goodLane 31),
      31, .abandoned, 2, 15, by decide⟩,
   ⟨withLane (sample .running) (goodLane 31), (withLane (sample .running) (goodLane 31)).context 0, (goodLane 31),
      31, .abandoned, 1, 7, by decide⟩,
   ⟨withLane (sample .running) { fullLane with state := .starved, bucket := none },
      (withLane (sample .running) { fullLane with state := .starved, bucket := none }).context 0,
      { fullLane with state := .starved, bucket := none }, 0, .starved, 1, 15, by decide⟩,
   ⟨withLane (sample .running) { fullLane with state := .spoiled },
      (withLane (sample .running) { fullLane with state := .spoiled }).context 0, { fullLane with state := .spoiled },
      0, .spoiled, 1, 15, by decide⟩,
   ⟨withLane (sample .running) { fullLane with nextWord := 127 },
      (withLane (sample .running) { fullLane with nextWord := 127 }).context 0, { fullLane with nextWord := 127 }, 0,
      .incomplete, 1, 15, by decide⟩,
   ⟨withLane (sample .running) fullLane, (withLane (sample .running) fullLane).context 0, fullLane, 0, .malformed, 1,
      15, by decide⟩,
   ⟨withLane (sample .running) { (goodLane 31) with crc := 0 },
      (withLane (sample .running) { (goodLane 31) with crc := 0 }).context 0, { (goodLane 31) with crc := 0 }, 31,
      .crcMismatch, 1, 15, by decide⟩,
   ⟨{ withLane (sample .running) (goodLane 31) with resolver := { Resolver.initial with resolveFront := 32 } },
      ({ withLane (sample .running) (goodLane 31) with resolver := { Resolver.initial with resolveFront := 32 } }).context 0,
      (goodLane 31), 31, .late, 1, 15, by decide⟩,
   ⟨withLane (sample .running) (goodLane 32), (withLane (sample .running) (goodLane 32)).context 0, (goodLane 32),
      32, .tooEarly, 1, 15, by decide⟩,
   ⟨withLane (sample .running) (goodLane 31), (withLane (sample .running) (goodLane 31)).context 0, (goodLane 31),
      31, .accepted, 1, 15, by decide⟩,
   ⟨withLaneAndEntry (goodLane 31) ⟨31, 2, 0, false⟩, (withLaneAndEntry (goodLane 31) ⟨31, 2, 0, false⟩).context 0,
      (goodLane 31), 31, .replaced, 1, 15, by decide⟩⟩

set_option maxRecDepth 20000 in
theorem test_witness_CommitWrite_claims :
    (∃ (s : State) (x : Context) (ln : Lane) (b : Nat) (old : Entry),
        (s.part.state = .armed ∨ s.part.state = .running) ∧ s.cache.ports.get .rig1 = [] ∧
        s.cache.mapEntry 5 = some 0 ∧ rigPlace 21016 = .commit 5 0 ∧ x = s.context 0 ∧ ln = x.lane .rig1 0 ∧
        ln.state ≠ .idle ∧ ln.bucket = some b ∧ findEntry ln.blockNumber (x.lists.get .rig1) = some old ∧
        (s.pool.bucket b).state = .filling ∧ (s.pool.bucket old.bucket).state = .retained)
    ∧ (∃ (s : State) (x : Context) (m : HealthRecord), s.part.state = .running ∧ x = s.context 0 ∧
        m = (s.healthOf x.group).record (s.roleOf .rig1)) :=
  ⟨⟨withLaneAndEntry (goodLane 31) ⟨31, 2, 0, false⟩, (withLaneAndEntry (goodLane 31) ⟨31, 2, 0, false⟩).context 0,
      goodLane 31, 1, ⟨31, 2, 0, false⟩, by decide⟩,
   ⟨withLane (sample .running) Lane.initial, (withLane (sample .running) Lane.initial).context 0, .start, by decide⟩⟩

theorem test_witness_StaleLanesAndExpiry :
    (∃ s : State, s.cache.mapEntry 5 = none)
    ∧ (∃ (s : State) (k : Nat) (x : Context) (ln : Lane), x = s.context k ∧ ln = x.lane .rig1 0 ∧
        s.cache.mapEntry 5 = some k ∧
        (s.part.state ≠ .running ∨ ln.state = .idle ∨ s.part.period ≤ ln.openPeriod + 8) ∧ s.part.period = 8)
    ∧ (∃ (s : State) (k : Nat) (x : Context) (ln : Lane), x = s.context k ∧ ln = x.lane .rig1 0 ∧
        s.cache.mapEntry 5 = some k ∧ s.part.state = .running ∧ ln.state ≠ .idle ∧ ln.openPeriod + 8 < s.part.period ∧
        s.part.period = 9)
    ∧ (∃ (s : State) (k : Nat) (x : Context) (ln : Lane), x = s.context k ∧ ln = x.lane .rig1 0 ∧
        s.cache.mapEntry 5 = some k ∧
        (s.part.state ≠ .running ∨ x.streaming = false ∨ s.part.period ≤ x.lastCommit + s.cache.expectSpan) ∧
        s.part.period = 32)
    ∧ (∃ (s : State) (k : Nat) (x : Context) (ln : Lane), x = s.context k ∧ ln = x.lane .rig1 0 ∧
        s.cache.mapEntry 5 = some k ∧ s.part.state = .running ∧ x.streaming = true ∧
        x.lastCommit + s.cache.expectSpan < s.part.period ∧ s.part.period = 33) :=
  ⟨⟨sample .running, by decide⟩,
   ⟨aged .running fullLane 8, 0, (aged .running fullLane 8).context 0, (aged .running fullLane 8).lane 0 .rig1 0,
      by decide⟩,
   ⟨aged .running fullLane 9, 0, (aged .running fullLane 9).context 0, (aged .running fullLane 9).lane 0 .rig1 0,
      by decide⟩,
   ⟨aged .running fullLane 32, 0, (aged .running fullLane 32).context 0, (aged .running fullLane 32).lane 0 .rig1 0,
      by decide⟩,
   ⟨aged .running fullLane 33, 0, (aged .running fullLane 33).context 0, (aged .running fullLane 33).lane 0 .rig1 0,
      by decide⟩⟩

/-- The ports' requests that a load's end takes up exist for every request. -/
theorem test_witness_load_ports : ∀ (s : State) (q : LoadRequest), ∃ emptied next behind : PerRig (List RigRequest), ∀ r,
    emptied.get r = (if q.waiting.get r then [] else s.cache.ports.get r)
      ∧ next.get r = (if q.waiting.get r then s.cache.ports.get r else [])
      ∧ behind.get r = (if q.waiting.get r then (s.cache.ports.get r).tail else []) :=
  fun s q => ⟨⟨if q.waiting.rig1 then [] else s.cache.ports.rig1, if q.waiting.rig2 then [] else s.cache.ports.rig2⟩,
    ⟨if q.waiting.rig1 then s.cache.ports.rig1 else [], if q.waiting.rig2 then s.cache.ports.rig2 else []⟩,
    ⟨if q.waiting.rig1 then s.cache.ports.rig1.tail else [], if q.waiting.rig2 then s.cache.ports.rig2.tail else []⟩,
    fun r => by cases r <;> exact ⟨rfl, rfl, rfl⟩⟩

/-- The stray counts of a load that finds its channel undefined: a held commit counts, a held payload write does not. -/
theorem test_witness_stray : ∃ (s : State) (q : LoadRequest) (stray : PerRig Nat), s.cache.readingRequest 6 = some q
    ∧ CacheSend.read 6 ∉ s.cache.sends ∧ s.sup.teardown = none ∧ (s.dirEntry 6).defined = false ∧ q.waiting = ⟨true, false⟩
    ∧ (∃ w c' l, s.cache.ports.get .rig1 = [.write w] ∧ rigPlace w.addr = .commit c' l)
    ∧ stray = ⟨1, 0⟩ :=
  ⟨(loadingState (sample .running)).setPort .rig1 [.write ⟨25112, 1, 15⟩], sampleRequest true, ⟨1, 0⟩, by decide, by decide, rfl, by decide,
   rfl, ⟨⟨25112, 1, 15⟩, 6, 0, rfl, by decide⟩, rfl⟩

set_option maxRecDepth 20000 in
theorem test_witness_ContextLoad_victim :
    (∃ (x : Cache) (k : Nat), x.lowestFree = some k)
    ∧ (∃ (x : Cache) (k : Nat), x.victim = some k)
    ∧ (∃ y : Context, y.evictable = true) :=
  ⟨⟨Cache.initial, 0, by decide⟩,
   ⟨{ Cache.initial with contexts := fullCache false, lru := [3] }, 3, by decide⟩,
   ⟨contextOf 5, by decide⟩⟩

set_option maxRecDepth 20000 in
theorem test_witness_ContextLoad :
    (∃ s : State, s.sup.teardown = none ∧ s.cache.readingRequest 6 = none)
    ∧ (∃ (s : State) (q : LoadRequest), s.cache.readingRequest 6 = some q ∧ CacheSend.read 6 ∈ s.cache.sends)
    ∧ (∃ (s : State) (q : LoadRequest) (w : RigWrite), s.sup.teardown = none ∧ s.cache.readingRequest 6 = some q ∧
        CacheSend.read 6 ∉ s.cache.sends ∧ q.waiting = ⟨true, false⟩ ∧ s.cache.ports.rig1 = [.write w] ∧
        (s.dirEntry 6).defined = false)
    ∧ (∃ (s : State) (q : LoadRequest) (k : Nat) (w : RigWrite), s.sup.teardown = none ∧
        s.cache.readingRequest 6 = some q ∧ CacheSend.read 6 ∉ s.cache.sends ∧ (s.dirEntry 6).defined = true ∧
        s.cache.lowestFree = some k ∧ q.waiting = (⟨false, false⟩ : PerRig Bool).set .rig1 true ∧
        s.cache.ports.get .rig1 = [.write w] ∧ (rigPlace w.addr).lane = some (6, 0) ∧ s.cache.sends = [])
    ∧ (∃ (s : State) (q : LoadRequest) (k j : Nat) (rest : List CacheSend), s.sup.teardown = none ∧
        s.cache.readingRequest 6 = some q ∧ CacheSend.read 6 ∉ s.cache.sends ∧ (s.dirEntry 6).defined = true ∧
        s.cache.lowestFree = some k ∧ s.cache.sends = .writeback j :: rest)
    ∧ (∃ (s : State) (q : LoadRequest) (k : Nat), s.sup.teardown = none ∧ s.cache.readingRequest 6 = some q ∧
        CacheSend.read 6 ∉ s.cache.sends ∧ (s.dirEntry 6).defined = true ∧ s.cache.lowestFree = none ∧
        s.cache.victim = some k)
    ∧ (∃ (s : State) (q : LoadRequest), s.sup.teardown = none ∧ s.cache.readingRequest 6 = some q ∧
        CacheSend.read 6 ∉ s.cache.sends ∧ (s.dirEntry 6).defined = true ∧ s.cache.lowestFree = none ∧
        s.cache.victim = none)
    ∧ (∃ (s : State) (q : LoadRequest), s.sup.teardown = some .waitingLoads ∧ s.cache.readingRequest 6 = some q ∧
        CacheSend.read 6 ∉ s.cache.sends ∧ s.cache.loads = [q] ∧ q.waiting = ⟨false, false⟩) :=
  ⟨⟨sample .running, by decide⟩,
   ⟨definedLoad [] [] [.writeback 1, .read 6], sampleRequest true, by decide⟩,
   ⟨loadingState (sample .running), sampleRequest true, heldWrite, by decide⟩,
   ⟨definedLoad [(0, contextOf 5)] [0] [], sampleRequest true, 1, heldWrite, by decide⟩,
   ⟨definedLoad [(0, contextOf 5), (1, { contextOf 7 with residence := .evicting })] [0] [.writeback 1],
      sampleRequest true, 2, 1, [], by decide⟩,
   ⟨definedLoad (fullCache false) [3] [], sampleRequest true, 3, by decide⟩,
   ⟨definedLoad (fullCache true) [3] [], sampleRequest true, by decide⟩,
   ⟨waitingLoads (loadingState (sample .running)) [sampleRequest false], sampleRequest false, by decide⟩⟩

/-- A load's read sent behind a write-back is not answered before that write-back has ended (R162). -/
theorem test_read_behind_writeback :
    answers (exec (.payloadWrite .rig2 28672 1 15) (evictingState [])) (fun t =>
      t.cache.sends == [.writeback 3, .read 7] && (t.cache.readingRequest 7).isSome
      && answers (exec (.contextLoadReadDone 7 true) t) (fun u => u == t)
      && answers (exec (.evictionWritebackEnd 3) t) (fun u => u.cache.sends == []
        && answers (exec (.contextLoadReadDone 7 true) u) (fun v => v.cache.loads == []))) = true := by decide

theorem test_witness_Eviction :
    (∃ s : State, s.cache.sends.head? = some (.writeback 3) ∧ s.landed.writeback ≤ 7 ∧ s.landed.writeback = 7)
    ∧ (∃ s : State, s.cache.sends.head? ≠ some (.writeback 3))
    ∧ (∃ (s : State) (q : LoadRequest) (d : DirEntry) (rest : List CacheSend) (w : RigWrite), s.sup.teardown = none ∧
        s.cache.sends = .writeback 3 :: rest ∧ s.cache.evictingRequest 3 = some (q, d) ∧
        q.waiting = (⟨false, false⟩ : PerRig Bool).set .rig1 true ∧ s.cache.ports.get .rig1 = [.write w] ∧
        (rigPlace w.addr).lane = some (q.channel, 0) ∧ rest = [] ∧ q.channel ≠ (s.context 3).channel ∧
        s.landed.writeback = 0 ∧ d.defined = true)
    ∧ (∃ (s : State) (q : LoadRequest) (d : DirEntry) (rest : List CacheSend) (reads taken flying : List CacheSend),
        s.sup.teardown = none ∧ s.cache.sends = .writeback 3 :: rest ∧ s.cache.evictingRequest 3 = some (q, d) ∧
        (reads = (if rest ≠ [] ∧ ∃ p ∈ s.cache.loads, p.channel = (s.context 3).channel ∧
          p.stage = .waitWriteback then [.read (s.context 3).channel] else [])) ∧
        reads = [.read 5] ∧ rest ++ reads ++ [.cached q.channel d] = taken ++ flying ∧
        taken = [.cached 7 d, .read 9] ∧ flying.head? = some (.writeback 2))
    ∧ (∃ (s : State) (rest : List CacheSend), s.sup.teardown = none ∧ s.cache.sends = .writeback 3 :: rest ∧
        s.cache.evictingRequest 3 = none)
    ∧ (∃ (s : State) (q : LoadRequest) (d : DirEntry) (rest : List CacheSend), s.sup.teardown = some .waitingLoads ∧
        s.cache.sends = [.writeback 3] ∧ s.cache.evictingRequest 3 = some (q, d) ∧ s.cache.loads = [q] ∧
        q.waiting = ⟨false, false⟩ ∧ rest = []) :=
  ⟨⟨{ evictingState [] with landed := { Landed.none with writeback := 7 } }, by decide⟩,
   ⟨sample .running, by decide⟩,
   ⟨evictingState [], evictingRequest true, { DirEntry.undefined with defined := true }, [], heldWrite, by decide⟩,
   ⟨alsoWaiting (evictingState [.cached 7 { DirEntry.undefined with defined := true }, .read 9, .writeback 2]),
      evictingRequest true, { DirEntry.undefined with defined := true },
      [.cached 7 { DirEntry.undefined with defined := true }, .read 9, .writeback 2], [.read 5],
      [.cached 7 { DirEntry.undefined with defined := true }, .read 9],
      [.writeback 2, .read 5, .cached 6 { DirEntry.undefined with defined := true }], by decide⟩,
   ⟨{ evictingState [] with cache := { (evictingState []).cache with loads := [] } }, [], by decide⟩,
   ⟨waitingLoads (evictingState []) [evictingRequest false], evictingRequest false,
      { DirEntry.undefined with defined := true }, [], by decide⟩⟩

/-- A fill that meets both hypotheses, for a context that may repeat its last bucket and for one that may not. -/
theorem test_witness_SourceChoice : ∀ (x : Context) (gr : GroupRecord), ∃ fill : Option Entry → Choice,
    (∀ u b, x.kind = .audio → gr.fillMode = .repeatLast → x.repeatRun < gr.repeatLimit → x.lastServed = some b →
      fill u = .repeatFill b u)
    ∧ (∀ u, x.kind = .data ∨ gr.fillMode = .silence ∨ gr.repeatLimit ≤ x.repeatRun ∨ x.lastServed = none →
      fill u = .silence u) := by
  intro x gr
  refine ⟨fun u => if x.kind = .audio ∧ gr.fillMode = .repeatLast ∧ x.repeatRun < gr.repeatLimit then
      (match x.lastServed with | none => .silence u | some b => .repeatFill b u) else .silence u, ?_, ?_⟩
  · intro u b h1 h2 h3 h4
    simp [h1, h2, h3, h4]
  · intro u h
    rcases h with h | h | h | h
    · simp [h]
    · simp [h]
    · simp [Nat.not_lt.mpr h]
    · simp [h]

theorem test_witness_SourceChoice_fade : ∃ (gr : GroupRecord) (n : Nat), gr.selectState.fading = true ∧ gr.switchPoint ≤ n
    ∧ n < gr.fadeEnd := ⟨{ GroupRecord.initial with selectState := .toBackup, fadeEnd := 1 }, 0, by decide⟩

/-- What a used entry leaves exists for every channel, group and entry. -/
theorem test_witness_SourceChoice_used : ∀ (x : Context) (gr : GroupRecord) (lists : PerRig (List Entry)),
    ∃ (used : Entry → Context) (claims : Entry → Pool → Pool), (∀ e, used e = { x with
        lists := lists, repeatRun := 0, streaming := x.streaming && !e.last
        lastServed := if e.last = true then none
          else if x.kind = .audio ∧ gr.fillMode = .repeatLast ∧ x.streaming = true then some e.bucket else x.lastServed })
      ∧ ∀ e p, claims e p = (if e.last = true then p.unpinOpt x.lastServed
        else if x.kind = .audio ∧ gr.fillMode = .repeatLast ∧ x.streaming = true then
          (p.pin e.bucket).unpinOpt x.lastServed else p) :=
  fun _ _ _ => ⟨_, _, fun _ => rfl, fun _ _ => rfl⟩

theorem test_witness_SourceChoice_cover :
    (∃ (gr : GroupRecord) (tv : RigVerdict) (av : AgreementVerdict), av ≠ .diverged ∧
        (gr.patch = true ∨ tv = .failed))
    ∧ (∃ (gr : GroupRecord) (tv : RigVerdict) (av : AgreementVerdict),
        (av = .diverged ∨ (gr.patch = false ∧ tv ≠ .failed))) :=
  ⟨⟨GroupRecord.initial, .failed, .unproven, by decide⟩,
   ⟨{ GroupRecord.initial with patch := true }, .failed, .diverged, by decide⟩⟩

theorem test_witness_SourceChoice_resolution :
    (∃ (s : State) (n : Nat), (∃ k, k < 16 ∧ (s.slot 0 k).block + 16 ≤ n ∧ (s.slot 0 k).state ≠ .released) ∧ n = 16)
    ∧ (∃ (s : State) (out : Nat) (rest : List Nat), s.pool.inUse .blend < s.pool.blendSize ∧
        s.pool.freeList = out :: rest ∧ s.blend = [])
    ∧ (∃ (s : State) (out : Nat) (rest : List Nat) (j : BlendJob) (js : List BlendJob),
        s.pool.inUse .blend < s.pool.blendSize ∧ s.pool.freeList = out :: rest ∧ s.blend = j :: js ∧
        j.phase ≠ .queued)
    ∧ (∃ (s : State) (n : Nat), (∀ k, k < 16 → n < (s.slot 0 k).block + 16 ∨ (s.slot 0 k).state = .released) ∧ n = 15)
    ∧ (∃ (s : State) (n : Nat), (∀ k, k < 16 → n < (s.slot 0 k).block + 16 ∨ (s.slot 0 k).state = .released) ∧
        n = 16 ∧ s.cache.validContexts.filter (fun k => decide ((s.context k).group = 0)) = [0]) :=
  ⟨⟨readySlot 0 16, 16, by decide⟩,
   ⟨sample .running, 1, [2], by decide⟩,
   ⟨withJobs (sample .running) [sampleJob .reading none], 1, [2], sampleJob .reading none, [], by decide⟩,
   ⟨sample .running, 15, by decide⟩,
   ⟨releasedRing (streamingChannel [⟨16, 1, 0, false⟩] []), 16, by decide⟩⟩

theorem test_witness_SlotWritesTaken :
    (∃ s : State, takeThrough .record 0 0 s.resolver.writes ≠ none)
    ∧ (∃ s : State, takeThrough .readyHeader 0 0 s.resolver.writes ≠ none)
    ∧ (∃ (s : State) (n : Nat) (w : SlotWrite) (rest : List SlotWrite), s.resolver.writes = w :: rest ∧
        (w.kind ≠ .other ∨ n < w.words.length))
    ∧ (∃ (s : State) (n : Nat) (w : SlotWrite) (rest : List SlotWrite), s.resolver.writes = w :: rest ∧
        w.kind = .other ∧ w.words.length ≤ n ∧ n = 1)
    ∧ (∃ (s : State) (pre rest : List SlotWrite) (w : SlotWrite), s.resolver.writes = pre ++ w :: rest ∧
        (∀ p ∈ pre, p.kind = .other) ∧ w.group = 0 ∧ w.slot = 0 ∧ w.block = (s.slot 0 0).block ∧
        (s.part.state ≠ .running ∨ (s.group 0).defined = false ∨
          s.part.period < (s.slot 0 0).block + s.resolver.releaseGrace) ∧
        w.kind = .record ∧ (s.slot 0 0).awaitingRecord = true ∧ 0 < (s.slot 0 0).outstanding)
    ∧ (∃ (s : State) (pre rest : List SlotWrite) (w : SlotWrite), s.resolver.writes = pre ++ w :: rest ∧
        (∀ p ∈ pre, p.kind = .other) ∧ w.group = 0 ∧ w.slot = 0 ∧ w.block = (s.slot 0 0).block ∧
        (s.part.state ≠ .running ∨ (s.group 0).defined = false ∨
          s.part.period < (s.slot 0 0).block + s.resolver.releaseGrace) ∧
        w.kind = .record ∧ (s.slot 0 0).awaitingRecord = true ∧ (s.slot 0 0).outstanding = 0 ∧
        (s.slot 0 0).awaitingHeader = false)
    ∧ (∃ (s : State) (pre rest : List SlotWrite) (w : SlotWrite), s.resolver.writes = pre ++ w :: rest ∧
        (∀ p ∈ pre, p.kind = .other) ∧ w.group = 0 ∧ w.slot = 0 ∧ w.block = (s.slot 0 0).block ∧
        (s.part.state ≠ .running ∨ (s.group 0).defined = false ∨
          s.part.period < (s.slot 0 0).block + s.resolver.releaseGrace) ∧
        w.kind = .record ∧ (s.slot 0 0).awaitingRecord = true ∧ (s.slot 0 0).outstanding = 0 ∧
        (s.slot 0 0).awaitingHeader = true)
    ∧ (∃ (s : State) (pre rest : List SlotWrite) (w : SlotWrite), s.resolver.writes = pre ++ w :: rest ∧
        (∀ p ∈ pre, p.kind = .other) ∧ w.group = 0 ∧ w.slot = 0 ∧ w.block = (s.slot 0 0).block ∧
        (s.part.state ≠ .running ∨ (s.group 0).defined = false ∨
          s.part.period < (s.slot 0 0).block + s.resolver.releaseGrace) ∧
        w.kind = .readyHeader ∧ (s.slot 0 0).awaitingHeader = true)
    ∧ (∃ (s : State) (pre rest : List SlotWrite) (w : SlotWrite), s.resolver.writes = pre ++ w :: rest ∧
        (∀ p ∈ pre, p.kind = .other) ∧ w.group = 0 ∧ w.slot = 0 ∧ w.block = (s.slot 0 0).block ∧
        s.part.state = .running ∧ (s.group 0).defined = true ∧
        (s.slot 0 0).block + s.resolver.releaseGrace ≤ s.part.period ∧ w.kind = .record ∧
        (s.slot 0 0).awaitingRecord = true ∧ (s.slot 0 0).outstanding = 0 ∧ (s.slot 0 0).awaitingHeader = false)
    ∧ (∃ (s : State) (pre rest : List SlotWrite) (w : SlotWrite), s.resolver.writes = pre ++ w :: rest ∧
        (∀ p ∈ pre, p.kind = .other) ∧ w.group = 0 ∧ w.slot = 0 ∧ w.block = (s.slot 0 0).block ∧
        s.part.state = .running ∧ (s.group 0).defined = true ∧
        (s.slot 0 0).block + s.resolver.releaseGrace ≤ s.part.period ∧ w.kind = .readyHeader ∧
        (s.slot 0 0).awaitingHeader = true)
    ∧ (∃ (s : State) (w : SlotWrite) (rest : List SlotWrite), s.resolver.writes = w :: rest ∧ w.kind = .other ∧
        w.group = 0 ∧ w.slot = 0)
    ∧ (∃ s : State, (∀ w ∈ s.resolver.writes, ¬(w.kind = .record ∧ w.group = 0 ∧ w.slot = 0)) ∧
        s.resolver.writes ≠ [])
    ∧ (∃ s : State, (∀ w ∈ s.resolver.writes, ¬(w.kind = .readyHeader ∧ w.group = 0 ∧ w.slot = 0)) ∧
        s.resolver.writes ≠ [])
    ∧ (∃ s : State, (∀ w ∈ s.resolver.writes.head?, ¬(w.kind = .other ∧ w.group = 0 ∧ w.slot = 1)) ∧
        s.resolver.writes ≠ []) :=
  ⟨⟨slotWriting .record 0 true false, by decide⟩,
   ⟨slotWriting .readyHeader 0 false true, by decide⟩,
   ⟨slotWriting .record 0 true false, 0, sampleWrite .other, [sampleWrite .record], by decide⟩,
   ⟨slotWriting .record 0 true false, 1, sampleWrite .other, [sampleWrite .record], by decide⟩,
   ⟨slotWriting .record 1 true false, [sampleWrite .other], [], sampleWrite .record, by decide⟩,
   ⟨slotWriting .record 0 true false, [sampleWrite .other], [], sampleWrite .record, by decide⟩,
   ⟨slotWriting .record 0 true true, [sampleWrite .other], [], sampleWrite .record, by decide⟩,
   ⟨slotWriting .readyHeader 0 false true, [sampleWrite .other], [], sampleWrite .readyHeader, by decide⟩,
   ⟨{ slotWriting .record 0 true false with part := { (slotWriting .record 0 true false).part with period := 100 } },
      [sampleWrite .other], [], sampleWrite .record, by decide⟩,
   ⟨{ slotWriting .readyHeader 0 false true with part := { (slotWriting .readyHeader 0 false true).part with period := 100 } },
      [sampleWrite .other], [], sampleWrite .readyHeader, by decide⟩,
   ⟨slotWriting .record 0 true false, sampleWrite .other, [sampleWrite .record], by decide⟩,
   ⟨slotWriting .readyHeader 0 false true, by decide⟩,
   ⟨slotWriting .record 0 true false, by decide⟩,
   ⟨slotWriting .record 0 true false, by decide⟩⟩

theorem test_witness_LocalPortReads :
    (∃ s : State, s.burst = none ∧ s.lines.resetLow = false)
    ∧ (∃ (s : State) (b : ReadBurst), s.burst = some b ∧ 0 < b.left ∧ b.left = 1 ∧ b.entry = some 64 ∧
        s.lines.resetLow = false)
    ∧ (∃ (s : State) (b : ReadBurst), s.burst = some b ∧ 0 < b.left ∧ b.entry = none ∧ b.addr < s.lines.dramSize ∧
        b.addr < 4294967296 ∧ b.addr = 536870908 ∧ s.lines.resetLow = false)
    ∧ (∃ (s : State) (b : ReadBurst), s.burst = some b ∧ 0 < b.left ∧ b.entry = none ∧
        (4294967296 + 67108864 ≤ b.addr ∨ (s.lines.dramSize ≤ b.addr ∧ b.addr < 4294967296)) ∧ b.addr = 536870912 ∧
        s.lines.resetLow = false)
    ∧ (∃ (s : State) (b : ReadBurst), s.burst = some b ∧ 0 < b.left ∧ b.entry = none ∧
        (4294967296 + 67108864 ≤ b.addr ∨ (s.lines.dramSize ≤ b.addr ∧ b.addr < 4294967296)) ∧ b.addr = 4362076160 ∧
        s.lines.resetLow = false)
    ∧ (∃ (s : State) (b : ReadBurst) (g k c o : Nat), s.burst = some b ∧ 0 < b.left ∧ b.entry = none ∧
        b.addr = 4294967296 + 8388608 * g + 524288 * k + 512 * c + o ∧ g < 8 ∧ k < 16 ∧ c < 1024 ∧ o < 512 ∧
        (s.part.state = .quiet ∨ s.part.state = .standby ∨ (s.group g).defined = false ∨ 768 ≤ c) ∧
        s.lines.resetLow = false)
    ∧ (∃ (s : State) (b : ReadBurst) (g k c o : Nat), s.burst = some b ∧ 0 < b.left ∧ b.entry = none ∧
        b.addr = 4294967296 + 8388608 * g + 524288 * k + 512 * c + o ∧ g < 8 ∧ k < 16 ∧ c < 1024 ∧ o < 512 ∧
        (s.part.state = .armed ∨ s.part.state = .running) ∧ (s.group g).defined = true ∧ c < 768 ∧
        ((s.slot g k).state = .empty ∨ (s.slot g k).state = .blending) ∧ b.early = true ∧ s.lines.resetLow = false)
    ∧ (∃ (s : State) (b : ReadBurst) (g k c o : Nat), s.burst = some b ∧ 0 < b.left ∧ b.entry = none ∧
        b.addr = 4294967296 + 8388608 * g + 524288 * k + 512 * c + o ∧ g < 8 ∧ k < 16 ∧ c < 1024 ∧ o < 512 ∧
        (s.part.state = .armed ∨ s.part.state = .running) ∧ (s.group g).defined = true ∧ c < 768 ∧
        ((s.slot g k).state = .empty ∨ (s.slot g k).state = .blending) ∧ b.early = false ∧ s.lines.resetLow = false)
    ∧ (∃ (s : State) (b : ReadBurst) (g k c o : Nat) (a : Anchor) (y : Nat), s.burst = some b ∧ 0 < b.left ∧
        b.entry = none ∧ b.addr = 4294967296 + 8388608 * g + 524288 * k + 512 * c + o ∧ g < 8 ∧ k < 16 ∧ c < 1024 ∧
        o < 512 ∧ (s.part.state = .armed ∨ s.part.state = .running) ∧ (s.group g).defined = true ∧ c < 768 ∧
        ((s.slot g k).state = .ready ∨ (s.slot g k).state = .released) ∧ s.sup.anchor = some a ∧
        y = s.pool.base + (readWord s.mem (a.liveDirectoryBase + 4096 * (16 * g + k) + 64 + 4 * c)).toNat % 131072 * 512 + o ∧
        s.lines.resetLow = false) :=
  ⟨⟨sample .running, by decide⟩,
   ⟨{ sample .running with burst := some { ReadBurst.new (0) 1 with entry := some 64 } },
      { ReadBurst.new (0) 1 with entry := some 64 }, by decide⟩,
   ⟨{ sample .running with burst := some (ReadBurst.new (536870908) 1) }, (ReadBurst.new (536870908) 1), by decide⟩,
   ⟨{ sample .running with burst := some (ReadBurst.new (536870912) 1) }, (ReadBurst.new (536870912) 1), by decide⟩,
   ⟨{ sample .running with burst := some (ReadBurst.new (4362076160) 1) }, (ReadBurst.new (4362076160) 1), by decide⟩,
   ⟨{ sample .running with burst := some (ReadBurst.new (4294967296 + 524288 * 15 + 512 * 768 + 508) 1) },
      (ReadBurst.new (4294967296 + 524288 * 15 + 512 * 768 + 508) 1), 0, 15, 768, 508, by decide⟩,
   ⟨{ sample .armed with burst := some { ReadBurst.new (4294967296 + 524288 * 15 + 512 * 767 + 504) 1 with early := true } },
      { ReadBurst.new (4294967296 + 524288 * 15 + 512 * 767 + 504) 1 with early := true }, 0, 15, 767, 504, by decide⟩,
   ⟨{ sample .armed with burst := some (ReadBurst.new (4294967296 + 524288 * 15 + 512 * 767) 1) },
      (ReadBurst.new (4294967296 + 524288 * 15 + 512 * 767) 1), 0, 15, 767, 0, by decide⟩,
   ⟨{ withSlot (sample .running) 0 { Slot.initial with state := .ready } with burst := some (ReadBurst.new (4294967296 + 512 * 767 + 508) 1) },
      (ReadBurst.new (4294967296 + 512 * 767 + 508) 1), 0, 0, 767, 508, sampleAnchor, 1048576 + 508, by decide⟩⟩

/-- What stands behind a word of a read under way exists for every read. -/
theorem test_witness_LocalPortReads_after : ∃ after : ReadBurst → State → Word → Bool → State, ∀ c u w e,
    after c u w e = if c.left = 1 then
      c.waiting.foldl State.localRequest { u with burst := none, answers := u.answers ++ [⟨c.data ++ [w], c.error || e⟩] }
    else { u with burst := some { c with
      addr := c.addr + 4, left := c.left - 1, data := c.data ++ [w], error := c.error || e, entry := none } } :=
  ⟨_, fun _ _ _ _ => rfl⟩

theorem test_witness_Releases :
    (∃ (s : State) (m : Nat), m ≤ 16 ∧
        (∀ i, i < m → (s.slot 0 (((s.ring 0).playBase + i) % 16)).state = .released) ∧
        (s.slot 0 (((s.ring 0).playBase + m) % 16)).state ≠ .released ∧ m = 2 ∧ s.lines.resetLow = false)
    ∧ (∃ (s : State) (base k : Nat), base = (s.ring 0).playBase ∧ k = base % 16 ∧ s.lines.resetLow = false)
    ∧ (∃ s : State, s.burst = none ∧ s.sup.anchor = none ∧ s.lines.resetLow = false)
    ∧ (∃ (s : State) (a : Anchor), s.burst = none ∧ s.sup.anchor = some a ∧ a.ok s.lines.dramSize = true ∧
        (s.part.state = .quiet ∨ s.part.state = .standby ∨ (s.group 0).defined = false) ∧ s.lines.resetLow = false)
    ∧ (∃ (s : State) (a : Anchor) (v : Word) (base k : Nat), s.burst = none ∧ s.sup.anchor = some a ∧
        a.ok s.lines.dramSize = true ∧ (s.part.state = .armed ∨ s.part.state = .running) ∧
        (s.group 0).defined = true ∧ base = (s.ring 0).playBase ∧
        ((s.slot 0 k).state ≠ .ready ∨ v ≠ BitVec.ofNat 32 (s.slot 0 k).block) ∧ s.lines.resetLow = false)
    ∧ (∃ (s : State) (a : Anchor) (v : Word) (base k : Nat), s.burst = none ∧ s.sup.anchor = some a ∧
        a.ok s.lines.dramSize = true ∧ (s.part.state = .armed ∨ s.part.state = .running) ∧
        (s.group 0).defined = true ∧ base = (s.ring 0).playBase ∧ (s.slot 0 k).state = .ready ∧
        v = BitVec.ofNat 32 (s.slot 0 k).block ∧ k ≠ base % 16 ∧ (s.slot 0 (base % 16)).state ≠ .released ∧
        s.lines.resetLow = false)
    ∧ (∃ (s : State) (a : Anchor) (v : Word) (base k : Nat), s.burst = none ∧ s.sup.anchor = some a ∧
        a.ok s.lines.dramSize = true ∧ (s.part.state = .armed ∨ s.part.state = .running) ∧
        (s.group 0).defined = true ∧ base = (s.ring 0).playBase ∧ (s.slot 0 k).state = .ready ∧
        v = BitVec.ofNat 32 (s.slot 0 k).block ∧ k = base % 16 ∧ (s.slot 0 ((base + 1) % 16)).state ≠ .released ∧
        s.lines.resetLow = false)
    ∧ (∃ (s : State) (base k : Nat), s.burst = none ∧ base = (s.ring 0).playBase ∧
        (s.part.state ≠ .running ∨ (s.group 0).defined = false ∨ (s.slot 0 k).state ≠ .ready ∨
          s.part.period < (s.slot 0 k).block + s.resolver.releaseGrace) ∧
        s.part.period = 1 ∧ s.lines.resetLow = false)
    ∧ (∃ (s : State) (base k : Nat), s.burst = none ∧ s.part.state = .running ∧ (s.group 0).defined = true ∧
        (s.slot 0 k).state = .ready ∧ (s.slot 0 k).block + s.resolver.releaseGrace ≤ s.part.period ∧
        base = (s.ring 0).playBase ∧ k = base % 16 ∧ (s.slot 0 ((base + 1) % 16)).state ≠ .released ∧
        s.part.period = 2 ∧ s.lines.resetLow = false)
    ∧ (∃ (s : State) (base k : Nat), s.burst = none ∧ s.part.state = .running ∧ (s.group 0).defined = true ∧
        (s.slot 0 k).state = .ready ∧ (s.slot 0 k).block + s.resolver.releaseGrace ≤ s.part.period ∧
        base = (s.ring 0).playBase ∧ k ≠ base % 16 ∧ (s.slot 0 (base % 16)).state ≠ .released ∧ s.part.period = 3 ∧
        s.lines.resetLow = false) :=
  ⟨⟨withSlot (withSlot (sample .running) 0 { Slot.initial with state := .released }) 1 { Slot.initial with state := .released },
      2, by decide⟩,
   ⟨releasedRing (sample .running), 0, 0, by decide⟩,
   ⟨State.reset, by decide⟩,
   ⟨sample .standby, sampleAnchor, by decide⟩,
   ⟨sample .running, sampleAnchor, 0, 0, 0, by decide⟩,
   ⟨readySlot 1 0, sampleAnchor, 1, 0, 1, by decide⟩,
   ⟨readySlot 0 0, sampleAnchor, 0, 0, 0, by decide⟩,
   ⟨readySlot 0 1, 0, 0, by decide⟩,
   ⟨readySlot 0 2, 0, 0, by decide⟩,
   ⟨readySlot 1 3, 0, 1, by decide⟩⟩

theorem test_witness_CrossfadeArithmetic :
    (∃ (f l i : Nat), f < l ∧ i < 128 ∧ fadeWeight f l i = 65504)
    ∧ (∃ w : Nat, w ≤ 65536 ∧ w = 65536) :=
  ⟨⟨15, 16, 127, by decide⟩,
   ⟨65536, by decide⟩⟩

theorem test_witness_BlendJobEnds :
    (∃ (s : State) (j : BlendJob) (js : List BlendJob), s.blend = j :: js ∧
        (j.phase = .queued ∨ j.phase = .writing ∨ (j.phase = .draining ∧ j.samples ≠ none)))
    ∧ (∃ (s : State) (j : BlendJob) (js : List BlendJob), s.blend = j :: js ∧
        (j.phase = .queued ∨ j.phase = .writing ∨ (j.phase = .draining ∧ j.samples ≠ none)))
    ∧ (∃ (s : State) (j : BlendJob) (js : List BlendJob), s.blend = j :: js ∧
        (j.phase = .queued ∨ j.phase = .writing ∨ (j.phase = .draining ∧ j.samples ≠ none)))
    ∧ (∃ (s : State) (j : BlendJob) (js : List BlendJob), s.blend = j :: js ∧ j.phase ≠ .writing ∧ j.phase = .reading)
    ∧ (∃ (s : State) (j : BlendJob) (js : List BlendJob), s.blend = j :: js ∧ j.phase = .draining ∧ j.samples = none ∧
        (j.phase ≠ .draining ∨ j.samples = none))
    ∧ (∃ (s : State) (j : BlendJob) (js : List BlendJob) (out : List Word), s.blend = j :: js ∧ j.samples = some out ∧
        s.sup.teardown = none ∧ j.phase = .writing ∧ (s.slot j.group (j.block % 16)).block = j.block)
    ∧ (∃ (s : State) (j : BlendJob) (js : List BlendJob) (out : List Word), s.blend = j :: js ∧ j.samples = some out ∧
        s.sup.teardown = none ∧ j.phase = .writing ∧ (s.slot j.group (j.block % 16)).block ≠ j.block)
    ∧ (∃ (s : State) (j : BlendJob) (js : List BlendJob) (out : List Word), s.blend = j :: js ∧ j.samples = some out ∧
        s.sup.teardown = none ∧ j.phase = .draining)
    ∧ (∃ (s : State) (j : BlendJob) (js : List BlendJob) (out : List Word), s.blend = j :: js ∧ j.samples = some out ∧
        s.sup.teardown = some .flushing ∧ js = [] ∧ j.phase = .writing)
    ∧ (∃ (s : State) (j : BlendJob) (js : List BlendJob) (out : List Word), s.blend = j :: js ∧ j.samples = some out ∧
        s.sup.teardown = some .flushing ∧ js = [] ∧ j.phase = .draining) :=
  ⟨⟨withJobs (sample .running) [sampleJob .queued none], sampleJob .queued none, [], by decide⟩,
   ⟨withJobs (sample .running) [sampleJob .writing (some [7])], sampleJob .writing (some [7]), [], by decide⟩,
   ⟨withJobs (sample .running) [sampleJob .draining (some [7])], sampleJob .draining (some [7]), [], by decide⟩,
   ⟨withJobs (sample .running) [sampleJob .reading none], sampleJob .reading none, [], by decide⟩,
   ⟨withJobs (sample .running) [sampleJob .draining none], sampleJob .draining none, [], by decide⟩,
   ⟨withJobs (sample .running) [sampleJob .writing (some [7])], sampleJob .writing (some [7]), [], [7], by decide⟩,
   ⟨withJobs (withSlot (sample .running) 0 { Slot.initial with block := 16 }) [sampleJob .writing (some [7])],
      sampleJob .writing (some [7]), [], [7], by decide⟩,
   ⟨withJobs (sample .running) [sampleJob .draining (some [7])], sampleJob .draining (some [7]), [], [7], by decide⟩,
   ⟨{ withJobs (sample .standby) [sampleJob .writing (some [7])] with sup := { (sample .standby).sup with teardown := some .flushing } },
      sampleJob .writing (some [7]), [], [7], by decide⟩,
   ⟨{ withJobs (sample .standby) [sampleJob .draining (some [7])] with sup := { (sample .standby).sup with teardown := some .flushing } },
      sampleJob .draining (some [7]), [], [7], by decide⟩⟩

theorem test_witness_BlendJobEnds_readError :
    (∃ (s : State) (j : BlendJob) (js : List BlendJob) (i : BlendInput) (src : Rig), s.blend = j :: js ∧
        s.sup.teardown = none ∧ j.phase = .reading ∧ (s.slot j.group (j.block % 16)).block = j.block ∧
        s.part.state ≠ .quiet ∧ i = .new ∧ src = s.rigOf .main)
    ∧ (∃ (s : State) (j : BlendJob) (js : List BlendJob) (i : BlendInput) (src : Rig), s.blend = j :: js ∧
        s.sup.teardown = none ∧ j.phase = .reading ∧ (s.slot j.group (j.block % 16)).block = j.block ∧
        s.part.state ≠ .quiet ∧ i = .old ∧ src = s.rigOf .backup)
    ∧ (∃ (s : State) (j : BlendJob) (js : List BlendJob) (i : BlendInput) (src : Rig), s.blend = j :: js ∧
        s.sup.teardown = none ∧ j.phase = .reading ∧ (s.slot j.group (j.block % 16)).block ≠ j.block ∧
        s.part.state ≠ .quiet ∧ i = .new ∧ src = s.rigOf .main)
    ∧ (∃ (s : State) (j : BlendJob) (js : List BlendJob), s.blend = j :: js ∧ j.samples = none ∧
        s.sup.teardown = none ∧ j.phase = .draining)
    ∧ (∃ (s : State) (j : BlendJob) (js : List BlendJob), s.blend = j :: js ∧ j.samples = none ∧
        s.sup.teardown = some .flushing ∧ js = [] ∧ j.phase = .draining)
    ∧ (∃ (s : State) (j : BlendJob) (js : List BlendJob), s.blend = j :: js ∧ j.samples = none ∧
        s.sup.teardown = some .flushing ∧ js = [] ∧ j.phase = .reading)
    ∧ (∃ s : State, s.sup.teardown = some .flushing ∧ s.blend = []) :=
  ⟨⟨withJobs (sample .running) [sampleJob .reading none], sampleJob .reading none, [], .new, .rig1, by decide⟩,
   ⟨withJobs (sample .running) [sampleJob .reading none], sampleJob .reading none, [], .old, .rig2, by decide⟩,
   ⟨withJobs (withSlot (sample .running) 0 { Slot.initial with block := 16 }) [sampleJob .reading none],
      sampleJob .reading none, [], .new, .rig1, by decide⟩,
   ⟨withJobs (sample .running) [sampleJob .draining none], sampleJob .draining none, [], by decide⟩,
   ⟨{ withJobs (sample .standby) [sampleJob .draining none] with sup := { (sample .standby).sup with teardown := some .flushing } },
      sampleJob .draining none, [], by decide⟩,
   ⟨{ withJobs (sample .standby) [sampleJob .reading none] with sup := { (sample .standby).sup with teardown := some .flushing } },
      sampleJob .reading none, [], by decide⟩,
   ⟨{ sample .standby with sup := { (sample .standby).sup with teardown := some .flushing } }, by decide⟩⟩

theorem test_witness_BlendDeadline :
    (∃ s : State, s.part.state ≠ .running)
    ∧ (∃ (s : State) (j : BlendJob) (js : List BlendJob), s.part.state = .running ∧ s.blend = j :: js ∧
        j.phase ≠ .queued ∧ j.block ≤ s.part.period ∧ js ≠ [] ∧
        (∀ i ∈ js, i.phase = .queued ∧ i.block ≤ s.part.period))
    ∧ (∃ (s : State) (j : BlendJob) (js : List BlendJob), s.part.state = .running ∧ s.blend = j :: js ∧
        j.phase ≠ .queued ∧ s.part.period < j.block ∧ js = [])
    ∧ (∃ (s : State) (sl : Slot) (due : List BlendJob), s.part.state = .running ∧ sl = s.slot 0 0 ∧
        (due = s.blend.filter (fun j => decide (j.block ≤ s.part.period ∧ j.phase ≠ .draining ∧ j.group = 0 ∧
          j.block % 16 = 0 ∧ sl.block = j.block))) ∧
        due.length = 2 ∧ sl.outstanding ≤ due.length ∧ (∀ j ∈ due, ∀ i ∈ due, i.channel = j.channel → i = j)) :=
  ⟨⟨sample .armed, by decide⟩,
   ⟨withJobs (sample .running) [sampleJob .reading none, { sampleJob .queued none with channel := 6 }],
      sampleJob .reading none, [{ sampleJob .queued none with channel := 6 }], by decide⟩,
   ⟨withJobs (sample .running) [{ sampleJob .reading none with block := 1 }],
      { sampleJob .reading none with block := 1 }, [], by decide⟩,
   ⟨withSlot (withJobs (sample .running) [sampleJob .reading none, { sampleJob .queued none with channel := 6 }]) 0 { Slot.initial with state := .blending, outstanding := 2 },
      { Slot.initial with state := .blending, outstanding := 2 },
      [sampleJob .reading none, { sampleJob .queued none with channel := 6 }], by decide⟩⟩

theorem test_witness_HealthWindowClose :
    (∃ (s : State) (h : GroupHealth) (st next : HealthSettings), h = s.healthOf 0 ∧ st = h.settings ∧
        next = h.pendingSettings.getD st ∧
        (s.part.state ≠ .running ∨ (s.group 0).defined = false ∨ h.windowOpen = false ∨ s.part.period < h.windowEnd))
    ∧ (∃ (s : State) (h : GroupHealth) (st next : HealthSettings), h = s.healthOf 0 ∧ st = h.settings ∧
        next = h.pendingSettings.getD st ∧ s.part.state = .running ∧ (s.group 0).defined = true ∧
        h.windowOpen = true ∧ h.windowEnd ≤ s.part.period ∧ h.agreement.compared = 0 ∧ st.maxDamaged < h.main.damaged)
    ∧ (∃ (s : State) (h : GroupHealth) (st next : HealthSettings), h = s.healthOf 0 ∧ st = h.settings ∧
        next = h.pendingSettings.getD st ∧ s.part.state = .running ∧ (s.group 0).defined = true ∧
        h.windowOpen = true ∧ h.windowEnd ≤ s.part.period ∧ 0 < h.agreement.compared ∧
        st.maxDisagree < h.agreement.disagreed)
    ∧ (∃ (s : State) (h : GroupHealth) (st next : HealthSettings), h = s.healthOf 0 ∧ st = h.settings ∧
        next = h.pendingSettings.getD st ∧ s.part.state = .running ∧ (s.group 0).defined = true ∧
        h.windowOpen = true ∧ h.windowEnd ≤ s.part.period ∧ 0 < h.agreement.compared ∧
        h.agreement.disagreed ≤ st.maxDisagree)
    ∧ (∃ (s : State) (h : GroupHealth) (st next : HealthSettings), h = s.healthOf 0 ∧ st = h.settings ∧
        next = h.pendingSettings.getD st ∧ s.part.state = .running ∧ (s.group 0).defined = true ∧
        h.windowOpen = true ∧ h.windowEnd ≤ s.part.period ∧ st.report = true) :=
  ⟨⟨sample .running, GroupHealth.initial, .unset, .unset, by decide⟩,
   ⟨judging 1 0 0, judged 1 0 0, .unset, .unset, by decide⟩,
   ⟨judging 0 1 1, judged 0 1 1, .unset, .unset, by decide⟩,
   ⟨judging 0 1 0, judged 0 1 0, .unset, .unset, by decide⟩,
   ⟨{ sample .running with health := [(0, { judged 0 0 0 with settings := { HealthSettings.unset with report := true } })] },
      { judged 0 0 0 with settings := { HealthSettings.unset with report := true } },
      { HealthSettings.unset with report := true }, { HealthSettings.unset with report := true }, by decide⟩⟩

/-- The judgements of a window's figures exist, whatever counts as out of bounds. -/
theorem test_witness_HealthWindowClose_judgement : ∀ (bad : HealthRecord → Prop)
    (up down : HealthRecord → HealthRecord),
    ∃ rec : HealthRecord → HealthRecord, ∀ x, (bad x → rec x = down x) ∧ (¬bad x → rec x = up x) := by
  intro bad up down
  classical
  exact ⟨fun x => if bad x then down x else up x, fun x => ⟨fun h => if_pos h, fun h => if_neg h⟩⟩

theorem test_witness_HealthWindowClose_trip :
    (∃ (s : State) (h : HealthRecord) (st : HealthSettings), h = (s.healthOf 0).record .main ∧
        st = (s.healthOf 0).settings ∧ s.part.state ≠ .running)
    ∧ (∃ (s : State) (h : HealthRecord) (st : HealthSettings), h = (s.healthOf 0).record .main ∧
        st = (s.healthOf 0).settings ∧ s.part.state = .running ∧
        (st.missTrip = 0 ∨ h.misses + 1 ≠ st.missTrip ∨ 65535 ≤ h.misses) ∧ st.missTrip = 0)
    ∧ (∃ (s : State) (h : HealthRecord) (st : HealthSettings), h = (s.healthOf 0).record .main ∧
        st = (s.healthOf 0).settings ∧ s.part.state = .running ∧
        (st.missTrip = 0 ∨ h.misses + 1 ≠ st.missTrip ∨ 65535 ≤ h.misses) ∧ h.misses = 65535)
    ∧ (∃ (s : State) (h : HealthRecord) (st : HealthSettings), h = (s.healthOf 0).record .main ∧
        st = (s.healthOf 0).settings ∧ s.part.state = .running ∧ st.missTrip ≠ 0 ∧ h.misses + 1 = st.missTrip ∧
        h.misses < 65535) :=
  ⟨⟨tripping .armed 1 2, { HealthRecord.start with misses := 1 }, { HealthSettings.unset with missTrip := 2 },
      by decide⟩,
   ⟨tripping .running 0 0, { HealthRecord.start with misses := 0 }, { HealthSettings.unset with missTrip := 0 },
      by decide⟩,
   ⟨tripping .running 65535 2, { HealthRecord.start with misses := 65535 },
      { HealthSettings.unset with missTrip := 2 }, by decide⟩,
   ⟨tripping .running 1 2, { HealthRecord.start with misses := 1 }, { HealthSettings.unset with missTrip := 2 },
      by decide⟩⟩

theorem test_witness_HealthWindowClose_samples :
    (∃ (s : State) (streaming : List Context) (n : Nat), s.part.state = .running ∧
        streaming = ((s.cache.validContexts.map s.context).filter (fun x => decide (x.group = 0))).filter (fun x => x.streaming) ∧
        streaming = [] ∧ (∀ x ∈ streaming, findEntry n (x.lists.get (s.rigOf .main)) ≠ none))
    ∧ (∃ (s : State) (streaming : List Context) (n : Nat) (lead : Nat), s.part.state = .running ∧
        streaming = ((s.cache.validContexts.map s.context).filter (fun x => decide (x.group = 0))).filter (fun x => x.streaming) ∧
        (∃ x ∈ streaming, coverageFrom (n + 1) (x.lists.get .rig1) = lead) ∧
        (∀ x ∈ streaming, lead ≤ coverageFrom (n + 1) (x.lists.get .rig1)) ∧
        (∀ x ∈ streaming, findEntry n (x.lists.get (s.rigOf .main)) ≠ none) ∧
        (∃ x ∈ streaming, findEntry n (x.lists.get (s.rigOf .backup)) = none)) :=
  ⟨⟨sample .running, [], 4, by decide⟩,
   ⟨streamingChannel [⟨4, 1, 0, false⟩, ⟨5, 2, 0, false⟩] [],
      [(streamingChannel [⟨4, 1, 0, false⟩, ⟨5, 2, 0, false⟩] []).context 0], 4, 1, by decide⟩⟩

theorem test_witness_LocalPortWrites :
    (∃ (x y : Nat) (en : Enables), (∀ i, i < 4 → y = x + i → en.getLsbD i = false) ∧ y = x + 3)
    ∧ (∃ (x y : Nat) (en : Enables) (i : Nat), i < 4 ∧ y = x + i ∧ en.getLsbD i = true)
    ∧ (∃ (s : State) (x : Nat), s.burst = none ∧ x % 4 = 0 ∧ (4294967296 ≤ x ∨ s.lines.dramSize ≤ x) ∧ x = 536870912 ∧
        s.lines.resetLow = false)
    ∧ (∃ (s : State) (x : Nat), s.burst = none ∧ x % 4 = 0 ∧ x < s.lines.dramSize ∧ x < 4294967296 ∧
        s.sup.anchor = none ∧ x ≠ 0 ∧ s.lines.resetLow = false)
    ∧ (∃ (s : State) (x : Nat) (a : Anchor), s.burst = none ∧ x % 4 = 0 ∧ x < s.lines.dramSize ∧ x < 4294967296 ∧
        s.sup.anchor = some a ∧ a.ok s.lines.dramSize = true ∧ a.channelDirectoryBase ≤ x ∧
        x < a.channelDirectoryBase + 24576 ∧ s.lines.resetLow = false)
    ∧ (∃ (s : State) (x : Nat) (a : Anchor), s.burst = none ∧ x % 4 = 0 ∧ x < s.lines.dramSize ∧ x < 4294967296 ∧
        s.sup.anchor = some a ∧ a.ok s.lines.dramSize = true ∧ a.poolBase ≤ x ∧ x < a.poolBase + a.poolBuckets * 512 ∧
        s.lines.resetLow = false)
    ∧ (∃ (s : State) (x : Nat) (a : Anchor), s.burst = none ∧ x % 4 = 0 ∧ x < s.lines.dramSize ∧ x < 4294967296 ∧
        s.sup.anchor = some a ∧ a.ok s.lines.dramSize = true ∧ a.statusBase ≤ x ∧ x < a.statusBase + 512 ∧
        s.lines.resetLow = false)
    ∧ (∃ (s : State) (x : Nat) (a : Anchor), s.burst = none ∧ x % 4 = 0 ∧ x < s.lines.dramSize ∧ x < 4294967296 ∧
        s.sup.anchor = some a ∧ a.ok s.lines.dramSize = true ∧ a.noticeRingBase ≤ x ∧
        x < a.noticeRingBase + a.noticeRingEntries * 32 ∧ (x - a.noticeRingBase) % 32 ≠ 0 ∧ s.lines.resetLow = false)
    ∧ (∃ (s : State) (x : Nat) (a : Anchor), s.burst = none ∧ x % 4 = 0 ∧ x < s.lines.dramSize ∧ x < 4294967296 ∧
        s.sup.anchor = some a ∧ a.ok s.lines.dramSize = true ∧ a.liveDirectoryBase ≤ x ∧
        x < a.liveDirectoryBase + 524288 ∧ (x - a.liveDirectoryBase) % 4096 ≠ 12 ∧ s.lines.resetLow = false)
    ∧ (∃ (s : State) (x : Nat) (a : Anchor), s.burst = none ∧ x % 4 = 0 ∧ x < s.lines.dramSize ∧ x < 4294967296 ∧
        s.sup.anchor = some a ∧ a.ok s.lines.dramSize = true ∧ x ≠ 0 ∧ x ≠ 44 ∧ x ≠ 48 ∧
        (¬(a.channelDirectoryBase ≤ x ∧ x < a.channelDirectoryBase + 24576)) ∧
        (¬(a.poolBase ≤ x ∧ x < a.poolBase + a.poolBuckets * 512)) ∧ (¬(a.statusBase ≤ x ∧ x < a.statusBase + 512)) ∧
        (¬(a.liveDirectoryBase ≤ x ∧ x < a.liveDirectoryBase + 524288)) ∧
        (¬(a.noticeRingBase ≤ x ∧ x < a.noticeRingBase + a.noticeRingEntries * 32 ∧ (x - a.noticeRingBase) % 32 ≠ 0)) ∧
        s.lines.resetLow = false)
    ∧ (∃ (s : State) (x : Nat) (a : Anchor), s.burst = none ∧ x % 4 = 0 ∧ x < s.lines.dramSize ∧ x < 4294967296 ∧
        s.sup.anchor = some a ∧ a.ok s.lines.dramSize = true ∧ x ≠ 0 ∧ x ≠ 44 ∧ x ≠ 48 ∧
        (¬(a.channelDirectoryBase ≤ x ∧ x < a.channelDirectoryBase + 24576)) ∧
        (¬(a.poolBase ≤ x ∧ x < a.poolBase + a.poolBuckets * 512)) ∧ (¬(a.statusBase ≤ x ∧ x < a.statusBase + 512)) ∧
        (¬(a.liveDirectoryBase ≤ x ∧ x < a.liveDirectoryBase + 524288)) ∧
        (¬(a.noticeRingBase ≤ x ∧ x < a.noticeRingBase + a.noticeRingEntries * 32 ∧ (x - a.noticeRingBase) % 32 ≠ 0)) ∧
        s.lines.resetLow = false)
    ∧ (∃ (s : State) (b : ReadBurst), s.burst = some b ∧ s.sup.anchor = some sampleAnchor ∧ s.lines.resetLow = false)
    ∧ (∃ (s : State) (b : ReadBurst), s.burst = some b ∧ s.sup.anchor = none ∧ s.lines.resetLow = false)
    ∧ (∃ s : State, s.burst = none ∧ s.sup.anchor = some sampleAnchor ∧ s.lines.resetLow = false) :=
  ⟨⟨64, 67, 7, by decide⟩,
   ⟨64, 67, 8, 3, by decide⟩,
   ⟨sample .running, 536870912, by decide⟩,
   ⟨State.reset, 536870908, by decide⟩,
   ⟨sample .running, 32764, sampleAnchor, by decide⟩,
   ⟨sample .running, 2097148, sampleAnchor, by decide⟩,
   ⟨sample .running, 4604, sampleAnchor, by decide⟩,
   ⟨sample .running, 4092, sampleAnchor, by decide⟩,
   ⟨sample .running, 65552, sampleAnchor, by decide⟩,
   ⟨sample .running, 2048, sampleAnchor, by decide⟩,
   ⟨sample .running, 4608, sampleAnchor, by decide⟩,
   ⟨{ sample .running with burst := some (ReadBurst.new 64 1) }, ReadBurst.new 64 1, by decide⟩,
   ⟨{ State.reset with burst := some (ReadBurst.new 64 1) }, ReadBurst.new 64 1, by decide⟩,
   ⟨sample .running, by decide⟩⟩

/-- A RUNNING state under the invariant that steps. -/
theorem test_witness_InvariantKept : ∃ s t : State, s.Inv ∧ step s = .next t := ⟨lawful, _, lawful_inv, rfl⟩

/-- The same state is in order and in shape. -/
theorem test_witness_OrderKept : ∃ s t : State, s.Inv ∧ s.Order ∧ s.Shape ∧ step s = .next t :=
  ⟨lawful, _, lawful_inv, lawful_order, lawful_shape, rfl⟩

end Sys2Proof.Tests
end

section
/-! # Edges of the block clock in NO_CLOCK and LOCKED (R2, R3)

A wide pulse on a part that runs is an edge of the Clock Monitor at the instant it falls. Outside FLYWHEEL no acceptance
window can be overdue, so the edge is measured from the reference instant alone: by `State.collectEdge` in NO_CLOCK and by
`State.lockedEdge` in LOCKED. One lemma per branch of these two says what the edge makes of the state. -/

namespace Sys2Proof.Machine

/-! ### The edge and its instant -/

/-- The row BLOCK_CLOCK_EDGE with a pulse of full width, REFCLK running and RESET_N high (R182, R183). -/
theorem exec_blockClockEdge_wide {s : State} (hclk : s.timer.refclkStopped = false) (hrst : s.lines.resetLow = false)
    (dt : Nat) (early : List PeriodWork) :
    exec (.blockClockEdge dt true early) s = .next ((s.advance dt).clockEdge early) := by
  have hhigh : (s.advance dt).lines.resetLow = false := hrst
  simp [exec, execBlockClockEdge, State.pulseTaken, State.pulse, hclk, State.unlessHeld_high hhigh]

/-- While REFCLK runs, the timed row's steps all count. -/
theorem State.now_advance_running {s : State} (hclk : s.timer.refclkStopped = false) (dt : Nat) :
    (s.advance dt).timer.now = s.timer.now + dt := by
  simp [hclk]

/-- Only FLYWHEEL has acceptance windows that can be overdue (R5). -/
theorem State.closeOverdueWindow_outside_flywheel {s : State} (h : s.clock.state ≠ .flywheel) :
    s.closeOverdueWindow = s := by
  unfold State.closeOverdueWindow
  split
  · rfl
  · simp [h]

theorem State.clockEdge_noClock {s : State} (h : s.clock.state = .noClock) (early : List PeriodWork) :
    s.clockEdge early = s.collectEdge := by
  have hw : s.closeOverdueWindow = s := State.closeOverdueWindow_outside_flywheel (by simp [h])
  simp only [State.clockEdge, hw, h]

theorem State.clockEdge_locked {s : State} (h : s.clock.state = .locked) (early : List PeriodWork) :
    s.clockEdge early = s.lockedEdge early := by
  have hw : s.closeOverdueWindow = s := State.closeOverdueWindow_outside_flywheel (by simp [h])
  simp only [State.clockEdge, hw, h]

/-- The intervals that enter the history, 500 to 10,000 µs (R2). -/
theorem intervalOk_iff (i : Nat) : intervalOk i = true ↔ 12500 ≤ i ∧ i ≤ 250000 := by
  simp [intervalOk]

/-! ### Gaining lock (R2) -/

theorem State.collectEdge_first {s : State} (h : s.clock.reference = none) :
    s.collectEdge = s.setClock { s.clock with reference := some s.timer.now } := by
  simp only [State.collectEdge, h]

theorem State.collectEdge_next {s : State} {r : Nat} (h : s.clock.reference = some r) : s.collectEdge = s.collect r := by
  simp only [State.collectEdge, h]

/-- An interval out of range empties the history. -/
theorem State.collect_outOfRange {s : State} {r : Nat}
    (h : ¬(12500 ≤ s.timer.now - r ∧ s.timer.now - r ≤ 250000)) :
    s.collect r = s.setClock { s.clock with history := [], reference := some s.timer.now } := by
  rw [← intervalOk_iff] at h
  simp only [State.collect, if_neg h]

/-- An interval in range joins a history that is still short of 16. -/
theorem State.collect_extends {s : State} {r : Nat} (h : 12500 ≤ s.timer.now - r ∧ s.timer.now - r ≤ 250000)
    (hlen : s.clock.history.length < 15) :
    s.collect r = s.setClock
      { s.clock with history := s.clock.history ++ [s.timer.now - r], reference := some s.timer.now } := by
  have hshort : ¬16 ≤ (s.clock.history ++ [s.timer.now - r]).length := by
    rw [List.length_append, List.length_singleton]
    omega
  simp only [State.collect, if_pos ((intervalOk_iff _).2 h), if_neg hshort]

/-- The 16th interval in range locks the clock. -/
theorem State.collect_locks {s : State} {r : Nat} (h : 12500 ≤ s.timer.now - r ∧ s.timer.now - r ≤ 250000)
    (hlen : s.clock.history.length = 15) :
    s.collect r
      = s.changeClock (s.clock.lock s.timer.now (s.clock.history ++ [s.timer.now - r])) .locked := by
  have hfull : 16 ≤ (s.clock.history ++ [s.timer.now - r]).length := by
    rw [List.length_append, List.length_singleton]
    omega
  simp only [State.collect, if_pos ((intervalOk_iff _).2 h), if_pos hfull]

/-- Settles O9, by the branches of `State.collectEdge`: the first edge, an interval out of range, one that joins the history,
and the 16th. -/
theorem collectingGainsLock : Obligations.CollectingGainsLock := by
  intro dt early s hclk hrst hstate
  have hnow := State.now_advance_running hclk dt
  have hedge : exec (.blockClockEdge dt true early) s = .next (s.advance dt).collectEdge := by
    rw [exec_blockClockEdge_wide hclk hrst, State.clockEdge_noClock (s := s.advance dt) hstate]
  refine ⟨fun href => ?_, fun r href => ?_⟩
  · rw [hedge, State.collectEdge_first (s := s.advance dt) href, hnow]
    rfl
  · rw [hedge, State.collectEdge_next (s := s.advance dt) href, ← hnow]
    refine ⟨fun hout => ?_, fun hlo hhi hlen => ?_, fun hlo hhi hlen => ?_⟩
    · rw [State.collect_outOfRange hout]
      rfl
    · rw [State.collect_extends ⟨hlo, hhi⟩ hlen]
      rfl
    · rw [State.collect_locks ⟨hlo, hhi⟩ hlen]
      simp only [State.changeClock, State.postClockChange, Clock.lock, average, hstate, State.advance_clock]
      rfl

/-! ### Following the clock (R3) -/

theorem State.sinceReference_of_some {s : State} {r : Nat} (h : s.clock.reference = some r) :
    s.sinceReference = s.timer.now - r := by
  simp [State.sinceReference, h]

theorem Clock.n_of_some {c : Clock} {n : Nat} (h : c.nominal = some n) : c.n = n := by
  simp [Clock.n, h]

/-- An edge less than 0.5 × N after the reference instant is ignored. -/
theorem State.lockedEdge_early {s : State} (h : 2 * s.sinceReference < s.clock.n) (early : List PeriodWork) :
    s.lockedEdge early = s := by
  rw [State.lockedEdge, if_pos h]

/-- An edge from 0.5 × N to 1.5 × N after the reference instant is a beat that the clock follows. -/
theorem State.lockedEdge_beat {s : State} (hlo : s.clock.n ≤ 2 * s.sinceReference)
    (hhi : 2 * s.sinceReference ≤ 3 * s.clock.n) (early : List PeriodWork) :
    s.lockedEdge early
      = (s.setClock (s.clock.follow s.timer.now s.sinceReference)).deliverBeat s.clock.n early := by
  rw [State.lockedEdge, if_neg (Nat.not_lt.2 hlo), if_pos hhi]

/-- Outside RUNNING a beat is no period event (R9). -/
theorem State.deliverBeat_notRunning {s : State} (h : s.part.state ≠ .running) (n : Nat) (early : List PeriodWork) :
    s.deliverBeat n early = s := by
  rw [State.deliverBeat, if_neg h]

/-- While RUNNING with the start guard clear every beat is a period event (R9, R14). -/
theorem State.deliverBeat_unguarded {s : State} (h : s.part.state = .running) (hguard : s.part.startGuard = false)
    (n : Nat) (early : List PeriodWork) : s.deliverBeat n early = s.periodEvent early := by
  simp [State.deliverBeat, State.withholds, h, hguard]

/-- What the beat of an edge makes of the Clock Monitor, with the range of R2 written out. -/
theorem Clock.follow_eq (c : Clock) (now i : Nat) :
    c.follow now i = if 12500 ≤ i ∧ i ≤ 250000 then
        { c with reference := some now, history := c.history.tail ++ [i]
                 nominal := some ((c.history.tail ++ [i]).sum / 16) }
      else { c with reference := some now } := by
  simp only [Clock.follow, intervalOk_iff, average]

/-- Settles O10, by the branches of `State.lockedEdge`; what a beat keeps of the state is that of `State.deliverBeat`. -/
theorem lockedEdge : Obligations.LockedEdge := by
  intro dt early s r n hclk hrst hstate href hnom
  have hnow := State.now_advance_running hclk dt
  have hn : (s.advance dt).clock.n = n := Clock.n_of_some hnom
  have hsince : (s.advance dt).sinceReference = s.timer.now + dt - r := by
    rw [State.sinceReference_of_some (s := s.advance dt) href, hnow]
  have hedge : exec (.blockClockEdge dt true early) s = .next ((s.advance dt).lockedEdge early) := by
    rw [exec_blockClockEdge_wide hclk hrst, State.clockEdge_locked (s := s.advance dt) hstate]
  rw [hedge, ← hsince]
  refine ⟨fun hearly => ?_, fun hlo hhi => ⟨_, rfl, ?_⟩⟩
  · rw [State.lockedEdge_early (hn.symm ▸ hearly)]
  · rw [State.lockedEdge_beat (hn.symm ▸ hlo) (hn.symm ▸ hhi), Clock.follow_eq, hnow, State.advance_clock]
    refine ⟨State.clock_deliverBeat .., State.mem_deliverBeat .., State.timer_deliverBeat ..,
      fun hrun => ?_, fun hrun hguard => ?_⟩
    · rw [State.deliverBeat_notRunning (s := (s.advance dt).setClock _) hrun]
      rfl
    · rw [State.deliverBeat_unguarded (s := (s.advance dt).setClock _) hrun hguard]
      refine ⟨?_, State.resolveFront_periodEvent ..⟩
      rw [State.part_periodEvent, ← hguard]
      rfl

end Sys2Proof.Machine
end

section
/-! # The weights of a fade and the crossfade of two samples (R109, R110)

The fade position of a sample lies below 128 × L, so its weight is that of a division whose product lies between those of
the first and of the last sample. A crossfade divides a weighted sum of two samples whose weights add up to 65,536: such a
sum lies between 65,536 times the smaller and 65,536 times the greater of them, so the quotient lies between the samples
and is a 32-bit value. The output of a job is this crossfade word by word. -/

namespace Sys2Proof.Machine

/-! ### The weight -/

/-- The fade position of a sample, counted from 1, runs up to the number of steps of the fade. -/
theorem fadePosition_le {f l i : Nat} (hf : f < l) (hi : i < 128) : f * 128 + i + 1 ≤ 128 * l := by omega

/-- No sample of a fade weighs less than the first. -/
theorem first_le_fadeWeight (f l i : Nat) : 65536 / (128 * l + 1) ≤ fadeWeight f l i :=
  Nat.div_le_div_right (Nat.le_mul_of_pos_right 65536 (Nat.succ_pos (f * 128 + i)))

/-- No sample of a fade weighs more than the last. -/
theorem fadeWeight_le_last {f l i : Nat} (hf : f < l) (hi : i < 128) :
    fadeWeight f l i ≤ 65536 * (128 * l) / (128 * l + 1) :=
  Nat.div_le_div_right (Nat.mul_le_mul_left 65536 (fadePosition_le hf hi))

/-- The last sample of a fade is not the new block alone, whatever the fade's length. -/
theorem lastWeight_le (l : Nat) : 65536 * (128 * l) / (128 * l + 1) ≤ 65535 := by
  have hlt : 65536 * (128 * l) / (128 * l + 1) < 65536 :=
    Nat.div_lt_of_lt_mul (by omega)
  omega

/-- The first sample of the longest fade, 16 blocks, weighs 31; that of a shorter one no less. -/
theorem firstWeight_ge {l : Nat} (hl : l ≤ 16) : 31 ≤ 65536 / (128 * l + 1) :=
  (Nat.le_div_iff_mul_le (Nat.succ_pos _)).2 (by omega)

/-! ### One sample -/

/-- A weighted sum of two samples is no more than the whole weight times a bound of both. -/
theorem weightedSum_le {a b hi w : Int} (ha : a ≤ hi) (hb : b ≤ hi) (hw0 : 0 ≤ w) (hw : w ≤ 65536) :
    a * (65536 - w) + b * w ≤ hi * 65536 :=
  calc a * (65536 - w) + b * w ≤ hi * (65536 - w) + hi * w :=
        Int.add_le_add (Int.mul_le_mul_of_nonneg_right ha (Int.sub_nonneg_of_le hw))
          (Int.mul_le_mul_of_nonneg_right hb hw0)
    _ = hi * 65536 := by rw [← Int.mul_add, Int.sub_add_cancel]

/-- A weighted sum of two samples is no less than the whole weight times a lower bound of both. -/
theorem le_weightedSum {a b lo w : Int} (ha : lo ≤ a) (hb : lo ≤ b) (hw0 : 0 ≤ w) (hw : w ≤ 65536) :
    lo * 65536 ≤ a * (65536 - w) + b * w :=
  calc lo * 65536 = lo * (65536 - w) + lo * w := by rw [← Int.mul_add, Int.sub_add_cancel]
    _ ≤ a * (65536 - w) + b * w :=
        Int.add_le_add (Int.mul_le_mul_of_nonneg_right ha (Int.sub_nonneg_of_le hw))
          (Int.mul_le_mul_of_nonneg_right hb hw0)

/-- The floor of the weighted sum lies between the two samples. -/
theorem weightedFloor_mem_Icc (a b : Int) {w : Nat} (hw : w ≤ 65536) :
    min a b ≤ (a * (65536 - (w : Int)) + b * (w : Int)) / 65536
      ∧ (a * (65536 - (w : Int)) + b * (w : Int)) / 65536 ≤ max a b := by
  have hlo := le_weightedSum (Int.min_le_left a b) (Int.min_le_right a b) (Int.natCast_nonneg w) (by omega)
  have hhi := weightedSum_le (Int.le_max_left a b) (Int.le_max_right a b) (Int.natCast_nonneg w) (by omega)
  exact ⟨Int.le_ediv_of_mul_le (by decide) hlo, Int.ediv_le_of_le_mul (by decide) hhi⟩

/-- An integer between two words is itself the value of a word. -/
theorem Word.toInt_ofInt_of_between (a b : Word) {x : Int} (hlo : min a.toInt b.toInt ≤ x)
    (hhi : x ≤ max a.toInt b.toInt) : (BitVec.ofInt 32 x).toInt = x :=
  BitVec.toInt_ofInt_eq_self (by decide) (Int.le_trans (Int.le_min.2 ⟨a.le_toInt, b.le_toInt⟩) hlo)
    (Int.lt_of_le_of_lt hhi (Int.max_lt.2 ⟨a.toInt_lt, b.toInt_lt⟩))

/-- The crossfade fits in 32 bits, so the sample is the floor itself (R110). -/
theorem toInt_crossfade (a b : Word) {w : Nat} (hw : w ≤ 65536) :
    (crossfade a b w).toInt = (a.toInt * (65536 - (w : Int)) + b.toInt * (w : Int)) / 65536 :=
  have ⟨hlo, hhi⟩ := weightedFloor_mem_Icc a.toInt b.toInt hw
  Word.toInt_ofInt_of_between a b hlo hhi

/-! ### The samples of a job -/

@[simp] theorem length_readWords (m : Memory) (a n : Nat) : (readWords m a n).length = n := by
  induction n generalizing a with
  | zero => rfl
  | succ n ih => rw [readWords, List.length_cons, ih]

/-- Word `i` of the words read stands `4 * i` bytes on. -/
theorem getElem?_readWords (m : Memory) (a : Nat) {n i : Nat} (h : i < n) :
    (readWords m a n)[i]? = some (readWord m (a + 4 * i)) := by
  induction n generalizing a i with
  | zero => exact absurd h (Nat.not_lt_zero i)
  | succ n ih =>
    cases i with
    | zero => rfl
    | succ i =>
      rw [readWords, List.getElem?_cons_succ, ih (a + 4) (Nat.lt_of_succ_lt_succ h),
        show a + 4 + 4 * i = a + 4 * (i + 1) by omega]

theorem length_crossfadeFrom (f l i : Nat) (as bs : List Word) :
    (crossfadeFrom f l i as bs).length = min as.length bs.length := by
  induction as generalizing i bs with
  | nil => simp [crossfadeFrom]
  | cons a as ih =>
    cases bs with
    | nil => simp [crossfadeFrom]
    | cons b bs => simp [crossfadeFrom, ih]

/-- Each sample is the crossfade of the two words at its place, under the weight of its place. -/
theorem getElem?_crossfadeFrom {f l i k : Nat} {as bs : List Word} {a b : Word} (ha : as[k]? = some a)
    (hb : bs[k]? = some b) : (crossfadeFrom f l i as bs)[k]? = some (crossfade a b (fadeWeight f l (i + k))) := by
  induction as generalizing i k bs with
  | nil => simp at ha
  | cons a' as ih =>
    cases bs with
    | nil => simp at hb
    | cons b' bs =>
      cases k with
      | zero =>
        obtain rfl : a' = a := by simpa using ha
        obtain rfl : b' = b := by simpa using hb
        rfl
      | succ k =>
        rw [List.getElem?_cons_succ] at ha hb
        rw [crossfadeFrom, List.getElem?_cons_succ, ih ha hb, show i + 1 + k = i + (k + 1) by omega]

@[simp] theorem State.length_jobSamples (s : State) (j : BlendJob) : (s.jobSamples j).length = 128 := by
  simp [State.jobSamples, length_crossfadeFrom]

/-- Sample `i` of a job, from the two words of its buckets (R17, R110). -/
theorem State.getElem?_jobSamples (s : State) (j : BlendJob) {i : Nat} (h : i < 128) :
    (s.jobSamples j)[i]? = some (crossfade (readWord s.mem (s.pool.base + j.old * 512 + 4 * i))
      (readWord s.mem (s.pool.base + j.new * 512 + 4 * i)) (fadeWeight j.fadeIndex j.fadeLength i)) := by
  have hsample := getElem?_crossfadeFrom (f := j.fadeIndex) (l := j.fadeLength) (i := 0)
    (getElem?_readWords s.mem (s.pool.byteAddr j.old 0) h) (getElem?_readWords s.mem (s.pool.byteAddr j.new 0) h)
  rwa [Nat.zero_add] at hsample

/-- Settles O53, from the bounds of the first and the last weight, and of a weighted sum between two samples. -/
theorem crossfadeArithmetic : Obligations.CrossfadeArithmetic := by
  refine ⟨fun _ _ _ => rfl, fun f l i hf hi => ?weight, fun a b w hw => ?sample, fun s j => ?job⟩
  case weight =>
    have hfirst := first_le_fadeWeight f l i
    have hlast := fadeWeight_le_last hf hi
    exact ⟨hfirst, hlast, Nat.le_trans hlast (lastWeight_le l), fun hl => Nat.le_trans (firstWeight_ge hl) hfirst⟩
  case sample =>
    have hvalue := toInt_crossfade a b hw
    exact ⟨hvalue, hvalue ▸ weightedFloor_mem_Icc a.toInt b.toInt hw⟩
  case job =>
    refine ⟨s.length_jobSamples j, fun i hi => ?_⟩
    rw [List.getD_eq_getElem?_getD, s.getElem?_jobSamples j hi, Option.getD_some]

end Sys2Proof.Machine
end

section
/-! # Conditions and lists

The few facts about conditionals and lists that these proofs need and core Lean does not state. -/

namespace Sys2Proof.Machine

theorem ite_of_iff {α : Type} {b c : Prop} [Decidable b] [Decidable c] {x y u v : α} (h : b ↔ c) (hx : x = u) (hy : y = v) :
    (if b then x else y) = if c then u else v := by
  subst hx hy
  by_cases hb : b
  · rw [if_pos hb, if_pos (h.1 hb)]
  · rw [if_neg hb, if_neg (fun hc => hb (h.2 hc))]

/-- Two conditions tried in turn for one outcome are their disjunction. -/
theorem ite_ite_of_or {α : Type} {b c : Prop} [Decidable b] [Decidable c] (x y : α) :
    (if b then x else if c then x else y) = if b ∨ c then x else y := by
  by_cases hb : b
  · rw [if_pos hb, if_pos (.inl hb)]
  · rw [if_neg hb, ite_of_iff (or_iff_right hb) rfl rfl]

theorem nodup_single {α : Type} (a : α) : [a].Nodup := List.nodup_cons.2 ⟨List.not_mem_nil, List.nodup_nil⟩

/-- Lists that rise are equal when they have the same members. -/
theorem eq_of_ascend : ∀ {l k : List Nat}, l.Pairwise (· < ·) → k.Pairwise (· < ·) → (∀ n, n ∈ l ↔ n ∈ k) → l = k
  | [], [], _, _, _ => rfl
  | [], b :: _, _, _, h => absurd ((h b).2 List.mem_cons_self) List.not_mem_nil
  | a :: _, [], _, _, h => absurd ((h a).1 List.mem_cons_self) List.not_mem_nil
  | a :: l, b :: k, hl, hk, h => by
    obtain ⟨ha, hlt⟩ := List.pairwise_cons.1 hl
    obtain ⟨hb, hkt⟩ := List.pairwise_cons.1 hk
    have hab : a = b := by
      rcases List.mem_cons.1 ((h a).1 List.mem_cons_self) with hab | hak
      · exact hab
      · rcases List.mem_cons.1 ((h b).2 List.mem_cons_self) with hba | hbl
        · exact hba.symm
        · exact absurd (hb a hak) (Nat.lt_asymm (ha b hbl))
    subst hab
    refine congrArg (a :: ·) (eq_of_ascend hlt hkt fun n => ⟨fun hn => ?_, fun hn => ?_⟩)
    · exact (List.mem_cons.1 ((h n).1 (List.mem_cons_of_mem a hn))).resolve_left (Nat.ne_of_gt (ha n hn))
    · exact (List.mem_cons.1 ((h n).2 (List.mem_cons_of_mem a hn))).resolve_left (Nat.ne_of_gt (hb n hn))

theorem foldl_congr {α β : Type} {f g : α → β → α} : ∀ {l : List β} {a : α}, (∀ a, ∀ b ∈ l, f a b = g a b) →
    l.foldl f a = l.foldl g a
  | [], _, _ => rfl
  | b :: l, a, h => by
    rw [List.foldl_cons, List.foldl_cons, h a b List.mem_cons_self]
    exact foldl_congr fun a x hx => h a x (List.mem_cons_of_mem b hx)

section
variable {l k : List Word} {i : Nat} {d : Word}

theorem getD_append_lt (h : i < l.length) : (l ++ k).getD i d = l.getD i d := by
  rw [List.getD_eq_getElem?_getD, List.getElem?_append_left h, List.getD_eq_getElem?_getD]

theorem getD_append_ge (h : l.length ≤ i) : (l ++ k).getD i d = k.getD (i - l.length) d := by
  rw [List.getD_eq_getElem?_getD, List.getElem?_append_right h, List.getD_eq_getElem?_getD]

theorem getD_beyond (h : l.length ≤ i) : l.getD i d = d := by
  rw [List.getD_eq_getElem?_getD, List.getElem?_eq_none h]
  rfl

theorem getD_replicate_lt {n : Nat} (w : Word) (h : i < n) : (List.replicate n w).getD i d = w := by
  rw [List.getD_eq_getElem?_getD, List.getElem?_replicate, if_pos h]
  rfl

end

/-- One bit of a number, kept in its place. -/
theorem and_bit (n i : Nat) : n &&& 2 ^ i = if n.testBit i = true then 2 ^ i else 0 := by
  refine Nat.eq_of_testBit_eq fun j => ?_
  rw [Nat.testBit_and, Nat.testBit_two_pow]
  by_cases hij : i = j
  · subst hij
    cases n.testBit i <;> simp
  · split
    · rw [Nat.testBit_two_pow]
      simp [hij]
    · simp [hij]

end Sys2Proof.Machine
end

section
/-! # The acts of the blocks, made of single updates

What the blocks do at a period event, and what a lane does with its words, is made of a few single updates of the state: a
notice posted, a record of one group, one ring or one context changed, claims on the Bucket Manager, a job queued, a Live
Directory write sent. `State.Act` lists these updates with what each may rely on, `State.Acts` is a run of them, and every
operation of the Switchover Controller, the Health Monitor, the Slot Resolver and the Capture Units is such a run. What a
single update keeps, every one of these operations keeps. -/

namespace Sys2Proof.Machine

/-! ### Updates one after another -/

/-- `t` is `s` after a run of updates that `r` allows. -/
inductive Reach {σ : Type} (r : σ → σ → Prop) (s : σ) : σ → Prop
  | refl : Reach r s s
  | tail {t u : σ} (h : Reach r s t) (hr : r t u) : Reach r s u

theorem Reach.trans {σ : Type} {r : σ → σ → Prop} {s t u : σ} (h : Reach r s t) (h' : Reach r t u) : Reach r s u := by
  induction h' with
  | refl => exact h
  | tail _ hr ih => exact ih.tail hr

/-! ### Claims that put no bucket in use -/

/-- A claim on the Bucket Manager that takes no bucket from the free list. -/
inductive Pool.Claim : Pool → Pool → Prop
  | retain (p : Pool) (b : Nat) : Pool.Claim p (p.retain b)
  | free (p : Pool) (b : Nat) : Pool.Claim p (p.free b)
  | pin (p : Pool) (b : Nat) : Pool.Claim p (p.pin b)
  | unpin (p : Pool) (b : Nat) : Pool.Claim p (p.unpin b)
  | exhausted (p : Pool) (r : Rig) (v : Bool) : Pool.Claim p (p.setExhausted r v)

/-- Claims one after another. -/
def Pool.Claims : Pool → Pool → Prop := Reach Pool.Claim

section
variable {p q : Pool}

theorem Pool.Claims.refl (p : Pool) : p.Claims p := Reach.refl
theorem Pool.Claims.trans {o : Pool} (h : p.Claims q) (h' : q.Claims o) : p.Claims o := Reach.trans h h'
theorem Pool.Claims.retain (h : p.Claims q) (b : Nat) : p.Claims (q.retain b) := h.tail (.retain q b)
theorem Pool.Claims.free (h : p.Claims q) (b : Nat) : p.Claims (q.free b) := h.tail (.free q b)
theorem Pool.Claims.pin (h : p.Claims q) (b : Nat) : p.Claims (q.pin b) := h.tail (.pin q b)
theorem Pool.Claims.unpin (h : p.Claims q) (b : Nat) : p.Claims (q.unpin b) := h.tail (.unpin q b)
theorem Pool.Claims.setExhausted (h : p.Claims q) (r : Rig) (v : Bool) : p.Claims (q.setExhausted r v) :=
  h.tail (.exhausted q r v)

theorem Pool.Claims.freeOpt (h : p.Claims q) (b : Option Nat) : p.Claims (q.freeOpt b) := by
  cases b with
  | none => exact h
  | some b => exact h.free b

theorem Pool.Claims.unpinOpt (h : p.Claims q) (b : Option Nat) : p.Claims (q.unpinOpt b) := by
  cases b with
  | none => exact h
  | some b => exact h.unpin b

theorem Pool.Claims.foldl {β : Type} {f : Pool → β → Pool} (hf : ∀ q b, Pool.Claims q (f q b)) :
    ∀ (l : List β) {q : Pool}, p.Claims q → p.Claims (l.foldl f q)
  | [], _, h => h
  | b :: l, q, h => Pool.Claims.foldl hf l (h.trans (hf q b))

theorem Pool.Claims.unpinMap (h : p.Claims q) (m : Table MapEntry) : p.Claims (q.unpinMap m) := by
  refine Pool.Claims.foldl (fun o e => ?_) m h
  split
  · exact .refl o
  · exact (Pool.Claims.refl o).unpin _

theorem Pool.Claims.servedClaims (h : p.Claims q) (x : Context) (gr : GroupRecord) (e : Entry) :
    p.Claims (q.servedClaims x gr e) := by
  unfold Pool.servedClaims
  split
  · exact h.unpinOpt _
  · split
    · exact (h.pin _).unpinOpt _
    · exact h

theorem Pool.Claims.completeJob (h : p.Claims q) (j : BlendJob) : p.Claims (q.completeJob j) := (h.unpin _).unpin _
theorem Pool.Claims.cancelJob (h : p.Claims q) (j : BlendJob) : p.Claims (q.cancelJob j) :=
  Pool.Claims.unpin (Pool.Claims.unpin h _) _
theorem Pool.Claims.drainJob (h : p.Claims q) (j : BlendJob) : p.Claims (q.drainJob j) := (h.unpin _).unpin _

theorem Pool.Claims.flushJob (h : p.Claims q) (j : BlendJob) : p.Claims (q.flushJob j) := by
  unfold Pool.flushJob
  split
  · exact h.drainJob j
  · exact ((h.unpin _).unpin _).unpin _

theorem Pool.Claims.dropContext (h : p.Claims q) (x : Context) : p.Claims (q.dropContext x) := by
  have hl : ∀ {o : Pool}, p.Claims o → ∀ t : Table Lane, p.Claims (o.freeLanes t) := fun h t =>
    Pool.Claims.foldl (fun o _ => (Pool.Claims.refl o).freeOpt _) t h
  have he : ∀ {o : Pool}, p.Claims o → ∀ es : List Entry, p.Claims (o.freeEntries es) := fun h es =>
    Pool.Claims.foldl (fun o _ => (Pool.Claims.refl o).free _) es h
  exact he (he (hl (hl h _) _) _) _

theorem Pool.Claims.unpinRing (h : p.Claims q) (r : Ring) : p.Claims (q.unpinRing r) := by
  refine Pool.Claims.foldl (fun o e => ?_) r.slots h
  split
  · exact (Pool.Claims.refl o).unpinMap _
  · exact .refl o

theorem Pool.Claims.dropShow (h : p.Claims q) (cs : Table Context) (rs : Table Ring) : p.Claims (q.dropShow cs rs) :=
  Pool.Claims.foldl (fun o _ => (Pool.Claims.refl o).unpinOpt _) cs
    (Pool.Claims.foldl (fun o _ => (Pool.Claims.refl o).unpinRing _) rs
      (Pool.Claims.foldl (fun o _ => (Pool.Claims.refl o).dropContext _) cs h))

end

/-! ### Single updates -/

/-- The block numbers of both retained lists strictly increase (R70). -/
def Context.Rising (x : Context) : Prop := ∀ r, (x.lists.get r).Pairwise (fun e f => e.block < f.block)

/-- The window of a group: whether it runs, and its end (R120). -/
def GroupHealth.window (h : GroupHealth) : Bool × Nat := (h.windowOpen, h.windowEnd)

theorem GroupHealth.window_modifyRecord (h : GroupHealth) (f : HealthRecord → HealthRecord) (r : Role) :
    (h.modifyRecord f r).window = h.window := by cases r <;> rfl

/-- A single update that the blocks' acts are made of. A bucket is put in use only
where `fill` allows it, a group's window begins and ends only where `win` does, a job joins a queue that has room, and a context keeps its lists in order. -/
inductive State.Act (fill win : Bool) : State → State → Prop
  | post (s : State) (g : Option Nat) (r : Option Rig) (b : NoticeBody) : State.Act fill win s (s.post g r b)
  | group (s : State) (g : Nat) (f : GroupRecord → GroupRecord) : State.Act fill win s (s.modifyGroup g f)
  | health (s : State) (g : Nat) (f : GroupHealth → GroupHealth) (h : win = true ∨ (f (s.healthOf g)).window = (s.healthOf g).window) :
      State.Act fill win s (s.modifyHealth g f)
  | ring (s : State) (g : Nat) (f : Ring → Ring) : State.Act fill win s (s.modifyRing g f)
  | tallies (s : State) : State.Act fill win s s.setTallies
  | slotWrite (s : State) (kind : SlotWriteKind) (g k o : Nat) (ws : List Word) : State.Act fill win s (s.sendSlotWrite kind g k o ws)
  | front (s : State) (n : Nat) : State.Act fill win s (s.setFront n)
  | readerFault (s : State) : State.Act fill win s s.countReaderFault
  | readerEarly (s : State) : State.Act fill win s s.countReaderEarly
  | claim (s : State) (f : Pool → Pool) (h : s.pool.Claims (f s.pool)) : State.Act fill win s (s.claim f)
  | laneBucket (s : State) (r : Rig) (target : Bool) (h : fill = true) :
      State.Act fill win s (s.claim (fun p => (p.laneAllocate r target).2))
  | blendBucket (s : State) (h : fill = true) : State.Act fill win s (s.claim (fun p => p.blendAllocate.2))
  | job (s : State) (j : BlendJob) (hroom : s.blend.length < 48) (hq : j.phase = .queued) (hs : j.samples = none) :
      State.Act fill win s (s.addJob j)
  | context (s : State) (k : Nat) (f : Context → Context) (h : (s.context k).Rising → (f (s.context k)).Rising) :
      State.Act fill win s (s.modifyContext k f)
  | refresh (s : State) (k : Nat) : State.Act fill win s { s with cache := s.cache.refresh k }
  | store (s : State) (ln : Lane) (v : Word) : State.Act fill win s (s.storePayload ln v)

/-- Single updates one after another. -/
def State.Acts (fill win : Bool) : State → State → Prop := Reach (State.Act fill win)

section
variable {fill win : Bool} {a s : State}

theorem State.Acts.refl (s : State) : s.Acts fill win s := Reach.refl
theorem State.Acts.trans {t : State} (h : a.Acts fill win s) (h' : s.Acts fill win t) : a.Acts fill win t := Reach.trans h h'
theorem State.Acts.post (h : a.Acts fill win s) (g : Option Nat) (r : Option Rig) (b : NoticeBody) : a.Acts fill win (s.post g r b) :=
  h.tail (.post s g r b)
theorem State.Acts.modifyGroup (h : a.Acts fill win s) (g : Nat) (f : GroupRecord → GroupRecord) : a.Acts fill win (s.modifyGroup g f) :=
  h.tail (.group s g f)
theorem State.Acts.modifyHealth (h : a.Acts fill win s) {g : Nat} {f : GroupHealth → GroupHealth}
    (hf : (f (s.healthOf g)).window = (s.healthOf g).window) : a.Acts fill win (s.modifyHealth g f) := h.tail (.health s g f (.inr hf))
theorem State.Acts.setHealth (h : a.Acts fill win s) (hw : win = true) (g : Nat) (f : GroupHealth → GroupHealth) :
    a.Acts fill win (s.modifyHealth g f) := h.tail (.health s g f (.inl hw))
theorem State.Acts.modifyRing (h : a.Acts fill win s) (g : Nat) (f : Ring → Ring) : a.Acts fill win (s.modifyRing g f) := h.tail (.ring s g f)
theorem State.Acts.modifySlot (h : a.Acts fill win s) (g k : Nat) (f : Slot → Slot) : a.Acts fill win (s.modifySlot g k f) := h.modifyRing _ _
theorem State.Acts.setTallies (h : a.Acts fill win s) : a.Acts fill win s.setTallies := h.tail (.tallies s)
theorem State.Acts.sendSlotWrite (h : a.Acts fill win s) (kind : SlotWriteKind) (g k o : Nat) (ws : List Word) :
    a.Acts fill win (s.sendSlotWrite kind g k o ws) := h.tail (.slotWrite s kind g k o ws)
theorem State.Acts.setFront (h : a.Acts fill win s) (n : Nat) : a.Acts fill win (s.setFront n) := h.tail (.front s n)
theorem State.Acts.countReaderFault (h : a.Acts fill win s) : a.Acts fill win s.countReaderFault := h.tail (.readerFault s)
theorem State.Acts.countReaderEarly (h : a.Acts fill win s) : a.Acts fill win s.countReaderEarly := h.tail (.readerEarly s)
theorem State.Acts.claim (h : a.Acts fill win s) {f : Pool → Pool} (hf : s.pool.Claims (f s.pool)) : a.Acts fill win (s.claim f) :=
  h.tail (.claim s f hf)
theorem State.Acts.laneBucket (h : a.Acts fill win s) (hf : fill = true) (r : Rig) (target : Bool) :
    a.Acts fill win (s.claim (fun _ => (s.pool.laneAllocate r target).2)) := h.tail (.laneBucket s r target hf)
theorem State.Acts.blendBucket (h : a.Acts fill win s) (hf : fill = true) :
    a.Acts fill win (s.claim (fun _ => s.pool.blendAllocate.2)) := h.tail (.blendBucket s hf)
theorem State.Acts.modifyContext (h : a.Acts fill win s) {k : Nat} {f : Context → Context}
    (hf : (s.context k).Rising → (f (s.context k)).Rising) : a.Acts fill win (s.modifyContext k f) := h.tail (.context s k f hf)
theorem State.Acts.refresh (h : a.Acts fill win s) (k : Nat) : a.Acts fill win { s with cache := s.cache.refresh k } := h.tail (.refresh s k)
theorem State.Acts.storePayload (h : a.Acts fill win s) (ln : Lane) (v : Word) : a.Acts fill win (s.storePayload ln v) := h.tail (.store s ln v)

/-- A figure that each single update keeps is kept by a run of them. -/
theorem State.Acts.keeps {β : Type} {m : State → β} (hm : ∀ {s t : State}, State.Act fill win s t → m t = m s) (h : a.Acts fill win s) :
    m s = m a := by
  induction h with
  | refl => rfl
  | tail _ ht ih => exact (hm ht).trans ih

/-- A property that each single update keeps is kept by a run of them. -/
theorem State.Acts.preserves {P : State → Prop} (hP : ∀ {s t : State}, State.Act fill win s t → P s → P t) (h : a.Acts fill win s)
    (ha : P a) : P s := by
  induction h with
  | refl => exact ha
  | tail _ ht ih => exact hP ht ih

theorem State.Acts.part_eq (h : a.Acts fill win s) : s.part = a.part :=
  h.keeps (m := State.part) (fun ht => by cases ht <;> rfl)

theorem State.Acts.foldl {β : Type} {f : State → β → State} (hf : ∀ {t : State} (b : β), a.Acts fill win t → a.Acts fill win (f t b)) :
    ∀ (l : List β) {t : State}, a.Acts fill win t → a.Acts fill win (l.foldl f t)
  | [], _, h => h
  | b :: l, _, h => State.Acts.foldl hf l (hf b h)

/-! ### The Switchover Controller -/

theorem State.Acts.setWithheld (h : a.Acts fill win s) (ms : List Nat) (v : Bool) : a.Acts fill win (s.setWithheld ms v) :=
  State.Acts.foldl (fun _ h => h.modifyGroup _ _) ms h

theorem State.Acts.switchMember (h : a.Acts fill win s) (r : Role) (fade : Bool) (c : SwitchCause) (g : Nat) :
    a.Acts fill win (s.switchMember r fade c g) := by
  unfold State.switchMember
  dsimp only
  split
  · exact ((h.modifyGroup _ _).post _ _ _).post _ _ _
  · exact (h.modifyGroup _ _).post _ _ _

theorem State.Acts.switchSet (h : a.Acts fill win s) (ms : List Nat) (r : Role) (fade : Bool) (c : SwitchCause) :
    a.Acts fill win (s.switchSet ms r fade c) :=
  ((State.Acts.foldl (fun _ h => h.switchMember _ _ _ _) ms h).setWithheld _ _).setTallies

theorem State.Acts.automaticSwitch (h : a.Acts fill win s) (ms : List Nat) (t : Nat) (r : Role) (c : SwitchCause) :
    a.Acts fill win (s.automaticSwitch ms t r c) := by
  unfold State.automaticSwitch
  split
  · exact h.switchSet _ _ _ _
  · unfold State.withhold
    split
    · exact h
    · exact (h.post _ _ _).setWithheld _ _

theorem State.Acts.evaluate (h : a.Acts fill win s) (g : Nat) : a.Acts fill win (s.evaluate g) := by
  unfold State.evaluate
  dsimp only
  split
  · exact h
  · split
    · split
      · exact h.automaticSwitch _ _ _ _
      · exact h.setWithheld _ _
    · split
      · exact h.automaticSwitch _ _ _ _
      · split
        · exact (h.setWithheld _ _).switchSet _ _ _ _
        · exact h.setWithheld _ _

theorem State.Acts.fadeEndReport (h : a.Acts fill win s) (g n : Nat) : a.Acts fill win (s.fadeEndReport g n) := by
  unfold State.fadeEndReport
  split
  · exact ((h.modifyGroup _ _).post _ _ _).evaluate _
  · exact h

theorem State.Acts.cutMember (h : a.Acts fill win s) (r : Role) (c : SwitchCause) (g : Nat) : a.Acts fill win (s.cutMember r c g) := by
  unfold State.cutMember
  split
  · exact h
  · split
    · exact (h.modifyGroup _ _).post _ _ _
    · exact h.switchMember _ _ _ _

theorem State.Acts.cutSet (h : a.Acts fill win s) (r : Role) (c : SwitchCause) (g : Nat) : a.Acts fill win (s.cutSet r c g) := by
  have hcut := State.Acts.foldl (f := fun t m => t.cutMember r c m) (fun _ h => h.cutMember _ _ _) (s.members g) h
  have hcleared := hcut.setWithheld (s.members g) false
  unfold State.cutSet
  dsimp only
  split <;> split
  · exact hcleared.setTallies.evaluate _
  · exact hcut.setTallies.evaluate _
  · exact hcleared.setTallies
  · exact hcut.setTallies

theorem State.Acts.fadeSet (h : a.Acts fill win s) (r : Role) (g : Nat) : a.Acts fill win (s.fadeSet r g) := by
  unfold State.fadeSet
  split
  · exact h
  · exact h.switchSet _ _ _ _

theorem State.Acts.commandSwitchSet (h : a.Acts fill win s) (r : Role) (cut : Bool) (g : Nat) :
    a.Acts fill win (State.commandSwitchSet r cut s g) := by
  unfold State.commandSwitchSet
  split
  · exact h.cutSet _ _ _
  · exact h.fadeSet _ _

theorem State.Acts.takeoverSet (h : a.Acts fill win s) (g : Nat) : a.Acts fill win (s.takeoverSet g) := by
  unfold State.takeoverSet
  split
  · exact h.switchSet _ _ _ _
  · exact h

/-! ### The Health Monitor -/

theorem State.Acts.sample (h : a.Acts fill win s) (r : Role) (g : Nat) (f : HealthRecord → HealthRecord) :
    a.Acts fill win (s.sample r g f) := by
  unfold State.sample
  split
  · exact h.modifyHealth (GroupHealth.window_modifyRecord _ _ _)
  · exact h

theorem State.Acts.sampleComparisons (h : a.Acts fill win s) (g x y : Nat) : a.Acts fill win (s.sampleComparisons g x y) := by
  unfold State.sampleComparisons
  split
  · exact h.modifyHealth rfl
  · exact h

theorem State.Acts.postRigVerdict (h : a.Acts fill win s) (g : Nat) (r : Role) (o : RigVerdict) (t : Bool) :
    a.Acts fill win (s.postRigVerdict g r o t) := by
  unfold State.postRigVerdict
  dsimp only
  split
  · exact h
  · exact h.post _ _ _

theorem State.Acts.postVerdicts (h : a.Acts fill win s) (g : Nat) (x : GroupHealth) : a.Acts fill win (s.postVerdicts g x) := by
  unfold State.postVerdicts State.postAgreement
  dsimp only
  split
  · exact (h.postRigVerdict _ _ _ _).postRigVerdict _ _ _ _
  · exact ((h.postRigVerdict _ _ _ _).postRigVerdict _ _ _ _).post _ _ _

theorem State.Acts.sampleMiss (h : a.Acts fill win s) (r : Role) (g : Nat) : a.Acts fill win (s.sampleMiss r g) := by
  unfold State.sampleMiss
  dsimp only
  split
  · split
    · exact (h.modifyHealth (GroupHealth.window_modifyRecord _ _ _)).postRigVerdict _ _ _ _
    · exact ((h.modifyHealth (GroupHealth.window_modifyRecord _ _ _)).postRigVerdict _ _ _ _).evaluate _
  · exact h.sample _ _ _

theorem State.Acts.postWindowReports (h : a.Acts fill win s) (g : Nat) (x : GroupHealth) : a.Acts fill win (s.postWindowReports g x) := by
  unfold State.postWindowReports
  split
  · exact (h.post _ _ _).post _ _ _
  · exact h

theorem State.Acts.closeWindow (h : a.Acts fill win s) (hw : win = true) (g : Nat) : a.Acts fill win (s.closeWindow g) := by
  have hjudged := (h.setHealth hw g GroupHealth.judged).postVerdicts g (s.healthOf g)
  unfold State.closeWindow
  dsimp only
  split
  · exact ((hjudged.evaluate _).postWindowReports _ _).setHealth hw _ _
  · exact (hjudged.postWindowReports _ _).setHealth hw _ _

theorem State.Acts.healthWindowClose (h : a.Acts fill win s) (hw : win = true) (g : Nat) : a.Acts fill win (s.healthWindowClose g) := by
  unfold State.healthWindowClose
  split
  · exact h.closeWindow hw g
  · exact h

/-! ### The Slot Resolver: releases and the end of a slot's jobs -/

theorem State.Acts.recycle (h : a.Acts fill win s) (g : Nat) : a.Acts fill win (s.recycle g) := by
  have hpins := h.claim (f := fun p => p.unpinMap (s.slot g ((s.ring g).playBase % 16)).map)
    ((Pool.Claims.refl s.pool).unpinMap _)
  unfold State.recycle
  exact ((hpins.modifySlot _ _ _).sendSlotWrite _ _ _ _ _).modifyRing _ _

theorem State.Acts.advancePlayBase (g : Nat) : ∀ (fuel : Nat) {s : State}, a.Acts fill win s → a.Acts fill win (s.advancePlayBase g fuel)
  | 0, _, h => h
  | fuel + 1, s, h => by
    unfold State.advancePlayBase
    split
    · exact State.Acts.advancePlayBase g fuel (h.recycle g)
    · exact h

theorem State.Acts.releaseSlot (h : a.Acts fill win s) (g k : Nat) : a.Acts fill win (s.releaseSlot g k) :=
  State.Acts.advancePlayBase g 16 (h.modifySlot _ _ _)

theorem State.Acts.partRelease (h : a.Acts fill win s) (g k : Nat) : a.Acts fill win (s.partRelease g k) := by
  unfold State.partRelease State.reportLate
  split
  · exact h.releaseSlot _ _
  · exact ((h.post _ _ _).modifyRing _ _).releaseSlot _ _

theorem State.Acts.forcedRelease (h : a.Acts fill win s) (g k : Nat) : a.Acts fill win (s.forcedRelease g k) := by
  unfold State.forcedRelease
  split
  · exact h.partRelease _ _
  · exact h

theorem State.Acts.becomeReady (h : a.Acts fill win s) (g k : Nat) : a.Acts fill win (s.becomeReady g k) :=
  (h.modifySlot _ _ _).forcedRelease _ _

theorem State.Acts.recordTaken (h : a.Acts fill win s) (g k n : Nat) : a.Acts fill win (s.recordTaken g k n) := by
  unfold State.recordTaken
  dsimp only
  split
  · split
    · exact h.modifySlot _ _ _
    · exact h.becomeReady _ _
  · exact h

theorem State.Acts.headerTaken (h : a.Acts fill win s) (g k n : Nat) : a.Acts fill win (s.headerTaken g k n) := by
  unfold State.headerTaken
  split
  · exact h.becomeReady _ _
  · exact h

theorem State.Acts.jobLeaves (h : a.Acts fill win s) (g k : Nat) : a.Acts fill win (s.jobLeaves g k) := by
  unfold State.jobLeaves
  dsimp only
  split
  · exact ((h.modifySlot _ _ _).sendSlotWrite _ _ _ _ _).modifySlot _ _ _
  · exact h.modifySlot _ _ _

theorem State.Acts.jobCompleted (h : a.Acts fill win s) (g n : Nat) : a.Acts fill win (s.jobCompleted g n) := by
  unfold State.jobCompleted
  split
  · exact h.jobLeaves _ _
  · exact h

theorem State.Acts.jobCancelled (h : a.Acts fill win s) (g n c b : Nat) : a.Acts fill win (s.jobCancelled g n c b) := by
  unfold State.jobCancelled
  split
  · exact (((h.modifySlot _ _ _).sendSlotWrite _ _ _ _ _).sendSlotWrite _ _ _ _ _).jobLeaves _ _
  · exact h

theorem State.Acts.deadlineJob (h : a.Acts fill win s) (j : BlendJob) : a.Acts fill win (s.deadlineJob j) := by
  refine State.Acts.jobCancelled (h.claim ?_) _ _ _ _
  split
  · exact (Pool.Claims.refl _).cancelJob j
  · exact .refl _

theorem State.Acts.readerRelease (h : a.Acts fill win s) (g k : Nat) (v : Word) : a.Acts fill win (s.readerRelease g k v) := by
  unfold State.readerRelease
  split
  · split
    · exact (h.modifyRing _ _).releaseSlot _ _
    · exact h.countReaderFault
  · exact h

theorem State.Acts.subWordRelease (h : a.Acts fill win s) (g : Nat) : a.Acts fill win (s.subWordRelease g) := by
  unfold State.subWordRelease
  split
  · exact h.countReaderFault
  · exact h

theorem State.Acts.mapFault (h : a.Acts fill win s) (g k c : Nat) : a.Acts fill win (s.mapFault g k c) := by
  unfold State.mapFault
  split
  · exact h
  · exact (h.post _ _ _).modifyRing _ _

/-! ### The Slot Resolver: resolution -/

theorem Context.Rising.passed {x : Context} (h : x.Rising) (n : Nat) : (x.passed n).Rising := by
  intro r
  cases r with
  | rig1 => exact (h .rig1).filter _
  | rig2 => exact (h .rig2).filter _

theorem Context.Rising.served {x : Context} (h : x.Rising) (gr : GroupRecord) (n : Nat) (e : Entry) :
    (x.served gr n e).Rising := h.passed n

/-- A blend is chosen only where the queue and the Blend Reserve have room (R91). -/
theorem room_of_chooseSource_blend {x : Context} {gr : GroupRecord} {tv : RigVerdict} {av : AgreementVerdict} {n : Nat}
    {et eo : Option Entry} {room : Bool} {t o : Entry} (h : chooseSource x gr tv av n et eo room = .blend t o) :
    room = true := by
  have hfill : ∀ u, fillChoice x gr u ≠ .blend t o := by
    intro u
    unfold fillChoice
    repeat' split
    all_goals simp
  unfold chooseSource at h
  split at h
  · split at h
    · exact absurd h (hfill _)
    · simp at h
  · split at h
    next hroom => simp_all
    · simp at h
  · simp at h
  · split at h
    · simp at h
    · exact absurd h (hfill _)

theorem State.Acts.beginBlend (h : a.Acts fill win s) (hf : fill = true) (hroom : s.blend.length < 48) (g n k : Nat)
    (t o : Entry) : a.Acts fill win (s.beginBlend g n k t o) := by
  unfold State.beginBlend
  dsimp only
  split
  · exact h
  · rename_i out p hp
    have hp' : s.pool.blendAllocate.2 = p := by rw [hp]
    have hbucket : a.Acts fill win (s.claim (fun _ => p)) := hp' ▸ h.blendBucket hf
    have hclaims : a.Acts fill win (s.claim (fun _ => ((p.pin t.bucket).pin o.bucket).servedClaims (s.context k) (s.group g) t)) :=
      hbucket.claim (f := fun q => ((q.pin t.bucket).pin o.bucket).servedClaims (s.context k) (s.group g) t)
        ((((Pool.Claims.refl _).pin _).pin _).servedClaims _ _ _)
    refine State.Acts.modifyContext (State.Acts.modifySlot (hclaims.tail (State.Act.job _ _ hroom rfl rfl)) _ _ _) ?_
    exact fun hx => hx.served _ _ _

theorem State.Acts.serveEntry (h : a.Acts fill win s) (g n k : Nat) (r : Role) (e : Entry) (u : Option Entry) :
    a.Acts fill win (s.serveEntry g n k r e u) :=
  ((h.claim ((((Pool.Claims.refl _).pin _).freeOpt _).servedClaims _ _ _)).modifySlot _ _ _).modifyContext
    (fun hx => hx.served _ _ _)

theorem State.Acts.resolveChannel (h : a.Acts fill win s) (hf : fill = true) (g n k : Nat) :
    a.Acts fill win (s.resolveChannel g n k) := by
  unfold State.resolveChannel
  cases hchoice : s.choice g n k with
  | idle => exact h
  | blend t o =>
    have hroom := room_of_chooseSource_blend hchoice
    simp only [State.blendRoom, Bool.and_eq_true, decide_eq_true_eq] at hroom
    exact h.beginBlend hf hroom.1 g n k t o
  | target t u => exact h.serveEntry _ _ _ _ _ _
  | other o => exact (h.serveEntry _ _ _ _ _ _).modifySlot _ _ _
  | repeatFill b u =>
    exact ((h.claim (((Pool.Claims.refl _).pin _).freeOpt _)).modifySlot _ _ _).modifyContext (fun hx => hx.passed n)
  | silence u => exact ((h.claim ((Pool.Claims.refl _).freeOpt _)).modifySlot _ _ _).modifyContext (fun hx => hx.passed n)

theorem State.Acts.clearRing (h : a.Acts fill win s) (g n : Nat) : a.Acts fill win (s.clearRing g n) := by
  refine State.Acts.foldl (fun i h => ?_) _ h
  unfold State.releaseOverdue
  split
  · exact h.partRelease _ _
  · exact h

theorem State.Acts.resolveGroup (h : a.Acts fill win s) (hf : fill = true) (g n : Nat) : a.Acts fill win (s.resolveGroup g n) := by
  refine State.Acts.sendSlotWrite (State.Acts.foldl (fun k h => ?_) _ ((h.clearRing g n).modifySlot _ _ _)) _ _ _ _ _
  exact h.resolveChannel hf g n k

theorem State.Acts.sampleLead (h : a.Acts fill win s) (g : Nat) (r : Rig) (l : Option Nat) : a.Acts fill win (s.sampleLead g r l) := by
  cases l with
  | none => exact h
  | some l => exact h.sample _ _ _

theorem State.Acts.sampleMissIf (h : a.Acts fill win s) (g : Nat) (r : Role) (m : Bool) : a.Acts fill win (s.sampleMissIf g r m) := by
  unfold State.sampleMissIf
  split
  · exact h.sampleMiss _ _
  · exact h

theorem State.Acts.sendSamples (h : a.Acts fill win s) (before : State) (g n : Nat) : a.Acts fill win (s.sendSamples before g n) :=
  ((((h.sampleComparisons _ _ _).sampleLead _ _ _).sampleLead _ _ _).sampleMissIf _ _ _).sampleMissIf _ _ _

theorem State.Acts.reportFadeEnd (h : a.Acts fill win s) (before : State) (g n : Nat) : a.Acts fill win (s.reportFadeEnd before g n) := by
  unfold State.reportFadeEnd
  split
  · exact h.fadeEndReport _ _
  · exact h

theorem State.Acts.resolve (h : a.Acts fill win s) (hf : fill = true) : a.Acts fill win s.resolve :=
  State.Acts.foldl (fun _ h => h.reportFadeEnd _ _ _) _ (State.Acts.foldl (fun _ h => h.sendSamples _ _ _) _
    ((State.Acts.foldl (fun _ h => h.resolveGroup hf _ _) s.definedGroups h).setFront _))

theorem State.Acts.resolveMany (hf : fill = true) : ∀ (n : Nat) {s : State}, a.Acts fill win s → a.Acts fill win (s.resolveMany n)
  | 0, _, h => h
  | n + 1, _, h => State.Acts.resolveMany hf n (h.resolve hf)

theorem State.Acts.beginWindows (h : a.Acts fill win s) (hw : win = true) : a.Acts fill win s.beginWindows :=
  State.Acts.foldl (fun _ h => h.setHealth hw _ _) _ h

/-! ### The Capture Units -/

theorem State.Acts.reportExhausted (h : a.Acts fill win s) (r : Rig) (g c l : Nat) : a.Acts fill win (s.reportExhausted r g c l) := by
  unfold State.reportExhausted
  split
  · exact h
  · exact (h.post _ _ _).claim ((Pool.Claims.refl _).setExhausted _ _)

theorem State.Acts.laneAllocate (h : a.Acts fill win s) (hf : fill = true) (r : Rig) (g c l : Nat) :
    a.Acts fill win (s.laneAllocate r g c l).2 := by
  unfold State.laneAllocate
  split
  · exact h.reportExhausted _ _ _ _
  · rename_i b ch p hp
    have hp' : (s.pool.laneAllocate r (s.isTarget r g)).2 = p := by rw [hp]
    have hbucket : a.Acts fill win (s.claim (fun _ => p)) := hp' ▸ h.laneBucket hf r (s.isTarget r g)
    have hset : a.Acts fill win (s.claim (fun _ => p.setExhausted r false)) :=
      hbucket.claim (f := fun q => q.setExhausted r false) ((Pool.Claims.refl _).setExhausted _ _)
    unfold State.sampleDraw
    dsimp only
    split
    · exact hset.sample _ _ _
    · exact hset

/-- A change of a lane leaves the lists as they are. -/
theorem State.Acts.setLane (h : a.Acts fill win s) (k : Nat) (r : Rig) (l : Nat) (v : Lane) : a.Acts fill win (s.setLane k r l v) :=
  h.modifyContext (fun hx => hx)

theorem State.Acts.openIfIdle (h : a.Acts fill win s) (hf : fill = true) (k : Nat) (r : Rig) (l : Nat) :
    a.Acts fill win (s.openIfIdle k r l) := by
  unfold State.openIfIdle State.openLane
  split
  · exact ((h.laneAllocate hf _ _ _ _).setLane _ _ _ _).refresh _
  · exact h

theorem State.Acts.fillPayload (h : a.Acts fill win s) (k : Nat) (r : Rig) (l w : Nat) (v : Word) (en : Enables) :
    a.Acts fill win (s.fillPayload k r l w v en) := by
  unfold State.fillPayload
  dsimp only
  split
  · split
    · exact (h.storePayload _ _).setLane _ _ _ _
    · exact h.setLane _ _ _ _
  · exact h

theorem State.Acts.fillHeader (h : a.Acts fill win s) (k : Nat) (r : Rig) (l w : Nat) (v : Word) (en : Enables) :
    a.Acts fill win (s.fillHeader k r l w v en) := by
  unfold State.fillHeader
  dsimp only
  split
  · split
    · exact h.setLane _ _ _ _
    · exact h.setLane _ _ _ _
  · exact h

theorem Context.Rising.setList {x : Context} (h : x.Rising) (r : Rig) {es : List Entry}
    (hes : es.Pairwise (fun e f => e.block < f.block)) : (x.setList r es).Rising := by
  intro q
  show ((x.lists.set r es).get q).Pairwise _
  rw [PerRig.get_set]
  split
  · exact hes
  · exact h q

/-- An Accepted block is of a number its list does not hold (R42). -/
theorem State.Acts.settleBlock (h : a.Acts fill win s) (k : Nat) (r : Rig) (ln : Lane) (o : LaneOutcome)
    (hnew : o = .accepted → findEntry ln.entry.block ((s.context k).lists.get r) = none) :
    a.Acts fill win (s.settleBlock k r ln o) := by
  have hfree : a.Acts fill win (s.claim (fun p => p.freeOpt ln.bucket)) := h.claim ((Pool.Claims.refl _).freeOpt _)
  cases o with
  | accepted =>
    refine ((h.claim ((Pool.Claims.refl _).retain _)).modifyContext (fun hx => ?_)).refresh _
    exact hx.setList r (insertEntry_rising (hx r) ((findEntry_none_iff _ _).1 (hnew rfl)))
  | replaced =>
    refine ((h.claim (((Pool.Claims.refl _).retain _).freeOpt _)).modifyContext (fun hx => ?_)).refresh _
    exact hx.setList r (replaceEntry_rising (hx r))
  | abandoned => exact hfree
  | starved => exact hfree
  | spoiled => exact hfree
  | incomplete => exact hfree
  | malformed => exact hfree
  | crcMismatch => exact hfree
  | late => exact hfree
  | tooEarly => exact hfree
  | stale => exact hfree
  | stray => exact hfree

/-- The lifetime counters are no part of the lists. -/
theorem Context.lists_count (x : Context) (r : Rig) (o : LaneOutcome) : (x.count r o).lists = x.lists := by
  unfold Context.count
  repeat' split
  all_goals rfl

theorem Context.Rising.count {x : Context} (h : x.Rising) (r : Rig) (o : LaneOutcome) : (x.count r o).Rising := by
  unfold Context.Rising
  rw [x.lists_count]
  exact h

theorem State.Acts.reportOutcome (h : a.Acts fill win s) (k : Nat) (r : Rig) (o : LaneOutcome) : a.Acts fill win (s.reportOutcome k r o) :=
  (h.sample _ _ _).modifyContext (fun hx => hx.count r o)

theorem State.Acts.closeLane (h : a.Acts fill win s) (k : Nat) (r : Rig) (l : Nat) (o : LaneOutcome)
    (hnew : o = .accepted → findEntry (s.lane k r l).entry.block ((s.context k).lists.get r) = none) :
    a.Acts fill win (s.closeLane k r l o) := by
  refine State.Acts.reportOutcome (State.Acts.settleBlock (h.setLane k r l _) k r _ o (fun ho => ?_)) k r o
  rw [State.setLane, State.context_modifyContext, if_pos rfl]
  exact hnew ho

theorem findEntry_none_of_accepted {ln : Lane} {c front limit : Nat} {es : List Entry} {v : Word} {en : Enables}
    (h : ln.commitOutcome c front limit es v en = .accepted) : findEntry ln.blockNumber es = none := by
  unfold Lane.commitOutcome at h
  repeat' split at h
  all_goals simp_all

theorem State.Acts.commitLane (h : a.Acts fill win s) (k : Nat) (r : Rig) (l : Nat) (v : Word) (en : Enables) :
    a.Acts fill win (s.commitLane k r l v en) := by
  unfold State.commitLane
  split
  · exact h.reportOutcome _ _ _
  · exact h.closeLane k r l _ findEntry_none_of_accepted

theorem State.Acts.laneStale (h : a.Acts fill win s) (c : Nat) (r : Rig) (l : Nat) : a.Acts fill win (s.laneStale c r l) := by
  unfold State.laneStale
  split
  · exact h
  · split
    · exact h.closeLane _ _ _ .stale (fun ho => nomatch ho)
    · exact h

theorem State.Acts.streamingExpiry (h : a.Acts fill win s) (c : Nat) : a.Acts fill win (s.streamingExpiry c) := by
  unfold State.streamingExpiry
  split
  · exact h
  · split
    · exact (h.claim ((Pool.Claims.refl _).unpinOpt _)).modifyContext (fun hx => hx)
    · exact h

/-- A lane write that is handled is made of single updates (R37 to R46). -/
theorem State.Acts.handleLaneWrite (h : a.Acts fill win s) (hf : fill = true) (k : Nat) (r : Rig) (w : RigWrite) :
    a.Acts fill win (s.handleLaneWrite k r w) := by
  unfold State.handleLaneWrite
  split
  · exact (h.openIfIdle hf _ _ _).fillPayload _ _ _ _ _ _
  · exact (h.openIfIdle hf _ _ _).fillHeader _ _ _ _ _ _
  · exact h.commitLane _ _ _ _ _
  · exact h
  · exact h

end

end Sys2Proof.Machine
end

section
/-! # What a command of the command ring makes of the state (R171)

A row of the command ring acts on the entry in hand alone. It refuses or answers the entry, after acts of the blocks or none,
or it makes one of the changes that only this row makes: `State.CommandAct` lists them with the conditions they are made
under, and `exec_command` says that every such row does one of them or nothing. -/

namespace Sys2Proof.Machine

/-- What the row `c` of the command ring makes of a state whose entry it executes. -/
inductive State.CommandAct : Instr → State → State → Prop
  /-- the entry is answered behind acts of the blocks -/
  | acts {c : Instr} {s t : State} (h : s.Acts false true t) (hm : t.mem = s.mem) (r : ResultCode) (d : List Word) :
      State.CommandAct c s (t.answerCommand r d)
  /-- the entry waits for a directory read -/
  | await {c : Instr} {s : State} (w : DirectoryWait) : State.CommandAct c s (s.awaitDirectory w)
  | configure {s : State} (hp : s.part.state = .standby) (b : BridgeSettings) (d : List Word) :
      State.CommandAct .configureBridge s ((s.configure b).answerCommand .done d)
  | undefine {s : State} (hp : s.part.state = .standby) (ch : Nat) :
      State.CommandAct .undefineChannel s ((s.writeDirEntry ch DirEntry.undefined).answerCommand .done [])
  | arm {s : State} (hp : s.part.state = .standby) (b : Nat) (d : List Word) :
      State.CommandAct .armShow s ((s.arm b).answerCommand .done d)
  | teardown {s : State} (hp : s.capturing = true) : State.CommandAct .endShow s s.beginTeardown
  | lock {c : Instr} {s : State} (v : Bool) : State.CommandAct c s (s.setLocked v)

/-- The rows of the command ring. -/
def ringRow : Instr → Bool
  | .unknownCommand => true
  | .configureBridge => true
  | .defineGroup => true
  | .setThresholds => true
  | .defineChannel => true
  | .undefineChannel => true
  | .readContext => true
  | .armShow => true
  | .endShow => true
  | .switch => true
  | .hold => true
  | .releaseHold => true
  | .queryCoverage => true
  | .lock => true
  | .unlock => true
  | _ => false

section
variable {c : Instr} {s t : State}

/-- The entry is answered and nothing else is done. -/
theorem State.CommandAct.answer (s : State) (r : ResultCode) (d : List Word) : State.CommandAct c s (s.answerCommand r d) :=
  .acts (.refl s) rfl r d

theorem State.CommandAct.refuse (s : State) (r : ResultCode) : State.CommandAct c s (s.refuse r) := .answer s r []

/-- Acts that keep the backdrop of a period event, then the answer. -/
theorem State.CommandAct.still (h : s.Acts false true t) (hs : t.still = s.still) (r : ResultCode) (d : List Word) :
    State.CommandAct c s (t.answerCommand r d) := .acts h (congrArg (fun x => x.1.mem) hs) r d

theorem State.commandAct_configureBridge (s : State) : s.CommandAct .configureBridge s.configureBridge := by
  unfold State.configureBridge
  dsimp only
  split
  · exact .refuse s _
  · split
    · exact .refuse s _
    next hp =>
      split
      · exact .refuse s _
      · exact .configure (Decidable.not_not.1 hp) _ _

theorem State.commandAct_defineGroup (s : State) : s.CommandAct .defineGroup s.defineGroupCommand := by
  unfold State.defineGroupCommand
  split
  · exact .refuse s _
  · split
    · exact .refuse s _
    · split
      · exact .refuse s _
      · split
        · exact .refuse s _
        · refine .still ?_ (by simp [State.defineGroup]) _ _
          exact ((((State.Acts.refl s).modifyGroup _ _).setHealth rfl _ _).modifyRing _ _).evaluate _ |>.setTallies

theorem State.commandAct_setThresholds (s : State) : s.CommandAct .setThresholds s.setThresholds := by
  unfold State.setThresholds
  dsimp only
  split
  · exact .refuse s _
  · split
    · exact .refuse s _
    · split
      · exact .refuse s _
      · exact .still (State.Acts.foldl (fun _ h => h.setHealth rfl _ _) _ (.refl s))
          (foldl_keeps State.still _ (fun t g => t.still_modifyHealth g _) _ s) _ _

theorem State.commandAct_defineChannel (s : State) : s.CommandAct .defineChannel s.defineChannel := by
  unfold State.defineChannel
  split
  · exact .refuse s _
  · split
    · exact .refuse s _
    · split
      · exact .refuse s _
      · split
        · exact .refuse s _
        · exact .await _

theorem State.commandAct_undefineChannel (s : State) : s.CommandAct .undefineChannel s.undefineChannel := by
  unfold State.undefineChannel
  split
  · exact .refuse s _
  · split
    · exact .refuse s _
    next hp =>
      split
      · exact .refuse s _
      · exact .undefine (Decidable.not_not.1 hp) _

theorem State.commandAct_readContext (s : State) : s.CommandAct .readContext s.readContext := by
  unfold State.readContext
  split
  · exact .refuse s _
  · split
    · exact .answer s _ _
    · exact .await _

theorem State.commandAct_armShow (s : State) : s.CommandAct .armShow s.armShow := by
  unfold State.armShow
  split
  · exact .refuse s _
  · split
    · exact .refuse s _
    next hp =>
      split
      · exact .refuse s _
      · split
        · exact .refuse s _
        · exact .arm (Decidable.not_not.1 hp) _ _

theorem State.commandAct_endShow (s : State) : s.CommandAct .endShow s.endShow := by
  unfold State.endShow
  split
  · exact .refuse s _
  · split
    · exact .refuse s _
    next hp =>
      refine .teardown ?_
      simp only [State.capturing, Bool.or_eq_true, beq_iff_eq]
      exact Decidable.byContradiction fun hn => hp ⟨fun h => hn (.inl h), fun h => hn (.inr h)⟩

/-! ### The backdrop under cuts -/

@[simp] theorem State.still_cutMember (s : State) (r : Role) (k : SwitchCause) (g : Nat) :
    (s.cutMember r k g).still = s.still := by
  unfold State.cutMember State.cutShort
  repeat' split
  all_goals simp

@[simp] theorem State.still_cutSet (s : State) (r : Role) (k : SwitchCause) (g : Nat) : (s.cutSet r k g).still = s.still := by
  have hcut : ∀ ms : List Nat, (ms.foldl (fun t m => t.cutMember r k m) s).still = s.still :=
    fun ms => foldl_keeps State.still _ (fun t m => t.still_cutMember r k m) ms s
  unfold State.cutSet
  dsimp only
  repeat' split
  all_goals simp [hcut]

@[simp] theorem State.still_fadeSet (s : State) (r : Role) (g : Nat) : (s.fadeSet r g).still = s.still := by
  unfold State.fadeSet
  split <;> simp

@[simp] theorem State.still_takeoverSet (s : State) (g : Nat) : (s.takeoverSet g).still = s.still := by
  unfold State.takeoverSet
  split <;> simp

@[simp] theorem State.still_commandSwitchSet (s : State) (r : Role) (cut : Bool) (g : Nat) :
    (State.commandSwitchSet r cut s g).still = s.still := by
  unfold State.commandSwitchSet
  split <;> simp

/-- Hold of any number of groups. -/
theorem State.Acts.setHolds {a : State} (h : a.Acts false true s) (v : Bool) (ms : List Nat) : a.Acts false true (ms.foldl (State.setHold v) s) :=
  State.Acts.foldl (fun _ h => h.modifyGroup _ _) ms h

@[simp] theorem State.still_setHolds (s : State) (v : Bool) (ms : List Nat) :
    (ms.foldl (State.setHold v) s).still = s.still :=
  foldl_keeps State.still _ (fun t m => t.still_modifyGroup m _) ms s

theorem State.commandAct_switch (s : State) : s.CommandAct .switch s.switchCommand := by
  unfold State.switchCommand
  split
  · exact .refuse s _
  · split
    · exact .refuse s _
    · split
      · exact .refuse s _
      · exact .still (State.Acts.foldl (fun g h => h.commandSwitchSet _ _ g) _ (.refl s))
          (foldl_keeps State.still _ (fun t g => t.still_commandSwitchSet _ _ g) _ s) _ _

theorem State.commandAct_hold (s : State) : s.CommandAct .hold s.holdCommand := by
  unfold State.holdCommand
  split
  · exact .refuse s _
  · exact .still ((State.Acts.refl s).setHolds _ _) (s.still_setHolds _ _) _ _

theorem State.commandAct_releaseHold (s : State) : s.CommandAct .releaseHold s.releaseHoldCommand := by
  unfold State.releaseHoldCommand
  split
  · exact .refuse s _
  · exact .still (State.Acts.foldl (fun g h => h.evaluate g) _ ((State.Acts.refl s).setHolds _ _))
      ((foldl_keeps State.still _ (fun t g => t.still_evaluate g) _ _).trans (s.still_setHolds _ _)) _ _

theorem State.commandAct_queryCoverage (s : State) : s.CommandAct .queryCoverage s.queryCoverage := by
  unfold State.queryCoverage State.queryGroup State.queryChannel
  split
  · exact .refuse s _
  · split
    · split
      · exact .answer s _ _
      · exact .refuse s _
    · split
      · exact .refuse s _
      · split
        · exact .answer s _ _
        · exact .answer s _ _

/-- A row of the command ring changes nothing, or it makes one of its changes on an entry in hand that no directory read and
no teardown holds. -/
theorem exec_command (hc : ringRow c = true) (s : State) :
    exec c s = .next s ∨ s.executing = true ∧ ∃ t, exec c s = .next t ∧ s.CommandAct c t := by
  have hhand : ∀ {k : Nat} {f : State → State}, exec c s = .next (if s.hand k then f s else s) → s.CommandAct c (f s) →
      exec c s = .next s ∨ s.executing = true ∧ ∃ t, exec c s = .next t ∧ s.CommandAct c t := by
    intro k f he hact
    rw [he]
    split
    next hk =>
      simp only [State.hand, Bool.and_eq_true] at hk
      exact .inr ⟨hk.1, _, rfl, hact⟩
    · exact .inl rfl
  cases c with
  | unknownCommand =>
    show execUnknownCommand s = .next s ∨ _ ∧ ∃ t, execUnknownCommand s = .next t ∧ _
    unfold execUnknownCommand
    split
    next hk =>
      simp only [Bool.and_eq_true] at hk
      exact .inr ⟨hk.1, _, rfl, .refuse s _⟩
    · exact .inl rfl
  | configureBridge => exact hhand rfl s.commandAct_configureBridge
  | defineGroup => exact hhand rfl s.commandAct_defineGroup
  | setThresholds => exact hhand rfl s.commandAct_setThresholds
  | defineChannel => exact hhand rfl s.commandAct_defineChannel
  | undefineChannel => exact hhand rfl s.commandAct_undefineChannel
  | readContext => exact hhand rfl s.commandAct_readContext
  | armShow => exact hhand rfl s.commandAct_armShow
  | endShow => exact hhand rfl s.commandAct_endShow
  | switch => exact hhand rfl s.commandAct_switch
  | hold => exact hhand rfl s.commandAct_hold
  | releaseHold => exact hhand rfl s.commandAct_releaseHold
  | queryCoverage => exact hhand rfl s.commandAct_queryCoverage
  | lock => exact hhand (f := fun s => s.setLocked true) rfl (.lock true)
  | unlock => exact hhand (f := fun s => s.setLocked false) rfl (.lock false)
  | _ => cases hc

end

end Sys2Proof.Machine
end

section
/-! # What the rows leave as it was

`State.ground` names the parts of the state that few rows change: the queue, the Clock Monitor, the show state, the timer, the
straps, and the reads answered. One lemma per shared operation says that the operation keeps them; `exec_framed` then says of
every row which of them it may change, and which rows may write DRAM. -/

namespace Sys2Proof.Machine

/-- The parts of the state that few rows change. -/
structure Ground where
  pending : List Instr
  timer : LocalTimer
  clock : Clock
  part : Part
  sizeB : Bool
  sizeA : Bool
  resetLow : Bool
  answers : List ReadAnswer
  burst : Option ReadBurst
  rigAnswers : PerRig (List ReadAnswer)

def State.ground (s : State) : Ground :=
  { pending := s.pending, timer := s.timer, clock := s.clock, part := s.part, sizeB := s.lines.sizeB,
    sizeA := s.lines.sizeA, resetLow := s.lines.resetLow, answers := s.answers, burst := s.burst,
    rigAnswers := s.rigAnswers }

/-- The ground without the answers of the rig ports. -/
def Ground.mute (g : Ground) : Ground := { g with rigAnswers := ⟨[], []⟩ }

/-- Each port of `t` gave the answers it gave in `s`, and then perhaps more. -/
def State.AnswersMore (s t : State) : Prop := ∀ r, s.rigAnswers.get r <+: t.rigAnswers.get r

theorem isPrefix_of_eq {α : Type} {l k : List α} (h : k = l) : l <+: k := h ▸ List.prefix_refl l

section
variable {fill win : Bool} {a s t : State}

/-- The acts of the blocks keep the ground. -/
theorem State.Acts.ground (h : a.Acts fill win s) : s.ground = a.ground := h.keeps (fun ht => by cases ht <;> rfl)

theorem State.AnswersMore.refl (s : State) : s.AnswersMore s := fun r => List.prefix_refl (s.rigAnswers.get r)

theorem State.AnswersMore.trans {u : State} (h : s.AnswersMore t) (h' : t.AnswersMore u) : s.AnswersMore u :=
  fun r => (h r).trans (h' r)

theorem State.AnswersMore.of_eq (h : t.rigAnswers = s.rigAnswers) : s.AnswersMore t :=
  fun r => isPrefix_of_eq (congrArg (PerRig.get · r) h)

theorem State.AnswersMore.answerRig (s : State) (r : Rig) (x n : Nat) : s.AnswersMore (s.answerRig r x n) := by
  intro q
  rw [State.answerRig_rigAnswers, PerRig.get_set]
  split
  next hq => exact hq ▸ List.prefix_append _ _
  · exact List.prefix_refl _

end

/-! ### Rig ports and loads -/

section
variable (s : State)

theorem State.ground_handleLaneWrite (k : Nat) (r : Rig) (w : RigWrite) : (s.handleLaneWrite k r w).ground = s.ground :=
  ((State.Acts.refl (fill := true) (win := true) s).handleLaneWrite rfl k r w).ground

/-- What a port makes of its requests: the answers to its reads, and nothing else of the ground. -/
theorem State.mute_serve (r : Rig) : ∀ (qs : List RigRequest) (s : State), (s.serve r qs).ground.mute = s.ground.mute
  | [], _ => rfl
  | .read x n :: qs, s => State.mute_serve r qs (s.answerRig r x n)
  | .write w :: qs, s => by
    unfold State.serve
    split
    · exact State.mute_serve r qs s
    · split
      · rw [State.mute_serve r qs, State.ground_handleLaneWrite]
      · rfl

theorem State.AnswersMore.serve (r : Rig) : ∀ (qs : List RigRequest) (s : State), s.AnswersMore (s.serve r qs)
  | [], s => .refl s
  | .read x n :: qs, s => (State.AnswersMore.answerRig s r x n).trans (State.AnswersMore.serve r qs _)
  | .write w :: qs, s => by
    unfold State.serve
    split
    · exact State.AnswersMore.serve r qs s
    · split
      · rename_i k _
        have hk : (s.handleLaneWrite k r w).rigAnswers = s.rigAnswers :=
          congrArg Ground.rigAnswers (s.ground_handleLaneWrite k r w)
        exact (State.AnswersMore.of_eq hk).trans (State.AnswersMore.serve r qs _)
      · exact .refl s

/-- A write word alone is answered by no read. -/
theorem State.ground_rigWrite (r : Rig) (w : RigWrite) : (s.rigWrite r w).ground = s.ground := by
  unfold State.rigWrite State.rigRequest
  split
  · split
    · unfold State.serve
      split
      · rfl
      · split
        · exact s.ground_handleLaneWrite _ _ _
        · rfl
    · rfl
  · rfl

theorem State.mute_rigRequest (r : Rig) (q : RigRequest) : (s.rigRequest r q).ground.mute = s.ground.mute := by
  unfold State.rigRequest
  split
  · exact State.mute_serve r _ s
  · rfl

theorem State.AnswersMore.rigRequest (r : Rig) (q : RigRequest) : s.AnswersMore (s.rigRequest r q) := by
  unfold State.rigRequest
  split
  · exact State.AnswersMore.serve r _ s
  · exact .refl s

theorem State.mute_resumePort (q : LoadRequest) (r : Rig) : (s.resumePort q r).ground.mute = s.ground.mute := by
  unfold State.resumePort
  split
  · exact State.mute_serve r _ s
  · rfl

theorem State.AnswersMore.resumePort (q : LoadRequest) (r : Rig) : s.AnswersMore (s.resumePort q r) := by
  unfold State.resumePort
  split
  · exact State.AnswersMore.serve r _ s
  · exact .refl s

theorem State.mute_resumePorts (q : LoadRequest) : (s.resumePorts q).ground.mute = s.ground.mute :=
  (State.mute_resumePort _ q .rig2).trans (s.mute_resumePort q .rig1)

theorem State.AnswersMore.resumePorts (q : LoadRequest) : s.AnswersMore (s.resumePorts q) :=
  (State.AnswersMore.resumePort s q .rig1).trans (State.AnswersMore.resumePort _ q .rig2)

theorem State.ground_countStray (r : Rig) : (s.countStray r).ground = s.ground := by
  unfold State.countStray
  repeat' split
  all_goals rfl

theorem State.ground_dropHeld (q : LoadRequest) (u : Bool) (r : Rig) : (s.dropHeld q u r).ground = s.ground := by
  unfold State.dropHeld
  split
  · dsimp only
    split
    · exact s.ground_countStray r
    · rfl
  · rfl

theorem State.ground_takeSends : ∀ (sends : List CacheSend) (s : State), (s.takeSends sends).ground = s.ground
  | [], _ => rfl
  | .cached _ _ :: rest, _ => State.ground_takeSends rest _
  | .read _ :: rest, s => State.ground_takeSends rest s
  | .writeback _ :: _, _ => rfl

/-- What is left of a load that ends: the ground but for the answers of reads that waited behind it, and those at its end. -/
structure State.LoadEnds (s t : State) : Prop where
  mute : t.ground.mute = s.ground.mute
  more : s.AnswersMore t

end

section
variable {s t u : State}

theorem State.LoadEnds.refl (s : State) : s.LoadEnds s := ⟨rfl, .refl s⟩

theorem State.LoadEnds.trans (h : s.LoadEnds t) (h' : t.LoadEnds u) : s.LoadEnds u :=
  ⟨h'.mute.trans h.mute, h.more.trans h'.more⟩

theorem State.LoadEnds.of_ground (h : t.ground = s.ground) : s.LoadEnds t :=
  ⟨congrArg Ground.mute h, .of_eq (congrArg Ground.rigAnswers h)⟩

/-- A load that ends behind an update that keeps the ground. -/
theorem State.LoadEnds.behind (h' : t.LoadEnds u) (h : t.ground = s.ground) : s.LoadEnds u := (State.LoadEnds.of_ground h).trans h'

theorem State.LoadEnds.resumePorts (s : State) (q : LoadRequest) : s.LoadEnds (s.resumePorts q) :=
  ⟨s.mute_resumePorts q, .resumePorts s q⟩

theorem State.LoadEnds.abandonLoad (s : State) (q : LoadRequest) (v : Bool) : s.LoadEnds (s.abandonLoad q v) := by
  refine (State.LoadEnds.resumePorts _ q).behind ?_
  rw [State.ground_dropHeld, State.ground_dropHeld]
  rfl

theorem State.LoadEnds.completeLoad (s : State) (q : LoadRequest) (k : Nat) (d : DirEntry) :
    s.LoadEnds (s.completeLoad q k d) :=
  (State.LoadEnds.resumePorts _ q).behind (State.ground_takeSends _ _)

theorem State.ground_reportContextExhausted (s : State) (q : LoadRequest) (d : DirEntry) :
    (s.reportContextExhausted q d).ground = s.ground := by
  unfold State.reportContextExhausted
  split <;> rfl

theorem State.LoadEnds.loadReadDone (s : State) (q : LoadRequest) (error : Bool) : s.LoadEnds (s.loadReadDone q error) := by
  unfold State.loadReadDone State.stage2
  split
  · exact (State.LoadEnds.abandonLoad _ q false).behind rfl
  · split
    · split
      · exact (State.LoadEnds.completeLoad _ q _ _).behind rfl
      · split
        · exact .of_ground rfl
        · exact (State.LoadEnds.abandonLoad _ q false).behind (s.ground_reportContextExhausted q _)
    · exact .abandonLoad s q true

theorem State.LoadEnds.evictionEnds (s : State) (k : Nat) : s.LoadEnds (s.evictionEnds k) := by
  unfold State.evictionEnds
  dsimp only
  split
  · exact .of_ground (State.ground_takeSends _ _)
  · exact (State.LoadEnds.completeLoad _ _ _ _).behind rfl

end

/-! ### The teardown and the Blend Engine -/

section
variable (s : State)

theorem State.ground_invalidateContexts : s.invalidateContexts.ground = s.ground := by
  unfold State.invalidateContexts
  split <;> rfl

/-- DRAM, the pool, the cache and the Slot Resolver are no part of the ground. -/
theorem State.ground_with (p : Pool) (c : Cache) (r : Resolver) (m : Memory) :
    State.ground { s with pool := p, cache := c, resolver := r, mem := m } = s.ground := rfl

theorem State.ground_dropShow : s.dropShow.ground = s.ground := s.ground_with _ _ _ _

theorem State.ground_setTeardown (v : Option Teardown) : (s.setTeardown v).ground = s.ground := rfl

theorem State.ground_writeDirEntry (c : Nat) (d : DirEntry) : (s.writeDirEntry c d).ground = s.ground := by
  simp only [State.ground, State.writeDirEntry]

theorem State.ground_passThrough (x : Nat) (v : Word) (en : Enables) : (s.passThrough x v en).ground = s.ground := by
  simp only [State.ground, State.passThrough]

theorem State.ground_answerCommand (r : ResultCode) (d : List Word) : (s.answerCommand r d).ground = s.ground := rfl

theorem State.ground_advanceTeardown : s.advanceTeardown.ground = s.ground := by
  unfold State.advanceTeardown
  split
  · rfl
  · split
    · rw [State.ground_invalidateContexts, State.ground_setTeardown, State.ground_dropShow]
    · rfl
  · exact s.ground_invalidateContexts
  · rfl

theorem State.ground_flushHead (j : BlendJob) : (s.flushHead j).ground = s.ground :=
  (State.ground_advanceTeardown (s.dropHead.claim (fun p => p.flushJob j))).trans rfl

theorem State.ground_drainHead (j : BlendJob) : (s.drainHead j).ground = s.ground :=
  (State.ground_advanceTeardown (s.dropHead.claim (fun p => p.drainJob j))).trans rfl

theorem State.ground_jobCompleted (g n : Nat) : (s.jobCompleted g n).ground = s.ground :=
  ((State.Acts.refl (fill := false) (win := true) s).jobCompleted g n).ground

theorem State.ground_jobCancelled (g n c b : Nat) : (s.jobCancelled g n c b).ground = s.ground :=
  ((State.Acts.refl (fill := false) (win := true) s).jobCancelled g n c b).ground

theorem State.ground_completeHead (j : BlendJob) : (s.completeHead j).ground = s.ground := by
  unfold State.completeHead
  split
  · rw [State.ground_flushHead]
    rfl
  · rw [State.ground_jobCompleted]
    rfl

theorem State.ground_failJob (j : BlendJob) (i : BlendInput) : (s.failJob j i).ground = s.ground :=
  (State.ground_jobCancelled (s.dropHead.claim (fun p => p.cancelJob j)) j.group j.block j.channel j.new).trans rfl

theorem State.ground_readError (j : BlendJob) (i : BlendInput) : (s.readError j i).ground = s.ground := by
  unfold State.readError
  split
  · split
    · exact s.ground_flushHead j
    · exact s.ground_failJob j i
  · split
    · exact s.ground_drainHead j
    · rfl

theorem State.ground_blendDeadline : s.blendDeadline.ground = s.ground := by
  unfold State.blendDeadline
  split
  · exact (foldl_keeps State.ground _ (fun t j => ((State.Acts.refl (fill := false) (win := true) t).deadlineJob j).ground) _ _).trans rfl
  · rfl

theorem State.ground_endTeardown (ws : List (Nat × List Word)) : (s.endTeardown ws).ground = s.ground := by
  have hgroups : ∀ (gs : List Nat) (t : State), (gs.foldl State.endGroup t).ground = t.ground :=
    foldl_keeps State.ground _ (fun _ _ => rfl)
  exact (hgroups _ _).trans rfl

theorem State.mute_drainPort (r : Rig) : ∀ (qs : List RigRequest) (s : State), (s.drainPort r qs).ground.mute = s.ground.mute
  | [], _ => rfl
  | .read x n :: qs, s => State.mute_drainPort r qs (s.answerRig r x n)
  | .write _ :: qs, s => State.mute_drainPort r qs s

theorem State.AnswersMore.drainPort (r : Rig) : ∀ (qs : List RigRequest) (s : State), s.AnswersMore (s.drainPort r qs)
  | [], s => .refl s
  | .read x n :: qs, s => (State.AnswersMore.answerRig s r x n).trans (State.AnswersMore.drainPort r qs _)
  | .write _ :: qs, s => State.AnswersMore.drainPort r qs s

/-- The part as End Show takes it: STANDBY, with the start guard clear (R15 step 1). -/
def State.inStandby : State := { s with part := { s.part with state := .standby, startGuard := false } }

theorem State.ground_flushQueued : s.flushQueued.ground = s.ground := rfl

theorem State.mute_dropHeldWrites : s.dropHeldWrites.ground.mute = s.ground.mute :=
  (State.mute_drainPort .rig2 s.cache.ports.rig2 (s.drainPort .rig1 s.cache.ports.rig1)).trans
    (State.mute_drainPort .rig1 s.cache.ports.rig1 s)

theorem State.beginTeardown_eq :
    s.beginTeardown = (s.inStandby.dropHeldWrites.flushQueued.setTeardown (some .flushing)).advanceTeardown := by
  simp only [State.beginTeardown, State.inStandby]

/-- End Show makes the part STANDBY, answers the reads held behind writes, and keeps the rest of the ground (R15, R16). -/
theorem State.mute_beginTeardown : s.beginTeardown.ground.mute = s.inStandby.ground.mute := by
  rw [State.beginTeardown_eq, State.ground_advanceTeardown, State.ground_setTeardown, State.ground_flushQueued,
    State.mute_dropHeldWrites]

theorem State.rigAnswers_advanceTeardown : s.advanceTeardown.rigAnswers = s.rigAnswers :=
  congrArg Ground.rigAnswers s.ground_advanceTeardown

theorem State.AnswersMore.dropHeldWrites : s.AnswersMore s.dropHeldWrites :=
  (State.AnswersMore.drainPort .rig1 _ s).trans (State.AnswersMore.drainPort .rig2 _ _)

theorem State.AnswersMore.beginTeardown : s.AnswersMore s.beginTeardown := by
  rw [State.beginTeardown_eq]
  refine (State.AnswersMore.dropHeldWrites s.inStandby).trans (.of_eq ?_)
  rw [State.rigAnswers_advanceTeardown]
  exact congrArg Ground.rigAnswers (State.ground_flushQueued _)

/-! ### The Supervisor Interface and the Local Port -/

theorem State.ground_requestStatus : s.requestStatus.ground = s.ground := by
  unfold State.requestStatus
  repeat' split
  all_goals rfl

theorem State.ground_beginFollowUp : s.beginFollowUp.ground = s.ground := by
  unfold State.beginFollowUp
  repeat' split
  all_goals rfl

theorem State.ground_goEvent : s.goEvent.ground = s.ground := by
  unfold State.goEvent
  repeat' split
  all_goals rfl

theorem State.ground_deferredGo : s.deferredGo.ground = s.ground := by
  unfold State.deferredGo
  split <;> rfl

theorem State.ground_anchorRead (e : Bool) : (s.anchorRead e).ground = s.ground := by
  unfold State.anchorRead
  split
  · exact State.ground_beginFollowUp _
  · rfl

theorem State.ground_kick (k : Nat) : (s.kick k).ground = s.ground := by
  unfold State.kick
  repeat' split
  all_goals rfl

theorem State.ground_fetchDone (e : Bool) : (s.fetchDone e).ground = s.ground := by
  unfold State.fetchDone
  repeat' split
  all_goals rfl

theorem State.ground_postCommandDone : s.postCommandDone.ground = s.ground := by
  unfold State.postCommandDone
  dsimp only
  split <;> rfl

theorem State.ground_resultWritten : s.resultWritten.ground = s.ground := by
  show State.ground (State.requestStatus _) = _
  rw [State.ground_requestStatus, State.ground_postCommandDone]
  rfl

theorem State.ground_noticeReturn (k : Nat) : (s.noticeReturn k).ground = s.ground := by
  unfold State.noticeReturn
  repeat' split
  all_goals rfl

theorem State.ground_statusWritten (w : StatusWrite) : (s.statusWritten w).ground = s.ground := by
  unfold State.statusWritten
  dsimp only
  split
  · rfl
  · exact State.ground_beginFollowUp _

theorem State.ground_commandDirectoryRead (e : Bool) : (s.commandDirectoryRead e).ground = s.ground := by
  unfold State.commandDirectoryRead
  split
  · rfl
  · split
    · unfold State.finishDefineChannel
      rw [State.ground_answerCommand, State.ground_writeDirEntry]
    · rfl

theorem State.ground_localWrite (x : Nat) (v : Word) (en : Enables) : (s.localWrite x v en).ground = s.ground := by
  have hpass := s.ground_passThrough x v en
  unfold State.localWrite State.handGo State.handKick State.handReturn State.releaseWrite
  split
  · rfl
  · rfl
  · rfl
  · exact hpass
  · split
    · exact (State.ground_goEvent _).trans hpass
    · exact hpass
  · split
    · exact (State.ground_kick _ _).trans hpass
    · exact hpass
  · split
    · exact (State.ground_noticeReturn _ _).trans hpass
    · exact hpass
  · split
    · exact ((State.Acts.refl (fill := false) (win := true) _).readerRelease _ _ _).ground.trans hpass
    · exact ((State.Acts.refl (fill := false) (win := true) s).subWordRelease _).ground

end

/-! ### Reads of the Local Port -/

/-- The ground without the reads of the link ports. -/
def Ground.unread (g : Ground) : Ground := { g with answers := [], burst := none, rigAnswers := ⟨[], []⟩ }

/-- The ground after events of a link port: the reads go on, each answer behind those before it. -/
structure State.ReadsOn (s t : State) : Prop where
  unread : t.ground.unread = s.ground.unread
  answers : s.answers <+: t.answers
  rigAnswers : t.rigAnswers = s.rigAnswers

section
variable {s t u : State}

theorem State.ReadsOn.refl (s : State) : s.ReadsOn s := ⟨rfl, List.prefix_refl _, rfl⟩

theorem State.ReadsOn.trans (h : s.ReadsOn t) (h' : t.ReadsOn u) : s.ReadsOn u :=
  ⟨h'.unread.trans h.unread, h.answers.trans h'.answers, h'.rigAnswers.trans h.rigAnswers⟩

theorem State.ReadsOn.of_ground (h : t.ground = s.ground) : s.ReadsOn t :=
  ⟨congrArg Ground.unread h, isPrefix_of_eq (congrArg Ground.answers h),
    congrArg Ground.rigAnswers h⟩

theorem State.ReadsOn.setBurst (s : State) (b : Option ReadBurst) : s.ReadsOn { s with burst := b } :=
  ⟨rfl, List.prefix_refl _, rfl⟩

theorem State.ReadsOn.answerLocal (s : State) (d : List Word) (e : Bool) : s.ReadsOn (s.answerLocal d e) :=
  ⟨rfl, List.prefix_append _ _, rfl⟩

theorem State.ReadsOn.localRequest (s : State) (q : LocalRequest) : s.ReadsOn (s.localRequest q) := by
  unfold State.localRequest
  split
  · unfold State.takeRequest
    split
    · exact .of_ground (s.ground_localWrite _ _ _)
    · exact .answerLocal s _ _
    · exact .setBurst s _
  · exact .setBurst s _

theorem State.ReadsOn.foldl {β : Type} {f : State → β → State} (hf : ∀ t b, State.ReadsOn t (f t b)) :
    ∀ (l : List β) (s : State), s.ReadsOn (l.foldl f s)
  | [], s => .refl s
  | b :: l, s => (hf s b).trans (State.ReadsOn.foldl hf l _)

theorem State.ReadsOn.keepRead (s : State) (b : ReadBurst) : s.ReadsOn (s.keepRead b) := by
  unfold State.keepRead
  split
  · exact ((State.ReadsOn.setBurst s none).trans (.answerLocal _ _ _)).trans (.foldl .localRequest _ _)
  · exact .setBurst s _

end

section
variable (s : State)

theorem State.ground_readWordOf (b : ReadBurst) (st : ReadStatus) : (s.readWordOf b st).1.ground = s.ground := by
  have hearly : (s.readEarly b).1.ground = s.ground := by
    show State.ground (if b.early then s else s.countReaderEarly) = _
    split <;> rfl
  have htranslate : ∀ g k c o, (s.translate b g k c o st).1.ground = s.ground := by
    intro g k c o
    cases st with
    | firstError => exact ((State.Acts.refl (fill := false) (win := true) s).mapFault g k c).ground
    | ok => rfl
    | secondError => rfl
    | entryRead => rfl
  unfold State.readWordOf State.liveWord
  dsimp only
  repeat' split
  all_goals first
    | rfl
    | exact hearly
    | exact htranslate _ _ _ _

/-- DRAM and the counts of words taken are no part of the ground. -/
theorem State.ground_withStore (m : Memory) (x : Landed) : State.ground { s with mem := m, landed := x } = s.ground := rfl

theorem State.ground_tookTake (z d l : Nat) : (s.tookTake z d l).ground = s.ground := by
  unfold State.tookTake
  split
  · exact s.ground_withStore _ _
  · rfl

theorem State.ground_took (n : Nat) (w : Writer) : (s.took n w).ground = s.ground := by
  cases w with
  | status =>
    show (s.tookStatus n).ground = _
    unfold State.tookStatus
    split <;> rfl
  | teardown =>
    show (s.tookTeardown n).ground = _
    unfold State.tookTeardown
    split <;> rfl
  | notice => exact s.ground_withStore _ _
  | result => exact s.ground_withStore _ _
  | writeback => exact s.ground_withStore _ _
  | blend => exact s.ground_withStore _ _
  | slots => rfl
  | zeroBucket => exact s.ground_tookTake n 0 0
  | directory => exact s.ground_tookTake 0 n 0
  | liveDirectory => exact s.ground_tookTake 0 0 n

theorem State.ReadsOn.portEvent (e : PortEvent) : s.ReadsOn (s.portEvent e) := by
  cases e with
  | took w n => exact .of_ground (s.ground_took n w)
  | answer st =>
    show s.ReadsOn (match s.burst with
      | none => s
      | some b => (s.readWordOf b st).1.keepRead (s.readWordOf b st).2)
    split
    · exact .refl s
    · exact (State.ReadsOn.of_ground (s.ground_readWordOf _ st)).trans (.keepRead _ _)

theorem State.ReadsOn.portEvents (es : List PortEvent) : s.ReadsOn (s.portEvents es) :=
  State.ReadsOn.foldl (fun t e => State.ReadsOn.portEvent t e) es s

/-! ### The rows of chapter 1 -/

/-- What no row of the clock, of Show Sync or of the Takeover line changes. -/
def State.offClock (s : State) : Backdrop :=
  { s.scene with timer := State.reset.timer, clock := .initial, part := State.reset.part, freeCount := 0 }

theorem State.offClock_deliverBeat (n : Nat) (early : List PeriodWork) :
    (s.deliverBeat n early).offClock = s.offClock := by
  unfold State.deliverBeat
  split
  · split
    · rfl
    · simp only [State.offClock, State.scene_periodEvent]
      rfl
  · rfl

theorem State.offClock_windowClosed : s.windowClosed.offClock = s.offClock := by
  unfold State.windowClosed
  dsimp only
  repeat' split
  all_goals rfl

theorem State.part_windowClosed : s.windowClosed.part = s.part := by
  unfold State.windowClosed
  dsimp only
  repeat' split
  all_goals rfl

theorem State.offClock_acceptEdge : s.acceptEdge.offClock = s.offClock := by
  unfold State.acceptEdge
  dsimp only
  split <;> rfl

theorem State.offClock_synthesize (sb : Nat) (early : List PeriodWork) : (s.synthesize sb early).offClock = s.offClock :=
  (State.offClock_deliverBeat _ _ _).trans rfl

theorem State.offClock_closeOverdueWindow : s.closeOverdueWindow.offClock = s.offClock := by
  unfold State.closeOverdueWindow
  split
  · rfl
  · split
    · exact s.offClock_windowClosed
    · rfl

theorem State.offClock_flywheelEdge (early : List PeriodWork) : (s.flywheelEdge early).offClock = s.offClock := by
  unfold State.flywheelEdge State.edgeAtBeat
  split
  · exact s.offClock_acceptEdge
  · split
    · rfl
    · split
      · exact (State.offClock_deliverBeat _ _ _).trans s.offClock_acceptEdge
      · split
        · exact s.offClock_synthesize _ _
        · exact (State.offClock_acceptEdge _).trans (s.offClock_synthesize _ _)
  · rfl

theorem State.offClock_loseClock (early : List PeriodWork) : (s.loseClock early).offClock = s.offClock :=
  (State.offClock_deliverBeat _ _ _).trans rfl

theorem State.offClock_lockedEdge (early : List PeriodWork) : (s.lockedEdge early).offClock = s.offClock := by
  unfold State.lockedEdge
  split
  · rfl
  · split
    · exact (State.offClock_deliverBeat _ _ _).trans rfl
    · exact (State.offClock_flywheelEdge _ _).trans (s.offClock_loseClock early)

theorem State.offClock_collectEdge : s.collectEdge.offClock = s.offClock := by
  unfold State.collectEdge State.collect
  dsimp only
  repeat' split
  all_goals rfl

theorem State.offClock_clockEdge (early : List PeriodWork) : (s.clockEdge early).offClock = s.offClock := by
  unfold State.clockEdge
  dsimp only
  split
  · exact (State.offClock_collectEdge _).trans s.offClock_closeOverdueWindow
  · exact (State.offClock_lockedEdge _ _).trans s.offClock_closeOverdueWindow
  · exact (State.offClock_flywheelEdge _ _).trans s.offClock_closeOverdueWindow

/-- The start event makes the part RUNNING, and of the scene it keeps the rest (R13). -/
theorem State.scene_startShow : s.startShow.scene = s.startRunning.scene := by
  have hw : s.startRunning.beginWindows.still = s.startRunning.still :=
    foldl_keeps State.still _ (fun t g => t.still_modifyHealth g _) _ _
  have hr := State.still_resolveMany (s.resolver.resolveLead + 1) s.startRunning.beginWindows
  have hb : (s.startRunning.beginWindows.resolveMany (s.resolver.resolveLead + 1)).backdrop = s.startRunning.backdrop :=
    (congrArg Prod.fst hr).trans (congrArg Prod.fst hw)
  have hpost : ∀ (t : State) (b : NoticeBody), t.backdrop = s.startRunning.backdrop →
      (t.post none none b).scene = s.startRunning.scene := by
    intro t b ht
    show { t.backdrop with sup := { t.backdrop.sup with status := ⟨0, none, false⟩ } } = _
    rw [ht]
    rfl
  unfold State.startShow
  rw [State.scene_requestStatus]
  exact hpost _ _ hb

theorem State.scene_syncEdge : s.syncEdge.scene = { s.scene with part := s.syncEdge.part } := by
  unfold State.syncEdge
  split
  · split
    · rw [show s.startShow.part = s.startRunning.part from congrArg Backdrop.part s.scene_startShow, s.scene_startShow]
      rfl
    · rfl
  · rfl

end

/-! ### Arm Show -/

section
variable (s : State) (b : Nat)

/-- What Arm Show sets before the values of the groups (R12, R33, R67, R105, R178). -/
def State.onArm : State :=
  { s with
    part := { s.part with state := .armed, period := b, startBlock := b, startGuard := false }
    pool := { s.pool with exhaustReported := ⟨false, false⟩ }
    cache := { s.cache with exhaustReported := false, strayWrites := ⟨0, 0⟩ }
    resolver := { s.resolver with resolveFront := b, readerEarly := 0, readerFault := 0 }
    notices := { s.notices with lost := false } }

theorem State.Acts.arm : (s.onArm b).Acts false true (s.arm b) :=
  State.Acts.foldl (f := State.armGroup b) (fun _ h => ((h.modifyGroup _ _).setHealth rfl _ _).modifyRing _ _)
    s.definedGroups (.refl (s.onArm b))

theorem State.still_arm : (s.arm b).still = (s.onArm b).still :=
  foldl_keeps State.still (State.armGroup b) (fun _ _ => rfl) s.definedGroups (s.onArm b)

end

/-! ### Every row -/

/-- What row `c` may have changed from `s` to `t`. -/
structure Framed (c : Instr) (s t : State) : Prop where
  pending : t.pending = s.pending
  clock : drivesClock c = false → t.clock = s.clock
  part : drivesPart c = false → t.part = s.part
  timer : drivesTimer c = false → t.timer = s.timer
  store : writesDram c = false → t.mem = s.mem ∧ t.landed = s.landed
  lines : (∀ b a l h, c ≠ .reset b a l h) →
    t.lines.sizeA = s.lines.sizeA ∧ t.lines.sizeB = s.lines.sizeB ∧ t.lines.resetLow = s.lines.resetLow
  answers : (∀ b a l h, c ≠ .reset b a l h) → s.answers <+: t.answers
  more : (∀ b a l h, c ≠ .reset b a l h) → s.AnswersMore t
  reads : (∀ b a l h, c ≠ .reset b a l h) → (∀ p n ev, c ≠ .liveWindowRead p n ev) →
    t.answers = s.answers ∧ (writesLocal c = false → t.burst = s.burst)
  rigs : answersRig c = false → t.rigAnswers = s.rigAnswers

section
variable {c : Instr} {s t : State}

/-- A row that keeps the ground but for the Clock Monitor, the show state and the timer. -/
theorem Framed.of_parts (hg : t.ground = { s.ground with clock := t.clock, part := t.part, timer := t.timer })
    (hclock : drivesClock c = false → t.clock = s.clock) (hpart : drivesPart c = false → t.part = s.part)
    (htimer : drivesTimer c = false → t.timer = s.timer)
    (hstore : writesDram c = false → t.mem = s.mem ∧ t.landed = s.landed) : Framed c s t where
  pending := congrArg Ground.pending hg
  clock := hclock
  part := hpart
  timer := htimer
  store := hstore
  lines := fun _ => ⟨congrArg Ground.sizeA hg, congrArg Ground.sizeB hg, congrArg Ground.resetLow hg⟩
  answers := fun _ => isPrefix_of_eq (congrArg Ground.answers hg)
  more := fun _ => .of_eq (congrArg Ground.rigAnswers hg)
  reads := fun _ _ => ⟨congrArg Ground.answers hg, fun _ => congrArg Ground.burst hg⟩
  rigs := fun _ => congrArg Ground.rigAnswers hg

theorem Framed.of_ground (h : t.ground = s.ground) (hstore : writesDram c = false → t.mem = s.mem ∧ t.landed = s.landed) :
    Framed c s t := by
  have hclock : t.clock = s.clock := congrArg Ground.clock h
  have hpart : t.part = s.part := congrArg Ground.part h
  have htimer : t.timer = s.timer := congrArg Ground.timer h
  refine .of_parts ?_ (fun _ => hclock) (fun _ => hpart) (fun _ => htimer) hstore
  rw [h, hclock, hpart, htimer]
  rfl

theorem Framed.refl (c : Instr) (s : State) : Framed c s s := .of_ground rfl (fun _ => ⟨rfl, rfl⟩)

/-- A row that writes DRAM and keeps the ground. -/
theorem Framed.of_dram (hc : writesDram c = true) (h : t.ground = s.ground) : Framed c s t :=
  .of_ground h (fun hn => absurd hc (by simp [hn]))

/-- A row that keeps the backdrop of a period event. -/
theorem Framed.of_still (hg : t.ground = s.ground) (h : t.still = s.still) : Framed c s t :=
  .of_ground hg (fun _ => ⟨congrArg (fun x => x.1.mem) h, congrArg (fun x => x.1.landed) h⟩)

/-- A row of the Clock Monitor. -/
theorem Framed.of_offClock (h : t.offClock = s.offClock) (hclock : drivesClock c = false → t.clock = s.clock)
    (hpart : drivesPart c = false → t.part = s.part) (htimer : drivesTimer c = true) : Framed c s t := by
  refine .of_parts ?_ hclock hpart (fun hn => absurd htimer (by simp [hn]))
    (fun _ => ⟨congrArg Backdrop.mem h, congrArg Backdrop.landed h⟩)
  simp only [State.ground, Ground.mk.injEq, true_and]
  exact ⟨congrArg Backdrop.pending h, congrArg Backdrop.sizeB h, congrArg Backdrop.sizeA h, congrArg Backdrop.resetLow h,
    congrArg Backdrop.answers h, congrArg Backdrop.burst h, congrArg Backdrop.rigAnswers h⟩

/-- A row that may answer reads of a rig port. -/
theorem Framed.of_mute (hc : answersRig c = true) (hd : writesDram c = true) (hp : drivesPart c = false → t.part = s.part)
    (h : t.ground.mute = { s.ground.mute with part := t.part }) (hm : s.AnswersMore t) : Framed c s t where
  pending := congrArg Ground.pending h
  clock := fun _ => congrArg Ground.clock h
  part := hp
  timer := fun _ => congrArg Ground.timer h
  store := fun hn => absurd hd (by simp [hn])
  lines := fun _ => ⟨congrArg Ground.sizeA h, congrArg Ground.sizeB h, congrArg Ground.resetLow h⟩
  answers := fun _ => isPrefix_of_eq (congrArg Ground.answers h)
  more := fun _ => hm
  reads := fun _ _ => ⟨congrArg Ground.answers h, fun _ => congrArg Ground.burst h⟩
  rigs := fun hn => absurd hc (by simp [hn])

theorem Framed.of_loadEnds (hc : answersRig c = true) (hd : writesDram c = true) (h : s.LoadEnds t) : Framed c s t := by
  have hpart : t.part = s.part := congrArg Ground.part h.mute
  refine .of_mute hc hd (fun _ => hpart) ?_ h.more
  rw [h.mute, hpart]
  rfl

theorem Framed.unlessHeld (h : Framed c s t) : Framed c s (s.unlessHeld t) := by
  unfold State.unlessHeld
  split
  · exact .refl c s
  · exact h

theorem Framed.ite (p : Prop) [Decidable p] (h : Framed c s t) : Framed c s (if p then t else s) := by
  split
  · exact h
  · exact .refl c s

/-- A write word that arrives on the Local Port (R158). -/
theorem Framed.localRequest (hd : writesDram c = true) (hw : writesLocal c = true) (s : State) (a : Nat) (v : Word)
    (en : Enables) : Framed c s (s.localRequest (.write a v en)) := by
  unfold State.localRequest
  split
  · exact .of_dram hd (s.ground_localWrite a v en)
  · exact { pending := rfl, clock := fun _ => rfl, part := fun _ => rfl, timer := fun _ => rfl,
            store := fun _ => ⟨rfl, rfl⟩, lines := fun _ => ⟨rfl, rfl, rfl⟩, answers := fun _ => List.prefix_refl _,
            more := fun _ => .refl s, reads := fun _ _ => ⟨rfl, fun hn => absurd hw (by simp [hn])⟩, rigs := fun _ => rfl }

/-- A read that arrives on a link port, and the events of the Memory Port behind it. -/
theorem Framed.liveWindowRead (s : State) (p : ReadPlace) (n : Nat) (ev : List PortEvent) :
    Framed (.liveWindowRead p n ev) s ((match p with
      | .localPort addr => s.localRequest (.read addr n)
      | .burst => s
      | .rigPort r addr => s.rigRequest r (.read addr n)).portEvents ev) := by
  have hon : ∀ {u t : State}, u.ground.unread = s.ground.unread → s.answers <+: u.answers → s.AnswersMore u → u.ReadsOn t →
      Framed (.liveWindowRead p n ev) s t := fun hu ha hm ht =>
    { pending := congrArg Ground.pending (ht.unread.trans hu), clock := fun _ => congrArg Ground.clock (ht.unread.trans hu)
      part := fun _ => congrArg Ground.part (ht.unread.trans hu)
      timer := fun _ => congrArg Ground.timer (ht.unread.trans hu), store := fun h => nomatch h
      lines := fun _ => ⟨congrArg Ground.sizeA (ht.unread.trans hu), congrArg Ground.sizeB (ht.unread.trans hu),
        congrArg Ground.resetLow (ht.unread.trans hu)⟩
      answers := fun _ => ha.trans ht.answers, more := fun _ => hm.trans (.of_eq ht.rigAnswers)
      reads := fun _ h => absurd rfl (h p n ev), rigs := fun h => nomatch h }
  cases p with
  | localPort addr =>
    have hreq := State.ReadsOn.localRequest s (.read addr n)
    exact hon hreq.unread hreq.answers (.of_eq hreq.rigAnswers) (State.ReadsOn.portEvents _ ev)
  | burst => exact hon rfl (List.prefix_refl _) (.refl s) (State.ReadsOn.portEvents _ ev)
  | rigPort r addr =>
    have hreq := s.mute_rigRequest r (.read addr n)
    have hans : (s.rigRequest r (.read addr n)).answers = s.answers := congrArg Ground.answers hreq
    exact hon (congrArg Ground.unread hreq : (s.rigRequest r (.read addr n)).ground.mute.unread = _)
      (isPrefix_of_eq hans) (.rigRequest s r _) (State.ReadsOn.portEvents _ ev)

/-- A row of the command ring. -/
theorem Framed.commandAct {c : Instr} {s t : State} (hc : ringRow c = true) (h : s.CommandAct c t) : Framed c s t := by
  cases h with
  | acts h hm r d =>
    have hl := h.keeps (m := State.landed) (fun ht => by cases ht <;> rfl)
    exact .of_ground h.ground (fun _ => ⟨hm, hl⟩)
  | await w => exact .of_ground rfl (fun _ => ⟨rfl, rfl⟩)
  | configure hp b d => exact .of_ground rfl (fun _ => ⟨rfl, rfl⟩)
  | undefine hp ch => exact .of_dram rfl ((State.ground_answerCommand _ _ _).trans (s.ground_writeDirEntry _ _))
  | arm hp b d =>
    have hg : (s.arm b).ground = (s.onArm b).ground := (State.Acts.arm s b).ground
    have hs : (s.arm b).still = (s.onArm b).still := s.still_arm b
    refine .of_parts ?_ (fun _ => congrArg Ground.clock hg) (fun h => nomatch h) (fun _ => congrArg Ground.timer hg)
      (fun _ => ⟨congrArg (fun x => x.1.mem) hs, congrArg (fun x => x.1.landed) hs⟩)
    show (s.arm b).ground = { s.ground with clock := (s.arm b).ground.clock, part := (s.arm b).ground.part
                                            timer := (s.arm b).ground.timer }
    rw [hg]
    rfl
  | teardown hp =>
    have hm := s.mute_beginTeardown
    refine .of_mute rfl rfl (fun h => nomatch h) ?_ (.beginTeardown s)
    rw [hm, show s.beginTeardown.part = s.inStandby.part from congrArg Ground.part hm]
    rfl
  | lock v => exact .of_ground rfl (fun _ => ⟨rfl, rfl⟩)

/-- A reset keeps the queue alone. -/
theorem Framed.reset {b a l : Bool} {h : ResetLine} (hp : t.pending = s.pending) : Framed (.reset b a l h) s t where
  pending := hp
  clock := fun h => nomatch h
  part := fun h => nomatch h
  timer := fun h => nomatch h
  store := fun h => nomatch h
  lines := fun hn => absurd rfl (hn b a l h)
  answers := fun hn => absurd rfl (hn b a l h)
  more := fun hn => absurd rfl (hn b a l h)
  reads := fun hn => absurd rfl (hn b a l h)
  rigs := fun h => nomatch h

/-- A timed row that changes nothing else of the ground. -/
theorem Framed.of_advance {dt : Nat} (hc : drivesTimer c = true) (h : t.ground = (s.advance dt).ground)
    (hstore : writesDram c = false → t.mem = s.mem ∧ t.landed = s.landed) : Framed c s t := by
  have hclock : t.clock = s.clock := congrArg Ground.clock h
  have hpart : t.part = s.part := congrArg Ground.part h
  have htimer : t.timer = (s.advance dt).timer := congrArg Ground.timer h
  refine .of_parts ?_ (fun _ => hclock) (fun _ => hpart) (fun hn => absurd hc (by simp [hn])) hstore
  rw [h, hclock, hpart, htimer]
  rfl

theorem State.pending_unlessHeld {u : State} (h : t.pending = u.pending) : (u.unlessHeld t).pending = u.pending := by
  unfold State.unlessHeld
  split
  · rfl
  · exact h

theorem State.offClock_unlessHeld {u : State} (h : t.offClock = u.offClock) : (u.unlessHeld t).offClock = u.offClock := by
  unfold State.unlessHeld
  split
  · rfl
  · exact h

theorem State.offClock_pulse (s : State) (dt : Nat) (wide : Bool) : (s.pulse dt wide).offClock = s.offClock := by
  unfold State.pulse
  split <;> rfl

theorem State.offClock_syncEdge (s : State) : s.syncEdge.offClock = s.offClock := by
  simp only [State.offClock, State.scene_syncEdge]

theorem State.clock_syncEdge (s : State) : s.syncEdge.clock = s.clock := congrArg Backdrop.clock s.scene_syncEdge

theorem State.ground_takeoverRises (s : State) : s.takeoverRises.ground = s.ground := by
  unfold State.takeoverRises
  split
  · exact ((State.Acts.foldl (fill := false) (win := true) (fun g h => h.takeoverSet g) _ (.refl s.takeoverHigh)).ground).trans rfl
  · rfl

theorem State.store_takeoverRises (s : State) : s.takeoverRises.mem = s.mem ∧ s.takeoverRises.landed = s.landed := by
  unfold State.takeoverRises
  split
  · have h := foldl_keeps State.still (fun u g => u.takeoverSet g) (fun u g => u.still_takeoverSet g) s.followLeaders
      s.takeoverHigh
    exact ⟨congrArg (fun x => x.1.mem) h, congrArg (fun x => x.1.landed) h⟩
  · exact ⟨rfl, rfl⟩

/-- What the end of a take leaves of the ground. -/
theorem State.ground_endTake (s : State) (x : Anchor) :
    (s.endTake x).ground = { s.ground with part := { s.part with state := .standby, period := 0, startBlock := 0
                                                                 startGuard := false } } := by
  have hset : ∀ (m : Memory) (y : Landed) (p : Part) (n : NoticeUnit) (u : Supervisor), State.ground
      { s with mem := m, landed := y, part := p, lines := { s.lines with interrupt := false }, notices := n, sup := u } =
      { s.ground with part := p } := fun _ _ _ _ _ => rfl
  rw [State.endTake, State.ground_requestStatus, hset]

theorem State.store_fetchDone (s : State) (e : Bool) : (s.fetchDone e).mem = s.mem ∧ (s.fetchDone e).landed = s.landed := by
  unfold State.fetchDone
  repeat' split
  all_goals exact ⟨rfl, rfl⟩

/-- Each row answers a next state and changes no more than its own parts. -/
theorem exec_framed (c : Instr) (s : State) : ∃ t, exec c s = .next t ∧ Framed c s t := by
  have hring : ringRow c = true → ∃ t, exec c s = .next t ∧ Framed c s t := by
    intro hc
    obtain he | ⟨-, t, he, hact⟩ := exec_command hc s
    · exact ⟨s, he, .refl c s⟩
    · exact ⟨t, he, .commandAct hc hact⟩
  have hwrite : ∀ {c : Instr} (r : Rig) (w : RigWrite), writesDram c = true → Framed c s (s.unlessHeld (s.rigWrite r w)) :=
    fun r w hd => (Framed.of_dram hd (s.ground_rigWrite r w)).unlessHeld
  have hclock : ∀ {c : Instr} {t : State}, drivesClock c = true → drivesPart c = true → drivesTimer c = true →
      t.offClock = s.offClock → Framed c s t := fun h1 h2 h3 h =>
    .of_offClock h (fun hn => absurd h1 (by simp [hn])) (fun hn => absurd h2 (by simp [hn])) h3
  cases c with
  | reset b a l line =>
    cases line with
    | low => exact ⟨s.unlessHeld s.holdReset, rfl, .reset (State.pending_unlessHeld rfl)⟩
    | high => exact ⟨s.afterReset b a l, rfl, .reset rfl⟩
    | shortPulse =>
      refine ⟨s.unlessHeld (if s.pulseTaken false then s.afterReset b a l else s.drawn), rfl,
        .reset (State.pending_unlessHeld ?_)⟩
      split <;> rfl
  | refclkStop =>
    refine ⟨_, rfl, ?_⟩
    split
    · exact .refl _ s
    · exact .of_parts rfl (fun _ => rfl) (fun _ => rfl) (fun h => nomatch h) (fun _ => ⟨rfl, rfl⟩)
  | refclkResume =>
    exact ⟨_, rfl, .of_parts rfl (fun _ => rfl) (fun _ => rfl) (fun h => nomatch h) (fun _ => ⟨rfl, rfl⟩)⟩
  | blockClockEdge dt wide early =>
    refine ⟨_, rfl, hclock rfl rfl rfl ?_⟩
    split
    · exact (State.offClock_unlessHeld (State.offClock_clockEdge _ early)).trans (s.offClock_pulse dt wide)
    · exact s.offClock_pulse dt wide
  | clockLoss dt early =>
    refine ⟨_, rfl, hclock rfl rfl rfl ?_⟩
    split
    · exact (State.offClock_loseClock _ early).trans rfl
    · rfl
  | synthesizedBeat dt early =>
    have hclosed : (s.advance dt).closeOverdueWindow.offClock = s.offClock := (State.offClock_closeOverdueWindow _).trans rfl
    refine ⟨_, rfl, hclock rfl rfl rfl ?_⟩
    split
    · exact hclosed
    · exact (State.offClock_synthesize _ _ early).trans hclosed
  | acceptanceWindowClose dt =>
    refine ⟨_, rfl, ?_⟩
    split
    · exact .of_offClock ((State.offClock_windowClosed _).trans rfl) (fun h => nomatch h)
        (fun _ => (State.part_windowClosed _).trans rfl) rfl
    · exact .of_offClock rfl (fun h => nomatch h) (fun _ => rfl) rfl
  | showSync dt wide =>
    have hpulse : (s.pulse dt wide).clock = s.clock := by unfold State.pulse; split <;> rfl
    refine ⟨_, rfl, ?_⟩
    split
    · refine .of_offClock ((State.offClock_unlessHeld (State.offClock_syncEdge _)).trans (s.offClock_pulse dt wide))
        (fun _ => ?_) (fun h => nomatch h) rfl
      unfold State.unlessHeld
      split
      · exact hpulse
      · exact (State.clock_syncEdge _).trans hpulse
    · exact .of_offClock (s.offClock_pulse dt wide) (fun _ => hpulse) (fun h => nomatch h) rfl
  | takeoverFallingEdge dt =>
    refine ⟨_, rfl, .of_advance (dt := dt) rfl ?_ (fun _ => ?_)⟩
    · unfold State.unlessHeld
      split <;> rfl
    · unfold State.unlessHeld
      split <;> exact ⟨rfl, rfl⟩
  | takeoverRisingEdge dt =>
    refine ⟨_, rfl, .of_advance (dt := dt) rfl ?_ (fun _ => ?_)⟩
    · unfold State.unlessHeld
      split
      · rfl
      · exact State.ground_takeoverRises _
    · unfold State.unlessHeld
      split
      · exact ⟨rfl, rfl⟩
      · exact State.store_takeoverRises (s.advance dt)
  | goWrite v en => exact ⟨_, rfl, (Framed.localRequest rfl rfl s _ _ _).unlessHeld⟩
  | deferredGo => exact ⟨_, rfl, .ite _ (.of_dram rfl s.ground_deferredGo)⟩
  | anchorReadDone e => exact ⟨_, rfl, .ite _ (.of_dram rfl (s.ground_anchorRead e))⟩
  | anchorTakeEnd =>
    refine ⟨_, rfl, ?_⟩
    split
    next x _ =>
      have hg := s.ground_endTake x
      refine .of_parts (hg.trans ?_) (fun _ => congrArg Ground.clock hg) (fun h => nomatch h)
        (fun _ => congrArg Ground.timer hg) (fun h => nomatch h)
      rw [show (s.endTake x).clock = s.clock from congrArg Ground.clock hg,
        show (s.endTake x).timer = s.timer from congrArg Ground.timer hg,
        show (s.endTake x).part = _ from congrArg Ground.part hg]
      rfl
    · exact .refl _ s
  | commandKick v en => exact ⟨_, rfl, (Framed.localRequest rfl rfl s _ _ _).unlessHeld⟩
  | commandFetchDone e =>
    exact ⟨_, rfl, .ite _ (.of_ground (s.ground_fetchDone e) (fun _ => s.store_fetchDone e))⟩
  | commandDirectoryReadDone e => exact ⟨_, rfl, .ite _ (.of_dram rfl (s.ground_commandDirectoryRead e))⟩
  | commandResultWritten => exact ⟨_, rfl, .ite _ (.of_dram rfl s.ground_resultWritten)⟩
  | unknownCommand => exact hring rfl
  | configureBridge => exact hring rfl
  | defineGroup => exact hring rfl
  | setThresholds => exact hring rfl
  | defineChannel => exact hring rfl
  | undefineChannel => exact hring rfl
  | readContext => exact hring rfl
  | armShow => exact hring rfl
  | endShow => exact hring rfl
  | teardownEnd =>
    refine ⟨_, rfl, ?_⟩
    split
    · exact .of_dram rfl (s.ground_endTeardown _)
    · exact .refl _ s
  | switch => exact hring rfl
  | hold => exact hring rfl
  | releaseHold => exact hring rfl
  | queryCoverage => exact hring rfl
  | lock => exact hring rfl
  | unlock => exact hring rfl
  | noticeReturn v en => exact ⟨_, rfl, (Framed.localRequest rfl rfl s _ _ _).unlessHeld⟩
  | noticeWriteBegin => exact ⟨_, rfl, .ite _ (.of_ground rfl (fun _ => ⟨rfl, rfl⟩))⟩
  | noticeWriteEnd dt =>
    refine ⟨_, rfl, .of_advance (dt := dt) rfl ?_ (fun h => nomatch h)⟩
    split <;> rfl
  | coalesceTimeout dt =>
    exact ⟨_, rfl, .of_advance (dt := dt) rfl rfl (fun _ => ⟨rfl, rfl⟩)⟩
  | statusWriteEnd =>
    refine ⟨_, rfl, ?_⟩
    split
    · exact .refl _ s
    · exact .of_dram rfl (s.ground_statusWritten _)
  | payloadWrite r a v en => exact ⟨_, rfl, hwrite r _ rfl⟩
  | headerWrite r a v en => exact ⟨_, rfl, hwrite r _ rfl⟩
  | commit r a v en => exact ⟨_, rfl, hwrite r _ rfl⟩
  | rigPortUnusedWrite r a v en => exact ⟨_, rfl, hwrite r _ rfl⟩
  | contextLoadReadDone ch e =>
    refine ⟨_, rfl, ?_⟩
    split
    · exact .refl _ s
    · exact .of_loadEnds rfl rfl ((State.LoadEnds.loadReadDone s _ e).trans (.of_ground (State.ground_advanceTeardown _)))
  | evictionWritebackEnd k =>
    exact ⟨_, rfl, .ite _ (.of_loadEnds rfl rfl
      ((State.LoadEnds.evictionEnds s k).trans (.of_ground (State.ground_advanceTeardown _))))⟩
  | laneStale ch r l => exact ⟨_, rfl, .of_still ((State.Acts.refl (fill := false) (win := true) s).laneStale ch r l).ground (by simp)⟩
  | streamingExpiry ch => exact ⟨_, rfl, .of_still ((State.Acts.refl (fill := false) (win := true) s).streamingExpiry ch).ground (by simp)⟩
  | slotRecordWritten g k =>
    refine ⟨_, rfl, ?_⟩
    split
    · exact .refl _ s
    · exact .of_dram rfl (((State.Acts.refl (fill := false) (win := true) _).recordTaken g k _).ground.trans rfl)
  | slotHeaderWritten g h =>
    cases h with
    | ready k =>
      refine ⟨_, rfl, .of_dram rfl ?_⟩
      show (s.readyHeaderWritten g k).ground = s.ground
      unfold State.readyHeaderWritten
      split
      · rfl
      · exact ((State.Acts.refl (fill := false) (win := true) _).headerTaken g k _).ground.trans rfl
    | other k =>
      refine ⟨_, rfl, .of_dram rfl ?_⟩
      show (s.otherWritten g k).ground = s.ground
      unfold State.otherWritten
      repeat' split
      all_goals rfl
  | liveWindowRead p n ev => exact ⟨_, rfl, (Framed.liveWindowRead s p n ev).unlessHeld⟩
  | readerRelease g k v en =>
    refine ⟨_, rfl, ?_⟩
    split
    · exact .refl _ s
    · exact (Framed.localRequest rfl rfl s _ _ _).unlessHeld
  | forcedRelease g k => exact ⟨_, rfl, .of_still ((State.Acts.refl (fill := false) (win := true) s).forcedRelease g k).ground (by simp)⟩
  | blendJobComplete =>
    refine ⟨_, rfl, ?_⟩
    split
    · exact .refl _ s
    · exact .ite _ (.of_dram rfl (s.ground_completeHead _))
  | blendDeadline => exact ⟨_, rfl, .of_still s.ground_blendDeadline (by simp)⟩
  | blendDrainEnd =>
    refine ⟨_, rfl, ?_⟩
    split
    · exact .refl _ s
    · exact .ite _ (.of_dram rfl ((State.ground_drainHead _ _).trans rfl))
  | blendReadError i =>
    refine ⟨_, rfl, ?_⟩
    split
    · exact .refl _ s
    · exact .of_dram rfl (s.ground_readError _ i)
  | healthWindowClose g => exact ⟨_, rfl, .of_still ((State.Acts.refl (fill := false) (win := true) s).healthWindowClose rfl g).ground (by simp)⟩
  | localPortWrite a v en => exact ⟨_, rfl, (Framed.localRequest rfl rfl s _ _ _).unlessHeld⟩
  | blendReadingDone =>
    refine ⟨_, rfl, ?_⟩
    split
    · exact .refl _ s
    · exact .ite _ (.of_ground rfl (fun _ => ⟨rfl, rfl⟩))

/-- What a row that answers `t` may have changed. -/
theorem framed_of_exec {c : Instr} {s t : State} (h : exec c s = .next t) : Framed c s t := by
  obtain ⟨u, hu, hf⟩ := exec_framed c s
  rw [hu] at h
  cases h
  exact hf

end

/-! ### The frames of the rows -/

/-- Settles O3: every row answers, and no row reads or writes the queue. -/
theorem commandsKeepQueue : Obligations.CommandsKeepQueue := by
  intro c s
  obtain ⟨t, ht, hf⟩ := exec_framed c s
  exact ⟨t, ht, hf.pending⟩

/-- Settles O4, from what each row may change. -/
theorem clockAndPartFrame : Obligations.ClockAndPartFrame := by
  intro c s t h
  have hf := framed_of_exec h
  exact ⟨hf.clock, hf.part, hf.timer⟩

/-- Settles O5, from what each row may change; an answer is never lost since each goes behind those before it. -/
theorem dramAndLinesFrame : Obligations.DramAndLinesFrame := by
  intro c s t h
  have hf := framed_of_exec h
  refine ⟨hf.store, fun hc => ?_, hf.reads, hf.rigs⟩
  obtain ⟨hA, hB, hlow⟩ := hf.lines hc
  obtain ⟨more, hmore⟩ := hf.answers hc
  refine ⟨hA, hB, hlow, ⟨more, hmore.symm⟩, fun r => ?_⟩
  obtain ⟨rig, hrig⟩ := hf.more hc r
  exact ⟨rig, hrig.symm⟩

end Sys2Proof.Machine
end

section
/-! # Every step keeps DRAM canonical and the laws of the pool (R19, R20, R23)

`Laws/Invariant` carries the invariant through the shared operations. Here each row of the opcode table is one of these
operations, or leaves the state as it is, and an empty queue only counts time. -/

namespace Sys2Proof.Machine

section
variable {s t : State}

theorem State.Inv.ite (h : s.Inv) (p : Prop) [Decidable p] (ht : t.Inv) : (if p then t else s).Inv := by
  split
  · exact ht
  · exact h

theorem State.Inv.tick (h : s.Inv) : s.tick.Inv := h.congr rfl rfl

theorem Pool.Law.claims {p q : Pool} (h : p.Law) (hc : p.Claims q) : q.Law := by
  induction hc with
  | refl => exact h
  | tail _ hc ih =>
    cases hc with
    | retain b => exact ih.retain b
    | free b => exact ih.claimFree b
    | pin b => exact ih.pin b
    | unpin b => exact ih.unpin b
    | exhausted r v => exact ih.congr rfl rfl rfl

/-- The acts of the blocks keep the invariant. -/
theorem State.Inv.acts {fill win : Bool} (h : s.Inv) (ha : s.Acts fill win t) : t.Inv := by
  refine ha.preserves (fun hact hi => ?_) h
  cases hact with
  | claim f hf => exact hi.claim (hi.2.claims hf)
  | laneBucket r target hf => exact hi.claim (hi.2.laneAllocate r target)
  | blendBucket hf => exact hi.claim hi.2.blendAllocate
  | store ln v => exact hi.storePayload ln v
  | _ => exact hi.congr rfl rfl

/-- A row of the command ring. -/
theorem State.Inv.commandAct {c : Instr} (h : s.Inv) (hact : s.CommandAct c t) : t.Inv := by
  cases hact with
  | acts hacts hm r d => exact (h.acts hacts).answerCommand r d
  | await w => exact h.modifyCommand _
  | configure hp b d => exact (h.configure b).answerCommand _ _
  | undefine hp ch => exact (h.writeDirEntry _ _).answerCommand _ _
  | arm hp b d => exact (h.arm b).answerCommand _ _
  | teardown hp => exact h.beginTeardown
  | lock v => exact (h.modifySup _).answerCommand _ _

theorem State.Inv.takeoverRises (h : s.Inv) : s.takeoverRises.Inv := by
  have hhigh : s.takeoverHigh.Inv := h.congr rfl rfl
  unfold State.takeoverRises
  split
  · exact State.Inv.foldl (fun g h => h.takeoverSet g) _ hhigh
  · exact hhigh

theorem State.Inv.next (h : s.Inv) {u : State} (hu : s.Inv → u.Inv) (ht : Host.Outcome.next u = (.next t : Host.Outcome State Fault Refusal)) :
    t.Inv := Host.Outcome.next.inj ht ▸ hu h

/-- Every row keeps the invariant. -/
theorem State.Inv.exec (c : Instr) (h : s.Inv) (ht : exec c s = .next t) : t.Inv := by
  have hring : ringRow c = true → t.Inv := by
    intro hc
    obtain he | ⟨-, u, he, hact⟩ := exec_command hc s
    · exact h.next (fun h => h) (he.symm.trans ht)
    · exact h.next (fun h => h.commandAct hact) (he.symm.trans ht)
  have hpulse : ∀ dt wide, (s.pulse dt wide).Inv := fun dt wide => h.pulse dt wide
  cases c with
  | reset b a l line =>
    cases line with
    | low => exact h.next (fun h => h.unlessHeld h.holdReset) ht
    | high => exact h.next (fun h => h.afterReset b a l) ht
    | shortPulse =>
      refine h.next (fun h => h.unlessHeld ?_) ht
      split
      · exact h.afterReset b a l
      · exact h.congr rfl rfl
  | refclkStop =>
    refine h.next (fun h => ?_) ht
    split
    · exact h
    · exact h.congr rfl rfl
  | refclkResume =>
    refine h.next (fun h => ?_) ht
    exact h.congr rfl rfl
  | blockClockEdge dt wide early =>
    refine h.next (fun _ => ?_) ht
    exact (hpulse dt wide).ite _ ((hpulse dt wide).unlessHeld ((hpulse dt wide).clockEdge early))
  | clockLoss dt early => exact h.next (fun h => (h.advance dt).ite _ ((h.advance dt).loseClock early)) ht
  | synthesizedBeat dt early =>
    refine h.next (fun h => ?_) ht
    split
    · exact (h.advance dt).closeOverdueWindow
    · exact (h.advance dt).closeOverdueWindow.synthesize _ early
  | acceptanceWindowClose dt => exact h.next (fun h => (h.advance dt).ite _ (h.advance dt).windowClosed) ht
  | showSync dt wide =>
    refine h.next (fun _ => ?_) ht
    exact (hpulse dt wide).ite _ ((hpulse dt wide).unlessHeld (hpulse dt wide).syncEdge)
  | takeoverFallingEdge dt =>
    refine h.next (fun h => (h.advance dt).unlessHeld ?_) ht
    exact h.congr rfl rfl
  | takeoverRisingEdge dt => exact h.next (fun h => (h.advance dt).unlessHeld (h.advance dt).takeoverRises) ht
  | goWrite v en => exact h.next (fun h => h.unlessHeld (h.localRequest _)) ht
  | deferredGo => exact h.next (fun h => h.ite _ h.deferredGo) ht
  | anchorReadDone e => exact h.next (fun h => h.ite _ (h.anchorRead e)) ht
  | anchorTakeEnd =>
    refine h.next (fun h => ?_) ht
    split
    · exact h.endTake _
    · exact h
  | commandKick v en => exact h.next (fun h => h.unlessHeld (h.localRequest _)) ht
  | commandFetchDone e => exact h.next (fun h => h.ite _ (h.fetchDone e)) ht
  | commandDirectoryReadDone e =>
    refine h.next (fun h => h.ite _ ?_) ht
    unfold State.commandDirectoryRead
    split
    · exact h.refuse _
    · split
      · exact (h.writeDirEntry _ _).answerCommand _ _
      · exact h.answerCommand _ _
  | commandResultWritten => exact h.next (fun h => h.ite _ h.resultWritten) ht
  | unknownCommand => exact hring rfl
  | configureBridge => exact hring rfl
  | defineGroup => exact hring rfl
  | setThresholds => exact hring rfl
  | defineChannel => exact hring rfl
  | undefineChannel => exact hring rfl
  | readContext => exact hring rfl
  | armShow => exact hring rfl
  | endShow => exact hring rfl
  | teardownEnd =>
    refine h.next (fun h => ?_) ht
    split
    · exact h.endTeardown _
    · exact h
  | switch => exact hring rfl
  | hold => exact hring rfl
  | releaseHold => exact hring rfl
  | queryCoverage => exact hring rfl
  | lock => exact hring rfl
  | unlock => exact hring rfl
  | noticeReturn v en => exact h.next (fun h => h.unlessHeld (h.localRequest _)) ht
  | noticeWriteBegin =>
    refine h.next (fun h => h.ite _ ?_) ht
    exact h.congr rfl rfl
  | noticeWriteEnd dt => exact h.next (fun h => (h.advance dt).ite _ (h.advance dt).noticeWritten) ht
  | coalesceTimeout dt =>
    refine h.next (fun h => ?_) ht
    exact h.congr rfl rfl
  | statusWriteEnd =>
    refine h.next (fun h => ?_) ht
    split
    · exact h
    · exact h.statusWritten _
  | payloadWrite r a v en => exact h.next (fun h => h.unlessHeld (h.rigWrite r _)) ht
  | headerWrite r a v en => exact h.next (fun h => h.unlessHeld (h.rigWrite r _)) ht
  | commit r a v en => exact h.next (fun h => h.unlessHeld (h.rigWrite r _)) ht
  | rigPortUnusedWrite r a v en => exact h.next (fun h => h.unlessHeld (h.rigWrite r _)) ht
  | contextLoadReadDone ch e =>
    refine h.next (fun h => ?_) ht
    split
    · exact h
    · exact (h.loadReadDone _ e).advanceTeardown
  | evictionWritebackEnd k => exact h.next (fun h => h.ite _ (h.evictionEnds k).advanceTeardown) ht
  | laneStale ch r l => exact h.next (fun h => h.laneStale ch r l) ht
  | streamingExpiry ch => exact h.next (fun h => h.streamingExpiry ch) ht
  | slotRecordWritten g k =>
    refine h.next (fun h => ?_) ht
    split
    · exact h
    · exact (h.landSlotWrites _ _).recordTaken g k _
  | slotHeaderWritten g hd =>
    cases hd with
    | ready k =>
      refine h.next (u := s.readyHeaderWritten g k) (fun h => ?_) ht
      unfold State.readyHeaderWritten
      split
      · exact h
      · exact (h.landSlotWrites _ _).headerTaken g k _
    | other k =>
      refine h.next (u := s.otherWritten g k) (fun h => ?_) ht
      unfold State.otherWritten
      split
      · exact h
      · exact h.ite _ (h.landSlotWrites _ _)
  | liveWindowRead p n ev =>
    refine h.next (fun h => h.unlessHeld (State.Inv.portEvents ev ?_)) ht
    cases p with
    | localPort addr => exact h.localRequest _
    | burst => exact h
    | rigPort r addr => exact h.rigRequest r _
  | readerRelease g k v en =>
    refine h.next (fun h => ?_) ht
    split
    · exact h
    · exact h.unlessHeld (h.localRequest _)
  | forcedRelease g k => exact h.next (fun h => h.forcedRelease g k) ht
  | blendJobComplete =>
    refine h.next (fun h => ?_) ht
    split
    · exact h
    · exact h.ite _ (h.completeHead _)
  | blendDeadline => exact h.next (fun h => h.blendDeadline) ht
  | blendDrainEnd =>
    refine h.next (fun h => ?_) ht
    split
    · exact h
    · exact h.ite _ ((h.landOutput _).drainHead _)
  | blendReadError i =>
    refine h.next (fun h => ?_) ht
    split
    · exact h
    · exact h.readError _ i
  | healthWindowClose g => exact h.next (fun h => h.healthWindowClose g) ht
  | localPortWrite a v en => exact h.next (fun h => h.unlessHeld (h.localRequest _)) ht
  | blendReadingDone =>
    refine h.next (fun h => ?_) ht
    split
    · exact h
    · exact h.ite _ (h.congr rfl rfl)

end

/-! ### A part that stands at its values of reset -/

section
variable {s : State}

/-- Every figure of the part, one by one. -/
theorem State.fresh_iff : s.Fresh ↔ s.clock = .initial ∧ s.part = State.reset.part ∧ s.pool = .initial ∧ s.cache = .initial
    ∧ s.resolver = .initial ∧ s.blend = [] ∧ s.health = [] ∧ s.groups = [] ∧ s.sup = .initial ∧ s.notices = .initial
    ∧ s.landed = .none ∧ s.answers = [] ∧ s.burst = none ∧ s.rigAnswers = ⟨[], []⟩ := by
  simp [State.Fresh, State.reset]

/-- At the values of reset nothing is in use and no operation is under way. -/
theorem State.Fresh.order (h : s.Fresh) : s.Order := by
  obtain ⟨-, hpart, hpool, hcache, -, -, -, -, hsup, hnotices, -⟩ := State.fresh_iff.1 h
  have hidle : s.sup.command.phase = .idle := by rw [hsup]; rfl
  have htake : s.sup.take = none := by rw [hsup]; rfl
  have hanchor : s.sup.anchor = none := by rw [hsup]; rfl
  have hteardown : s.sup.teardown = none := by rw [hsup]; rfl
  constructor
  case quota => intro r; rw [hpool]; exact Nat.zero_le _
  case common => rw [hpool]; exact Nat.zero_le _
  case blend => rw [hpool]; exact Nat.zero_le _
  case atRest => intro _ _; rw [hpool]; rfl
  case ports => intro _; rw [hcache]; rfl
  case takeAlone => exact fun hn => absurd htake hn
  case takeOk => intro a ha; rw [htake] at ha; cases ha
  case anchorOk => intro a ha; rw [hanchor] at ha; cases ha
  case teardown => exact fun hn => absurd hteardown hn
  case contexts => rw [hcache]; exact Table.wf_nil _
  case result => intro hw; rw [hidle] at hw; cases hw

/-- The queues and lists are empty at the values of reset. -/
theorem State.Fresh.shape (h : s.Fresh) (hm : s.lines.tallyMain = false) (hb : s.lines.tallyBackup = false)
    (hi : s.lines.interrupt = false) : s.Shape := by
  obtain ⟨-, -, -, hcache, -, hblend, -, -, hsup, hnotices, hlanded, -, hburst, -⟩ := State.fresh_iff.1 h
  have hteardown : s.sup.teardown = none := by rw [hsup]; rfl
  have hloads : s.cache.loads = [] := by rw [hcache]; rfl
  constructor
  case running => intro j js hj; rw [hblend] at hj; cases hj
  case room => rw [hblend]; exact Nat.zero_le _
  case samples => intro j hj; rw [hblend] at hj; cases hj
  case waits => intro _ q hq; rw [hloads] at hq; cases hq
  case oneLoad => intro r; rw [hloads]; exact Nat.zero_le _
  case held => intro r _ q hq; rw [hloads] at hq; cases hq
  case twoLoads => rw [hloads]; exact Nat.zero_le _
  case sends => intro x xs hx; rw [hcache] at hx; cases hx
  case channels => rw [hloads]; exact List.nodup_nil
  case writtenBack => exact fun _ _ => hloads
  case lists => intro k r; rw [State.context, hcache]; cases r <;> exact List.Pairwise.nil
  case notices => rw [hnotices]; exact Nat.zero_le _
  case burst => intro b hb'; rw [hburst] at hb'; cases hb'
  case inReset => exact fun _ => ⟨h, hm, hb, hi⟩
  case landed => rw [hlanded]; simp [Landed.none]

end

/-- Settles O60: the state of reset stands at the values of reset, with its outputs released. -/
theorem invariantAtReset : Obligations.InvariantAtReset :=
  have hfresh : State.reset.Fresh := rfl
  ⟨⟨Memory.wf_nil, Pool.Law.initial⟩, hfresh.order, hfresh.shape rfl rfl rfl⟩

/-- Settles O58: the front command keeps the invariant, and so does a tick of the local timer. -/
theorem invariantKept : Obligations.InvariantKept := by
  intro s t h hstep
  unfold step at hstep
  split at hstep
  · exact h.next (fun h => h.tick) hstep
  next c cs _ => exact (h.congr (t := { s with pending := cs }) rfl rfl).exec c hstep

/-- Settles O1: a step looks at the front of the queue alone. -/
theorem stepRunsFrontCommand : Obligations.StepRunsFrontCommand := fun _ _ _ => rfl

/-- Settles O2: with no command waiting a step is one tick. -/
theorem emptyQueueIsOneTick : Obligations.EmptyQueueIsOneTick := by
  intro s h
  unfold step
  split
  · rfl
  next hc =>
    rw [h] at hc
    cases hc

/-- Settles O28: the two rows write one flag and answer with the flag it was. -/
theorem lockAndUnlock : Obligations.LockAndUnlock := by
  have hset : ∀ (s : State) (v : Bool), s.setLocked v =
      ({ s with sup := { s.sup with locked := v } } : State).answerCommand .done [if s.sup.locked then 1 else 0] := by
    intro s v
    unfold State.setLocked flag word
    cases s.sup.locked <;> rfl
  intro s
  refine ⟨fun h => ?_, fun h => ?_⟩
  · rw [show exec .lock s = execLock s from rfl, execLock, if_pos h, hset]
  · rw [show exec .unlock s = execUnlock s from rfl, execUnlock, if_pos h, hset]

end Sys2Proof.Machine
end

section
/-! # The values of reset and the checks of an anchor (R10, R165) -/

namespace Sys2Proof.Machine

/-- Settles O6: each value stands in the state of reset. -/
theorem resetStateValues : Obligations.ResetStateValues :=
  ⟨rfl, rfl, rfl, rfl, rfl, rfl, rfl, rfl, rfl, rfl, rfl, rfl, rfl, rfl, rfl, rfl, rfl, rfl, rfl, rfl, rfl, rfl,
    fun _ => rfl, fun _ => ⟨rfl, rfl, rfl, rfl⟩, rfl, rfl, rfl, rfl, rfl, rfl, rfl, rfl, rfl, rfl, rfl, rfl⟩

theorem Anchor.rangesOk_iff (a : Anchor) : a.rangesOk = true ↔
    16 ≤ a.commandRingEntries ∧ a.commandRingEntries ≤ 256 ∧ 64 ≤ a.noticeRingEntries ∧ a.noticeRingEntries ≤ 4096
      ∧ 2048 ≤ a.poolBuckets ∧ a.poolBuckets ≤ 65536 := by
  simp [Anchor.rangesOk, and_assoc]

theorem Anchor.alignmentOk_iff (a : Anchor) : a.alignmentOk = true ↔
    a.commandRingBase % 64 = 0 ∧ a.noticeRingBase % 32 = 0 ∧ a.statusBase % 64 = 0
      ∧ a.channelDirectoryBase % 32 = 0 ∧ a.liveDirectoryBase % 4096 = 0 ∧ a.poolBase % 512 = 0 := by
  simp [Anchor.alignmentOk, and_assoc]

theorem Region.apart_iff (r q : Region) : r.apart q = true ↔ r.base + r.extent ≤ q.base ∨ q.base + q.extent ≤ r.base := by
  simp [Region.apart]

/-- The pairs of the list are checked each against the later ones. -/
theorem regionsApart_iff (rs : List Region) : regionsApart rs = true ↔ rs.Pairwise (fun r q => r.apart q = true) := by
  induction rs with
  | nil => simp [regionsApart]
  | cons r rs ih => simp [regionsApart, ih]

/-- In range no region is empty, so one that is apart from bytes 0 to 63 lies above them. -/
theorem Anchor.apart_head_iff {a : Anchor} (h : a.rangesOk = true) {r : Region} (hr : r ∈ a.regions) :
    Region.apart ⟨0, 64⟩ r = true ↔ 64 ≤ r.base := by
  have hpos : 0 < r.extent := by
    obtain ⟨hc, -, hn, -, hp, -⟩ := a.rangesOk_iff.1 h
    simp only [Anchor.regions, List.mem_cons, List.not_mem_nil, or_false] at hr
    rcases hr with rfl | rfl | rfl | rfl | rfl | rfl
    · exact Nat.mul_pos (by omega) (by omega)
    · exact Nat.mul_pos (by omega) (by omega)
    · exact Nat.zero_lt_succ _
    · exact Nat.zero_lt_succ _
    · exact Nat.zero_lt_succ _
    · exact Nat.mul_pos (by omega) (by omega)
  rw [Region.apart_iff]
  dsimp only
  omega

/-- Settles O21: one equivalence per check; the regions are the model's six, as pairs of base and extent. -/
theorem anchorChecks : Obligations.AnchorChecks := by
  intro a dram
  have hregions : [(a.commandRingBase, a.commandRingEntries * 64), (a.noticeRingBase, a.noticeRingEntries * 32),
      (a.statusBase, 512), (a.channelDirectoryBase, 24576), (a.liveDirectoryBase, 524288),
      (a.poolBase, a.poolBuckets * 512)] = a.regions.map (fun r => (r.base, r.extent)) := rfl
  rw [Anchor.ok, Bool.and_eq_true, Bool.and_eq_true, Bool.and_eq_true, ← Anchor.rangesOk_iff, ← Anchor.alignmentOk_iff,
    and_assoc, and_assoc, hregions]
  simp only [forall_eq, List.forall_mem_map, List.pairwise_map]
  refine and_congr_right fun hr => and_congr_right fun _ => ?_
  have hinside : a.insideDram dram = true ↔ ∀ r ∈ a.regions, r.base + r.extent ≤ dram := by simp [Anchor.insideDram]
  have hapart : a.apartOk = true ↔ a.regions.Pairwise (fun r q => r.base + r.extent ≤ q.base ∨ q.base + q.extent ≤ r.base)
      ∧ ∀ r ∈ a.regions, 64 ≤ r.base := by
    rw [Anchor.apartOk, Bool.and_eq_true, regionsApart_iff, List.all_eq_true]
    exact and_congr (by simp only [Region.apart_iff]) (forall₂_congr fun r hmem => a.apart_head_iff hr hmem)
  rw [hinside, hapart]
  exact and_congr_right fun _ => and_comm

end Sys2Proof.Machine
end

section
/-! # Beats, the loss of clock and the flywheel (R3 to R7, R9, R14)

A beat outside RUNNING leaves the state; one the start guard withholds leaves it too; any other is a period event. Each
row of the Clock Monitor is stated by the branch it takes: the rows of the timer by whether their event is due, the edge
in FLYWHEEL by where it falls. -/

namespace Sys2Proof.Machine

/-! ### Beats -/

section
variable {s : State}

/-- A beat the start guard does not withhold is a period event (R9, R14). -/
theorem State.deliverBeat_due {n : Nat} (hrun : s.part.state = .running)
    (hg : s.part.startGuard = false ∨ n ≤ 2 * (s.timer.now - s.part.startInstant)) (early : List PeriodWork) :
    s.deliverBeat n early = s.periodEvent early := by
  have hdue : s.withholds n = false := by
    rcases hg with hg | hg
    · simp [State.withholds, hg]
    · simp [State.withholds, Nat.not_lt.2 hg]
  rw [State.deliverBeat, if_pos hrun, hdue, if_neg Bool.false_ne_true]

/-- Less than 0.5 × N after the start event the guard withholds the beat (R14). -/
theorem State.deliverBeat_withheld {n : Nat} (hg : s.part.startGuard = true)
    (hn : 2 * (s.timer.now - s.part.startInstant) < n) (early : List PeriodWork) : s.deliverBeat n early = s := by
  have hw : s.withholds n = true := by simp [State.withholds, hg, hn]
  rw [State.deliverBeat, hw, if_pos rfl, ite_self]

/-- What every row that delivers a beat at a clock `c` says of the part: outside RUNNING nothing but the clock changes, and
while RUNNING a beat that is not withheld raises Period and ResolveFront by one. -/
theorem State.deliverBeat_outcome (n : Nat) (early : List PeriodWork) :
    (s.part.state ≠ .running → s.deliverBeat n early = s)
    ∧ (s.part.state = .running →
        s.part.startGuard = false ∨ n ≤ 2 * (s.timer.now - s.part.startInstant) →
        (s.deliverBeat n early).part = { s.part with period := s.part.period + 1, startGuard := false }
        ∧ (s.deliverBeat n early).resolver.resolveFront = s.resolver.resolveFront + 1) := by
  refine ⟨fun h => State.deliverBeat_notRunning h n early, fun hrun hg => ?_⟩
  rw [State.deliverBeat_due hrun hg]
  exact ⟨s.part_periodEvent early, s.resolveFront_periodEvent early⟩

/-! ### The status record is asked for (R177) -/

theorem State.requestStatus_begins {a : Anchor} (ha : s.sup.anchor = some a) (hw : s.sup.status.writing = none)
    (ht : s.sup.take = none) : s.requestStatus = s.beginStatus a.statusBase := by
  simp [State.requestStatus, ha, hw, ht]

theorem State.requestStatus_kept {a : Anchor} (ha : s.sup.anchor = some a) (hw : s.sup.status.writing ≠ none) :
    s.requestStatus = s.keepStatusRequest := by
  simp [State.requestStatus, ha, Option.isSome_iff_ne_none.2 hw]

/-- Before the status record is asked for, a period event has changed nothing of the Supervisor Interface. -/
theorem State.sup_resolve_doWorks (early : List PeriodWork) :
    (s.raisePeriod.doWorks early).resolve.sup = s.sup :=
  congrArg Backdrop.sup ((congrArg Prod.fst (State.still_resolve (s.raisePeriod.doWorks early))).trans
    (congrArg Prod.fst (State.still_doWorks s.raisePeriod early) : _ = s.raisePeriod.backdrop))

/-- A period event begins the status record where none is written and no take runs. -/
theorem State.periodEvent_beginsStatus {a : Anchor} (ha : s.sup.anchor = some a) (hw : s.sup.status.writing = none)
    (ht : s.sup.take = none) (early : List PeriodWork) :
    (s.periodEvent early).sup.status.sequence = s.sup.status.sequence + 1
      ∧ ∃ w, (s.periodEvent early).sup.status.writing = some w ∧ w.base = a.statusBase := by
  have hsup := s.sup_resolve_doWorks early
  rw [State.periodEvent, State.requestStatus_begins (hsup ▸ ha) (hsup ▸ hw) (hsup ▸ ht)]
  exact ⟨congrArg (fun u : Supervisor => u.status.sequence + 1) hsup, _, rfl, rfl⟩

/-- A period event keeps the request as the follow-up of a write that runs. -/
theorem State.periodEvent_keepsRequest {a : Anchor} (ha : s.sup.anchor = some a) (hw : s.sup.status.writing ≠ none)
    (early : List PeriodWork) : (s.periodEvent early).sup.status = { s.sup.status with followUp := true } := by
  have hsup := s.sup_resolve_doWorks early
  rw [State.periodEvent, State.requestStatus_kept (hsup ▸ ha) (hsup ▸ hw)]
  exact congrArg (fun u : Supervisor => { u.status with followUp := true }) hsup

theorem State.anchor_periodEvent (early : List PeriodWork) : (s.periodEvent early).sup.anchor = s.sup.anchor :=
  congrArg (fun b : Backdrop => b.sup.anchor) (s.scene_periodEvent early)

theorem State.command_periodEvent (early : List PeriodWork) : (s.periodEvent early).sup.command = s.sup.command :=
  congrArg (fun b : Backdrop => b.sup.command) (s.scene_periodEvent early)

end

/-- The edge of LOCKED from 0.5 × N to 1.5 × N: the clock follows it and its beat is delivered. -/
theorem exec_blockClockEdge_beat {s : State} {r n dt : Nat} (hclk : s.timer.refclkStopped = false)
    (hrst : s.lines.resetLow = false) (hstate : s.clock.state = .locked) (href : s.clock.reference = some r)
    (hnom : s.clock.nominal = some n) (hlo : n ≤ 2 * (s.timer.now + dt - r)) (hhi : 2 * (s.timer.now + dt - r) ≤ 3 * n)
    (early : List PeriodWork) :
    exec (.blockClockEdge dt true early) s = .next
      (((s.advance dt).setClock (s.clock.follow (s.timer.now + dt) (s.timer.now + dt - r))).deliverBeat n early) := by
  have hnow := State.now_advance_running hclk dt
  have hn : (s.advance dt).clock.n = n := Clock.n_of_some hnom
  have hsince : (s.advance dt).sinceReference = s.timer.now + dt - r := by
    rw [State.sinceReference_of_some (s := s.advance dt) href, hnow]
  rw [exec_blockClockEdge_wide hclk hrst, State.clockEdge_locked (s := s.advance dt) hstate,
    State.lockedEdge_beat (by rwa [hn, hsince]) (by rwa [hn, hsince]), hn, hsince, hnow, State.advance_clock]

/-- Settles O11, by the start guard: the beat of the edge is withheld or is the period event of `State.periodEvent`. -/
theorem periodEventOfBeat : Obligations.PeriodEventOfBeat := by
  intro dt early s r n hclk hrst hrun hstate href hnom hlo hhi
  have hnow := State.now_advance_running hclk dt
  refine ⟨_, exec_blockClockEdge_beat hclk hrst hstate href hnom hlo hhi early, fun hg hn => ?_, fun hg => ?_⟩
  · rw [State.clock_deliverBeat, State.deliverBeat_withheld (s := (s.advance dt).setClock _) hg (hnow.symm ▸ hn)]
    rfl
  · rw [State.clock_deliverBeat, State.deliverBeat_due (s := (s.advance dt).setClock _) hrun (hnow.symm ▸ hg)]
    exact ⟨rfl, State.part_periodEvent .., State.resolveFront_periodEvent .., State.mem_periodEvent ..,
      State.anchor_periodEvent .., State.command_periodEvent ..,
      fun a ha hw ht => State.periodEvent_beginsStatus (s := (s.advance dt).setClock _) ha hw ht early,
      fun a ha hw => State.periodEvent_keepsRequest (s := (s.advance dt).setClock _) ha hw early⟩

/-! ### The loss of clock (R4) -/

/-- Settles O12, by whether the loss is due; its beat is that of `State.deliverBeat_outcome`. -/
theorem lossOfClock : Obligations.LossOfClock := by
  intro dt early s r n hclk hstate href hnom
  have hnow := State.now_advance_running hclk dt
  have hn : s.clock.n = n := Clock.n_of_some hnom
  have hdue : (s.advance dt).lossDue = decide (3 * n ≤ 2 * (s.timer.now + dt - r)) := by
    simp [State.lossDue, hclk, hstate, State.sinceReference, href, hn]
  have hexec : exec (.clockLoss dt early) s
      = .next (if (s.advance dt).lossDue then (s.advance dt).loseClock early else s.advance dt) := rfl
  refine ⟨fun h => ?_, fun h => ?_⟩
  · rw [hexec, hdue, decide_eq_false (Nat.not_le.2 h), if_neg Bool.false_ne_true]
  · rw [hexec, hdue, decide_eq_true h, if_pos rfl]
    have hlose : s.clock.lose = { s.clock with
        state := .flywheel, nextBeat := some (r + 2 * n), openWindow := none, relock := 0, emptyWindows := 0 } := by
      simp [Clock.lose, href, hn]
    refine ⟨_, rfl, (State.clock_deliverBeat ..).trans hlose, fun hrun => ?_, fun hrun hg => ?_⟩
    · have hkeep := State.deliverBeat_notRunning (s := (s.advance dt).changeClock s.clock.lose .lost) hrun n early
      have hl : (s.advance dt).loseClock early = (s.advance dt).changeClock s.clock.lose .lost := by
        rw [State.loseClock, State.advance_clock, hn, hkeep]
      rw [hl]
      simp only [State.changeClock, State.postClockChange, State.post, hstate, hlose, State.advance_clock, hnom]
      rfl
    · have hout := (State.deliverBeat_outcome (s := (s.advance dt).changeClock s.clock.lose .lost) n early).2 hrun
        (hnow.symm ▸ hg)
      rw [State.loseClock, State.advance_clock, hn]
      exact hout

/-! ### The flywheel (R5 to R7) -/

theorem State.closeOverdueWindow_none {s : State} (h : s.clock.openWindow = none) : s.closeOverdueWindow = s := by
  simp [State.closeOverdueWindow, h]

/-- Settles O13, by whether the scheduled beat is due. -/
theorem synthesizedBeat : Obligations.SynthesizedBeat := by
  intro dt early s sb n hclk hstate hbeat hopen hnom
  have hnow := State.now_advance_running hclk dt
  have hn : s.clock.n = n := Clock.n_of_some hnom
  have hclose : (s.advance dt).closeOverdueWindow = s.advance dt := State.closeOverdueWindow_none hopen
  have hdue : (s.advance dt).beatDue = if sb ≤ s.timer.now + dt then some sb else none := by
    simp [State.beatDue, hclk, hstate, hbeat]
  refine ⟨fun h => ?_, fun h => ⟨(s.advance dt).synthesize sb early, ?_, ?_⟩⟩
  · rw [if_neg (Nat.not_le.2 h)] at hdue
    simp only [exec, execSynthesizedBeat, hclose, hdue]
  · rw [if_pos h] at hdue
    simp only [exec, execSynthesizedBeat, hclose, hdue]
  · rw [State.synthesize, State.advance_clock, hn, State.clock_deliverBeat]
    have hout := State.deliverBeat_outcome
      (s := (s.advance dt).setClock { s.clock with nextBeat := some (sb + n), openWindow := some sb }) n early
    exact ⟨rfl, hout.1, fun hrun hg => hout.2 hrun (hnow.symm ▸ hg)⟩

/-! #### An edge in FLYWHEEL -/

section
variable {s : State}

/-- In FLYWHEEL an edge at or before the end of the open window finds no window overdue. -/
theorem State.closeOverdueWindow_open {w : Nat} (hw : s.clock.openWindow = some w) (h : s.pastWindow w = false) :
    s.closeOverdueWindow = s := by
  simp [State.closeOverdueWindow, hw, h]

theorem State.clockEdge_flywheel (hstate : s.clock.state = .flywheel) (hclose : s.closeOverdueWindow = s)
    (early : List PeriodWork) : s.clockEdge early = s.flywheelEdge early := by
  simp only [State.clockEdge, hclose, hstate]

/-- The first three edges accepted in a row schedule the next beat N later (R5). -/
theorem State.acceptEdge_counts (hstate : s.clock.state = .flywheel) (h : s.clock.relock < 3) :
    s.acceptEdge = s.setClock { s.clock with
      nextBeat := some (s.timer.now + s.clock.n), openWindow := none, relock := s.clock.relock + 1, emptyWindows := 0 } := by
  have hc : s.clock.accept s.timer.now = { s.clock with
      nextBeat := some (s.timer.now + s.clock.n), openWindow := none, relock := s.clock.relock + 1, emptyWindows := 0 } :=
    if_neg (by omega)
  have hfly : ¬(s.clock.accept s.timer.now).state = .locked := by
    rw [hc, show ({ s.clock with nextBeat := _, openWindow := _, relock := _, emptyWindows := _ } : Clock).state
      = s.clock.state from rfl, hstate]
    decide
  rw [State.acceptEdge, if_neg hfly, hc]

/-- The fourth makes the clock LOCKED (R6). -/
theorem State.acceptEdge_locks (h : s.clock.relock = 3) :
    s.acceptEdge = s.changeClock { s.clock with
      state := .locked, reference := some s.timer.now, nextBeat := none, openWindow := none, relock := 4
      emptyWindows := 0 } .relocked := by
  have hc : s.clock.accept s.timer.now = { s.clock with
      state := .locked, reference := some s.timer.now, nextBeat := none, openWindow := none, relock := 4
      emptyWindows := 0 } := if_pos (by omega)
  rw [State.acceptEdge, hc, if_pos rfl]

/-- An edge before the scheduled beat's window. -/
theorem State.edgeAtBeat_early {sb : Nat} (h : 4 * s.timer.now + s.clock.n < 4 * sb) (early : List PeriodWork) :
    s.edgeAtBeat sb early = s.rejectEdge := if_pos h

/-- An edge in the window before the scheduled beat is the beat. -/
theorem State.edgeAtBeat_beat {sb : Nat} (hlo : 4 * sb ≤ 4 * s.timer.now + s.clock.n) (hhi : s.timer.now < sb)
    (early : List PeriodWork) : s.edgeAtBeat sb early = s.acceptEdge.deliverBeat s.clock.n early := by
  rw [State.edgeAtBeat, if_neg (Nat.not_lt.2 hlo), if_pos hhi]

end

/-- Settles O14, by where the edge falls: in the open window, before the window of the scheduled beat, or in it. -/
theorem flywheelEdge : Obligations.FlywheelEdge := by
  intro dt early s n hclk hrst hstate hnom
  have hnow := State.now_advance_running hclk dt
  have hn : s.clock.n = n := Clock.n_of_some hnom
  have hedge : (s.advance dt).closeOverdueWindow = s.advance dt →
      exec (.blockClockEdge dt true early) s = .next ((s.advance dt).flywheelEdge early) := fun hclose => by
    rw [exec_blockClockEdge_wide hclk hrst, State.clockEdge_flywheel (s := s.advance dt) hstate hclose]
  have hrelocked : (s.advance dt).changeClock { s.clock with
        state := .locked, reference := some (s.timer.now + dt), nextBeat := none, openWindow := none, relock := 4
        emptyWindows := 0 } .relocked
      = { s.advance dt with
          clock := { s.clock with
            state := .locked, reference := some (s.timer.now + dt), nextBeat := none, openWindow := none, relock := 4
            emptyWindows := 0 }
          notices := if s.part.state = .quiet then s.notices else s.notices.post
            { group := none, source := none, period := s.part.period, body := .clockChange .flywheel .locked 3 n } } := by
    simp only [State.changeClock, State.postClockChange, State.post, State.advance_clock, hstate, State.setClock_clock, hnom]
    rfl
  refine ⟨fun w hw hin => ?window, fun sb hopen hbeat => ?beat⟩
  case window =>
    have hpast : (s.advance dt).pastWindow w = false := by
      simp only [State.pastWindow, hnow, State.advance_clock, hn]
      exact decide_eq_false (Nat.not_lt.2 hin)
    have hfly : (s.advance dt).flywheelEdge early = (s.advance dt).acceptEdge := by
      simp only [State.flywheelEdge, State.advance_clock, hw]
    rw [hedge (State.closeOverdueWindow_open (s := s.advance dt) hw hpast), hfly]
    refine ⟨fun hrel => ?_, fun hrel => ?_⟩
    · rw [State.acceptEdge_counts (s := s.advance dt) hstate hrel, hnow, State.advance_clock, hn]
      rfl
    · rw [State.acceptEdge_locks (s := s.advance dt) hrel, hnow, State.advance_clock, hrelocked]
  case beat =>
    have hfly : (s.advance dt).flywheelEdge early = (s.advance dt).edgeAtBeat sb early := by
      simp only [State.flywheelEdge, State.advance_clock, hopen, hbeat]
    rw [hedge (State.closeOverdueWindow_none (s := s.advance dt) hopen), hfly]
    refine ⟨fun hout => ?_, fun hlo hhi hrel => ?_, fun hlo hhi hrel => ?_⟩
    · rw [State.edgeAtBeat_early (by rwa [hnow, State.advance_clock, hn])]
      rfl
    · rw [State.edgeAtBeat_beat (by rwa [hnow, State.advance_clock, hn]) (by rwa [hnow]),
        State.acceptEdge_counts (s := s.advance dt) hstate hrel, hnow, State.advance_clock, hn]
      refine ⟨_, rfl, ?_, ?_⟩
      · simp only [State.clock_deliverBeat, State.setClock_clock, hopen]
      · rw [State.clock_deliverBeat]
        have hout := State.deliverBeat_outcome (s := (s.advance dt).setClock { s.clock with
          nextBeat := some (s.timer.now + dt + n), openWindow := none, relock := s.clock.relock + 1
          emptyWindows := 0 }) n early
        exact ⟨hout.1, fun hrun hg => hout.2 hrun (hnow.symm ▸ hg)⟩
    · rw [State.edgeAtBeat_beat (by rwa [hnow, State.advance_clock, hn]) (by rwa [hnow]), State.advance_clock, hn]
      have hacc := State.acceptEdge_locks (s := s.advance dt) hrel
      rw [hnow, State.advance_clock, hrelocked] at hacc
      have htimer : (s.advance dt).acceptEdge.timer.now = s.timer.now + dt := by rw [hacc]; exact hnow
      have hpart : (s.advance dt).acceptEdge.part = s.part := by rw [hacc]; rfl
      refine ⟨(s.advance dt).acceptEdge, hacc, fun hrun => ?_, fun hrun hg => ?_⟩
      · rw [State.deliverBeat_notRunning (hpart ▸ hrun)]
      · rw [State.deliverBeat_due (hpart ▸ hrun) (by rwa [htimer, hpart])]

/-! #### The close of an acceptance window -/

/-- An empty window counts up to 16, and outside RUNNING the 16th in a row gives up the schedule (R5, R7). -/
theorem State.windowClosed_eq (s : State) : s.windowClosed =
    if s.part.state ≠ .running ∧ 15 ≤ s.clock.emptyWindows then s.changeClock Clock.initial .stale
    else s.setClock
      { s.clock with relock := 0, openWindow := none, emptyWindows := min 16 (s.clock.emptyWindows + 1) } := by
  have hcount : (if s.clock.emptyWindows < 16 then s.clock.emptyWindows + 1 else 16)
      = min 16 (s.clock.emptyWindows + 1) := by
    split <;> omega
  have hmany : 16 ≤ min 16 (s.clock.emptyWindows + 1) ↔ 15 ≤ s.clock.emptyWindows := by omega
  unfold State.windowClosed
  rw [hcount]
  simp only [hmany]

/-- Settles O15, by whether the close is due, and by whether it gives up the schedule. -/
theorem acceptanceWindowClose : Obligations.AcceptanceWindowClose := by
  intro dt s w n hclk hstate hopen hnom
  have hnow := State.now_advance_running hclk dt
  have hn : s.clock.n = n := Clock.n_of_some hnom
  have hdue : (s.advance dt).windowCloseDueNow = decide (4 * w + n < 4 * (s.timer.now + dt)) := by
    simp [State.windowCloseDueNow, State.pastWindow, hclk, hstate, hopen, hn]
  have hexec : exec (.acceptanceWindowClose dt) s
      = .next (if (s.advance dt).windowCloseDueNow then (s.advance dt).windowClosed else s.advance dt) := rfl
  refine ⟨fun h => ?_, fun h => ?_⟩
  · rw [hexec, hdue, decide_eq_false (Nat.not_lt.2 h), if_neg Bool.false_ne_true]
  · rw [hexec, hdue, decide_eq_true h, if_pos rfl]
    refine ⟨fun hkeep => ?_, fun hrun hmany => ?_⟩
    · have hstays : ¬(s.part.state ≠ .running ∧ 15 ≤ s.clock.emptyWindows) := by
        rintro ⟨hnot, hmany⟩
        exact hkeep.elim hnot (Nat.not_lt.2 hmany)
      rw [State.windowClosed_eq, if_neg (by exact hstays)]
      rfl
    · rw [State.windowClosed_eq, if_pos (by exact ⟨hrun, hmany⟩)]
      simp only [State.changeClock, State.postClockChange, State.post, State.advance_clock, hstate]
      rfl

end Sys2Proof.Machine
end

section
/-! # REFCLK, Show Sync and the Takeover line (R13, R151, R152, R183)

While REFCLK stands still a timed row brings its steps at most once and no event of the timer is due. A taken Show Sync is
the start event, and a qualifying Takeover edge switches the sets that follow the line, each once. -/

namespace Sys2Proof.Machine

/-! ### The reference clock stands still (R183) -/

section
variable {s : State}

/-- In a stop the steps before it are counted once, and the count is held. -/
theorem State.advance_stopped (h : s.timer.refclkStopped = true) (dt : Nat) :
    s.advance dt = { s with timer :=
      { now := if s.timer.heldCounted = true then s.timer.now else s.timer.now + dt
        refclkStopped := true, heldCounted := true } } := by
  simp only [State.advance, h, Bool.true_and]

theorem State.assertInterrupt_false : s.assertInterrupt false = s := by
  simp [State.assertInterrupt]

theorem State.closeOverdueWindow_stopped (h : s.timer.refclkStopped = true) : s.closeOverdueWindow = s := by
  unfold State.closeOverdueWindow
  split
  · rfl
  · simp [h]

end

/-- Settles O8: in a stop no row finds an event due, so each leaves the state that only the held count changes. -/
theorem referenceClockStops : Obligations.ReferenceClockStops := by
  intro s
  refine ⟨?_, rfl, fun hstop dt early held hheld => ?_, fun hrun stopped m n hstopped => ?_⟩
  · simp only [exec, execRefclkStop]
  · rw [← State.advance_stopped hstop] at hheld
    subst hheld
    have hnot : (s.advance dt).timer.refclkStopped = true := hstop
    refine ⟨?_, ?_, ?_, ?_, ?_, ?_, fun hrst => ?_⟩
    · simp [exec, execBlockClockEdge, hstop, State.pulse]
    · simp [exec, execBlockClockEdge, hstop, State.pulse, State.drawn]
    · simp [exec, execClockLoss, State.lossDue, hstop]
    · simp [exec, execSynthesizedBeat, State.closeOverdueWindow_stopped hnot, State.beatDue, hstop]
    · simp [exec, execAcceptanceWindowClose, State.windowCloseDueNow, hstop]
    · simp only [exec, execCoalesceTimeout, hnot, Bool.not_true, Bool.and_false, State.assertInterrupt_false]
    · have hhigh : (s.advance dt).lines.resetLow = false := hrst
      simp only [exec, execTakeoverFallingEdge, State.unlessHeld_high hhigh, State.takeoverFalls, State.advance_lines]
  · subst hstopped
    simp [State.advance]

/-! ### Show Sync (R13) -/

section
variable (s : State)

/-- A loop over distinct groups that changes the health of each in one way. -/
theorem State.foldl_modifyHealth (f : GroupHealth → GroupHealth) : ∀ (gs : List Nat) (s : State), gs.Nodup →
    (gs.foldl (fun t g => t.modifyHealth g f) s
        = { s with health := (gs.foldl (fun t g => t.modifyHealth g f) s).health })
      ∧ ∀ h, (gs.foldl (fun t g => t.modifyHealth g f) s).healthOf h = if h ∈ gs then f (s.healthOf h) else s.healthOf h
  | [], _, _ => ⟨rfl, fun _ => by simp⟩
  | g :: gs, s, hn => by
    obtain ⟨hg, hgs⟩ := List.nodup_cons.1 hn
    obtain ⟨hframe, hread⟩ := State.foldl_modifyHealth f gs (s.modifyHealth g f) hgs
    refine ⟨hframe, fun h => ?_⟩
    rw [List.foldl_cons, hread h, State.healthOf_modifyHealth]
    by_cases hh : h = g
    · subst hh
      simp [hg]
    · simp [hh]

theorem State.nodup_definedGroups : s.definedGroups.Nodup := List.nodup_range.filter _

/-- The first windows begin, and nothing else changes (R120). -/
theorem State.beginWindows_eq : s.beginWindows = { s with health := s.beginWindows.health } :=
  (State.foldl_modifyHealth _ _ s s.nodup_definedGroups).1

theorem State.healthOf_beginWindows (g : Nat) : s.beginWindows.healthOf g
    = if g ∈ s.definedGroups then (s.healthOf g).firstWindow s.part.startBlock else s.healthOf g :=
  (State.foldl_modifyHealth _ _ s s.nodup_definedGroups).2 g

/-- No resolution moves the window of a group (R120). -/
theorem State.window_resolveMany (n g : Nat) : ((s.resolveMany n).healthOf g).window = (s.healthOf g).window := by
  refine State.Acts.keeps (fill := true) (win := false) (m := fun t => (t.healthOf g).window) (fun ht => ?_)
    (State.Acts.resolveMany rfl n (.refl s))
  cases ht with
  | health h f hw =>
    rw [State.healthOf_modifyHealth]
    split
    next hg => exact hg ▸ hw.resolve_left (by decide)
    next => rfl
  | _ => rfl

theorem State.health_requestStatus : s.requestStatus.health = s.health := by
  unfold State.requestStatus
  repeat' split
  all_goals rfl

theorem State.notices_requestStatus : s.requestStatus.notices = s.notices := by
  unfold State.requestStatus
  repeat' split
  all_goals rfl

end

/-- Outside QUIET a block's notice joins the queue with the current Period (R8, R175). -/
theorem State.post_outside_quiet {s : State} (h : s.part.state ≠ .quiet) (g : Option Nat) (r : Option Rig) (b : NoticeBody) :
    s.post g r b = { s with
      notices := s.notices.post { group := g, source := r, period := s.part.period, body := b } } := by
  simp only [State.post, if_neg h]

/-- Settles O16, by the part state and the clock state; the start event is taken apart act by act. -/
theorem showSyncStarts : Obligations.ShowSyncStarts := by
  refine ⟨fun dt s hrst => ?_, fun s k => ⟨rfl, rfl⟩⟩
  have hhigh : (s.advance dt).lines.resetLow = false := hrst
  have hexec : exec (.showSync dt true) s = .next (s.advance dt).syncEdge := by
    simp only [exec, execShowSync, State.pulseTaken, State.pulse, Bool.true_or, if_true, State.unlessHeld_high hhigh]
  refine ⟨fun hna => ?_, fun ha hnl => ?_, fun ha hl => ?_⟩
  · rw [hexec, State.syncEdge, if_neg (show ¬(s.advance dt).part.state = .armed from hna)]
  · rw [hexec, State.syncEdge, if_pos (show (s.advance dt).part.state = .armed from ha),
      if_neg (show ¬(s.advance dt).clock.state = .locked from hnl)]
    have hquiet : (s.advance dt).part.state ≠ .quiet := ha ▸ (by decide)
    rw [State.postClockChange, State.post_outside_quiet hquiet]
    rfl
  · have hstart : (s.advance dt).syncEdge = (s.advance dt).startShow := by
      rw [State.syncEdge, if_pos (show (s.advance dt).part.state = .armed from ha),
        if_pos (show (s.advance dt).clock.state = .locked from hl)]
    rw [hexec, hstart]
    generalize hu : (s.advance dt).startRunning.beginWindows = u
    generalize hv : u.resolveMany (s.resolver.resolveLead + 1) = v
    have hwindows : ∀ g, u.healthOf g = if g ∈ s.definedGroups
        then (s.healthOf g).firstWindow s.part.startBlock else s.healthOf g :=
      fun g => hu ▸ (s.advance dt).startRunning.healthOf_beginWindows g
    have hueq : u = { (s.advance dt).startRunning with health := u.health } :=
      hu ▸ (s.advance dt).startRunning.beginWindows_eq
    have hstill := State.still_resolveMany (s.resolver.resolveLead + 1) u
    rw [hv] at hstill
    have hback : v.backdrop = u.backdrop := congrArg Prod.fst hstill
    have hpart : v.part = u.part := congrArg Backdrop.part hback
    have hupart : u.part
        = { s.part with state := .running, startGuard := true, startInstant := (s.advance dt).timer.now } :=
      congrArg State.part hueq
    have hscene : u.sup = s.sup ∧ u.clock = s.clock ∧ u.mem = s.mem
        ∧ u.resolver.resolveFront = s.resolver.resolveFront := by
      rw [hueq]
      exact ⟨rfl, rfl, rfl, rfl⟩
    obtain ⟨husup, huclock, humem, hufront⟩ := hscene
    have hsup : v.sup = s.sup := (congrArg Backdrop.sup hback).trans husup
    have hrun : v.part.state ≠ .quiet := by
      rw [hpart, hupart]
      exact nofun
    have hshow : (s.advance dt).startShow = ({ v with
        notices := v.notices.post
          { group := none, source := none, period := s.part.period
            body := .showStarted s.part.startBlock (s.clock.nominal.getD 0) } } : State).requestStatus := by
      have hperiod : v.part.period = s.part.period := by rw [hpart, hupart]
      unfold State.startShow
      rw [hu, State.advance_resolver, hv]
      dsimp only
      rw [State.post_outside_quiet hrun, hperiod]
      rfl
    refine ⟨u, v, _, _, rfl, hueq, fun g hg => ?_, fun g hg => ?_, hv.symm, rfl, hshow, ?_, ?_, ?_, ?_, ?_, fun g hg => ?_,
      fun a hanchor hidle htake => ?_, fun a hanchor hwriting => ?_⟩
    · rw [hwindows, if_neg hg]
    · rw [hwindows, if_pos hg]
      rfl
    · rw [hshow]
      exact (congrArg Backdrop.part (State.scene_requestStatus _)).trans hpart
    · rw [hshow]
      exact (congrArg Backdrop.clock (State.scene_requestStatus _)).trans
        ((congrArg Backdrop.clock hback).trans huclock)
    · rw [hshow]
      exact (congrArg Backdrop.mem (State.scene_requestStatus _)).trans
        ((congrArg Backdrop.mem hback).trans humem)
    · rw [hshow, State.notices_requestStatus]
    · rw [hshow, State.resolveFront_requestStatus]
      exact (congrArg Prod.snd hstill).trans
        (congrArg (fun n => n + (s.resolver.resolveLead + 1)) hufront)
    · have hmoved : ((s.advance dt).startShow.healthOf g).window = (u.healthOf g).window := by
        rw [hshow, State.healthOf, State.health_requestStatus, ← hv]
        exact u.window_resolveMany _ g
      rw [hwindows, if_pos hg] at hmoved
      exact ⟨congrArg Prod.fst hmoved, congrArg Prod.snd hmoved⟩
    · rw [hshow, State.requestStatus_begins (s := { v with notices := _ }) (hsup ▸ hanchor) (hsup ▸ hidle) (hsup ▸ htake),
        ← hsup]
      exact ⟨rfl, _, rfl, rfl, rfl⟩
    · rw [hshow, State.requestStatus_kept (s := { v with notices := _ }) (hsup ▸ hanchor) (hsup ▸ hwriting), ← hsup]
      rfl

end Sys2Proof.Machine
end

section
/-! # The Switchover Controller (R136 to R152)

A switch changes the Group Records of its set, the notices and then the tallies, and nothing else. Each operation of the
controller is stated by what it writes: to the records of the members it names, and to the notices in the order of the
members. The evaluation is stated by the lowest member that a trigger or a failing condition names. -/

namespace Sys2Proof.Machine

/-! ### What a switch can change -/

/-- Only the Group Records and the notices differ. -/
def State.Regrouped (s t : State) : Prop := t = { s with groups := t.groups, notices := t.notices }

section
variable {s t u : State}

theorem State.Regrouped.refl (s : State) : s.Regrouped s := rfl

theorem State.Regrouped.trans (h : s.Regrouped t) (h' : t.Regrouped u) : s.Regrouped u := by
  unfold State.Regrouped at h h' ⊢
  rw [h] at h'
  exact h'

theorem State.Regrouped.modifyGroup (h : s.Regrouped t) (g : Nat) (f : GroupRecord → GroupRecord) :
    s.Regrouped (t.modifyGroup g f) := h.trans rfl

theorem State.Regrouped.post (h : s.Regrouped t) (g : Option Nat) (r : Option Rig) (b : NoticeBody) :
    s.Regrouped (t.post g r b) := h.trans rfl

theorem State.Regrouped.foldl {f : State → Nat → State} (hf : ∀ (t : State) (g : Nat), t.Regrouped (f t g)) :
    ∀ (ms : List Nat) {t : State}, s.Regrouped t → s.Regrouped (ms.foldl f t)
  | [], _, h => h
  | g :: ms, t, h => State.Regrouped.foldl hf ms (h.trans (hf t g))

theorem State.Regrouped.eq (h : s.Regrouped t) : t = { s with groups := t.groups, notices := t.notices } := h

theorem State.Regrouped.part (h : s.Regrouped t) : t.part = s.part := by rw [h.eq]
theorem State.Regrouped.resolver (h : s.Regrouped t) : t.resolver = s.resolver := by rw [h.eq]
theorem State.Regrouped.sup (h : s.Regrouped t) : t.sup = s.sup := by rw [h.eq]
theorem State.Regrouped.lines (h : s.Regrouped t) : t.lines = s.lines := by rw [h.eq]
theorem State.Regrouped.health (h : s.Regrouped t) : t.health = s.health := by rw [h.eq]

theorem State.Regrouped.rigOf (h : s.Regrouped t) (r : Role) : t.rigOf r = s.rigOf r := by
  rw [State.rigOf, h.sup, State.rigOf]

end

section
variable (s : State)

theorem State.regrouped_setWithheld (ms : List Nat) (v : Bool) : s.Regrouped (s.setWithheld ms v) :=
  State.Regrouped.foldl (fun t m => (State.Regrouped.refl t).modifyGroup m _) ms (.refl s)

/-- A loop that does to each group what doing it twice does. -/
theorem State.group_setWithheld (v : Bool) (h : Nat) : ∀ (ms : List Nat) (s : State), (s.setWithheld ms v).group h
    = if h ∈ ms then { s.group h with withheldReported := v } else s.group h
  | [], s => by simp [State.setWithheld]
  | m :: ms, s => by
    rw [show s.setWithheld (m :: ms) v = (s.modifyGroup m (fun gr => { gr with withheldReported := v })).setWithheld ms v
      from rfl, State.group_setWithheld v h ms, State.group_modifyGroup]
    by_cases hm : h = m
    · subst hm
      simp
    · simp [hm]

theorem State.notices_setWithheld (ms : List Nat) (v : Bool) : (s.setWithheld ms v).notices = s.notices :=
  
  foldl_keeps State.notices (fun t m => t.modifyGroup m (fun gr => { gr with withheldReported := v })) (fun _ _ => rfl) ms s

/-- Each tally is lit while a defined group has its role as target (R153). -/
theorem State.tallyOf_eq (r : Role) :
    s.tallyOf r = (List.range 8).any (fun g => (s.group g).defined && (s.group g).targetRole == r) := by
  rw [State.tallyOf, State.definedGroups, List.any_filter]

/-! ### The switch of a member (R137) -/

theorem State.switchLength_eq (g : Nat) (fade : Bool) :
    s.switchLength g fade = if fade = true ∧ s.part.state ≠ .armed then (s.group g).fadeLength else 0 := by
  simp [State.switchLength]

theorem State.regrouped_switchMember (r : Role) (fade : Bool) (cause : SwitchCause) (g : Nat) :
    s.Regrouped (s.switchMember r fade cause g) := by
  unfold State.switchMember
  dsimp only
  split
  · exact (((State.Regrouped.refl s).modifyGroup _ _).post _ _ _).post _ _ _
  · exact ((State.Regrouped.refl s).modifyGroup _ _).post _ _ _

theorem State.group_switchMember (r : Role) (fade : Bool) (cause : SwitchCause) (g h : Nat) :
    (s.switchMember r fade cause g).group h
      = if h = g then (s.group g).switched r (s.switchLength g fade) cause s.resolver.resolveFront else s.group h := by
  rw [← State.group_modifyGroup s g h (fun gr => gr.switched r (s.switchLength g fade) cause s.resolver.resolveFront)]
  unfold State.switchMember
  dsimp only
  split <;> rfl

/-- The notices of a member's switch: SwitchStarted, and with length 0 SwitchFinished behind it (R137, R154). -/
def State.switchNotices (r : Role) (cause : SwitchCause) (g l : Nat) (u : NoticeUnit) : NoticeUnit :=
  let started := u.post { group := some g, source := some (s.rigOf r), period := s.part.period
                          body := .switchStarted (s.group g).targetRole r cause l s.resolver.resolveFront
                            (s.group g).linkSet (sat16 (s.group g).switchCount) }
  if l = 0 then started.post { group := some g, source := some (s.rigOf r), period := s.part.period
                               body := .switchFinished r .immediate cause s.resolver.resolveFront }
  else started

theorem State.notices_postSwitchFinished (hq : s.part.state ≠ .quiet) (g : Nat) (e : SwitchEnding) :
    (s.postSwitchFinished g e).notices = s.notices.post
      { group := some g, source := some (s.rigOf (s.group g).targetRole), period := s.part.period
        body := .switchFinished (s.group g).targetRole e (s.group g).lastSwitchCause
          ((s.group g).lastSwitchPoint.getD 0) } :=
  congrArg State.notices (State.post_outside_quiet hq _ _ _)

theorem State.notices_postSwitchStarted (hq : s.part.state ≠ .quiet) (g : Nat) (old : Role) (l : Nat) :
    (s.postSwitchStarted g old l).notices = s.notices.post
      { group := some g, source := some (s.rigOf (s.group g).targetRole), period := s.part.period
        body := .switchStarted old (s.group g).targetRole (s.group g).lastSwitchCause l (s.group g).switchPoint
          (s.group g).linkSet (s.group g).switchCount } :=
  congrArg State.notices (State.post_outside_quiet hq _ _ _)

theorem State.notices_switchMember (hq : s.part.state ≠ .quiet) (r : Role) (fade : Bool) (cause : SwitchCause) (g : Nat) :
    (s.switchMember r fade cause g).notices = s.switchNotices r cause g (s.switchLength g fade) s.notices := by
  unfold State.switchMember State.switchNotices
  dsimp only
  generalize s.switchLength g fade = l
  have hself : (s.modifyGroup g (fun gr => gr.switched r l cause s.resolver.resolveFront)).group g
      = (s.group g).switched r l cause s.resolver.resolveFront := by
    rw [State.group_modifyGroup, if_pos rfl]
  have hstarted := State.notices_postSwitchStarted
    (s.modifyGroup g (fun gr => gr.switched r l cause s.resolver.resolveFront)) hq g (s.group g).targetRole l
  rw [hself] at hstarted
  split
  next hl =>
    have hself' : ((s.modifyGroup g (fun gr => gr.switched r l cause s.resolver.resolveFront)).postSwitchStarted g
        (s.group g).targetRole l).group g = (s.group g).switched r l cause s.resolver.resolveFront := hself
    have hpoint : ((s.group g).switched r l cause s.resolver.resolveFront).lastSwitchPoint
        = some s.resolver.resolveFront := if_pos hl
    rw [State.notices_postSwitchFinished _ (by exact hq), hself', hstarted, hpoint]
    rfl
  next hl => exact hstarted

/-! ### The switch of a set (R137) -/

/-- What a switch leaves in the record of a member (R137). -/
def GroupRecord.setSwitched (gr : GroupRecord) (r : Role) (l : Nat) (cause : SwitchCause) (x : Nat) : GroupRecord :=
  { gr.switched r l cause x with withheldReported := false }

theorem State.regrouped_switchMembers (ms : List Nat) (r : Role) (fade : Bool) (cause : SwitchCause) :
    s.Regrouped (ms.foldl (fun t m => t.switchMember r fade cause m) s) :=
  State.Regrouped.foldl (fun t g => t.regrouped_switchMember r fade cause g) ms (.refl s)

theorem State.group_switchMembers {ms : List Nat} (hn : ms.Nodup) (r : Role) (fade : Bool) (cause : SwitchCause) (h : Nat) :
    (ms.foldl (fun t m => t.switchMember r fade cause m) s).group h = if h ∈ ms
      then (s.group h).switched r (s.switchLength h fade) cause s.resolver.resolveFront else s.group h := by
  have hfold := foldl_group (fun t m => t.switchMember r fade cause m)
    (fun gr _ => gr.switched r (if fade = true ∧ s.part.state ≠ .armed then gr.fadeLength else 0) cause
      s.resolver.resolveFront)
    (fun t => s.Regrouped t) (fun t g ht => ht.trans (t.regrouped_switchMember r fade cause g))
    (fun t g h ht => by
      rw [State.group_switchMember, State.switchLength_eq, ht.part, ht.resolver]) ms s hn (.refl s) h
  rw [hfold, State.switchLength_eq]

/-- The members post in their order, each the notices of its own switch. -/
theorem State.notices_switchMembers (r : Role) (fade : Bool) (cause : SwitchCause) (hq : s.part.state ≠ .quiet) :
    ∀ (ms : List Nat) (t : State), s.Regrouped t → ms.Nodup → (∀ g ∈ ms, t.group g = s.group g) →
      (ms.foldl (fun t m => t.switchMember r fade cause m) t).notices
        = ms.foldl (fun u g => s.switchNotices r cause g (s.switchLength g fade) u) t.notices
  | [], _, _, _, _ => rfl
  | g :: ms, t, ht, hn, hms => by
    obtain ⟨hg, hnodup⟩ := List.nodup_cons.1 hn
    have hself := hms g List.mem_cons_self
    have hlength : t.switchLength g fade = s.switchLength g fade := by
      rw [State.switchLength_eq, State.switchLength_eq, ht.part, hself]
    have hnotices : (t.switchMember r fade cause g).notices
        = s.switchNotices r cause g (s.switchLength g fade) t.notices := by
      rw [State.notices_switchMember t (ht.part ▸ hq), hlength]
      simp only [State.switchNotices, ht.rigOf, ht.part, ht.resolver, hself]
    rw [List.foldl_cons, List.foldl_cons, State.notices_switchMembers r fade cause hq ms _
      (ht.trans (t.regrouped_switchMember r fade cause g)) hnodup, hnotices]
    intro m hm
    have hne : m ≠ g := fun h => hg (h ▸ hm)
    rw [State.group_switchMember, if_neg hne, hms m (List.mem_cons_of_mem _ hm)]

theorem State.notices_post_quiet {t : State} (hq : t.part.state = .quiet) (g : Option Nat) (r : Option Rig) (b : NoticeBody) :
    (t.post g r b).notices = t.notices := if_pos hq

/-- In QUIET no member posts. -/
theorem State.notices_switchMembers_quiet (hq : s.part.state = .quiet) (ms : List Nat) (r : Role) (fade : Bool)
    (cause : SwitchCause) : (ms.foldl (fun t m => t.switchMember r fade cause m) s).notices = s.notices := by
  suffices hmem : ∀ (ms : List Nat) (t : State), t.part.state = .quiet →
      (ms.foldl (fun t m => t.switchMember r fade cause m) t).notices = t.notices from hmem ms s hq
  intro ms
  induction ms with
  | nil => exact fun _ _ => rfl
  | cons g ms ih =>
    intro t ht
    have hpart : (t.switchMember r fade cause g).part.state = .quiet :=
      (t.regrouped_switchMember r fade cause g).part ▸ ht
    rw [List.foldl_cons, ih _ hpart]
    unfold State.switchMember
    dsimp only
    split
    · rw [State.postSwitchFinished, State.notices_post_quiet (by exact ht), State.postSwitchStarted,
        State.notices_post_quiet (by exact ht)]
      rfl
    · rw [State.postSwitchStarted, State.notices_post_quiet (by exact ht)]
      rfl

theorem State.group_switchSet {ms : List Nat} (hn : ms.Nodup) (r : Role) (fade : Bool) (cause : SwitchCause) (h : Nat) :
    (s.switchSet ms r fade cause).group h = if h ∈ ms
      then (s.group h).setSwitched r (s.switchLength h fade) cause s.resolver.resolveFront else s.group h := by
  rw [State.switchSet, show ∀ t : State, t.setTallies.group h = t.group h from fun _ => rfl, State.group_setWithheld,
    State.group_switchMembers s hn]
  split <;> rfl

/-- A switch changes the records, the notices and the tallies. -/
theorem State.switchSet_eq (ms : List Nat) (r : Role) (fade : Bool) (cause : SwitchCause) :
    s.switchSet ms r fade cause = { s with
      groups := (s.switchSet ms r fade cause).groups
      notices := (s.switchSet ms r fade cause).notices
      lines := (s.switchSet ms r fade cause).lines } := by
  have hframe := (s.regrouped_switchMembers ms r fade cause).trans (State.regrouped_setWithheld _ ms false)
  unfold State.switchSet
  generalize (ms.foldl (fun t m => t.switchMember r fade cause m) s).setWithheld ms false = t at hframe ⊢
  rw [hframe.eq]
  rfl

theorem State.notices_switchSet (ms : List Nat) (r : Role) (fade : Bool) (cause : SwitchCause) :
    (s.switchSet ms r fade cause).notices = (ms.foldl (fun t m => t.switchMember r fade cause m) s).notices :=
  State.notices_setWithheld _ ms false

theorem State.lines_switchSet (ms : List Nat) (r : Role) (fade : Bool) (cause : SwitchCause) :
    (s.switchSet ms r fade cause).lines = { s.lines with
      tallyMain := (s.switchSet ms r fade cause).tallyOf .main
      tallyBackup := (s.switchSet ms r fade cause).tallyOf .backup } := by
  have hlines := ((s.regrouped_switchMembers ms r fade cause).trans (State.regrouped_setWithheld _ ms false)).lines
  exact congrArg (fun l : Lines => { l with
    tallyMain := (s.switchSet ms r fade cause).tallyOf .main
    tallyBackup := (s.switchSet ms r fade cause).tallyOf .backup }) hlines

end

end Sys2Proof.Machine
end

section
/-! # Cuts, the evaluation of a set and the Takeover line (R138 to R152) -/

namespace Sys2Proof.Machine

/-! ### The evaluation (R140 to R144) -/

/-- In a rising list the lowest member with a property is the first that is found. -/
theorem find?_lowest {p : Nat → Bool} {f : Nat} : ∀ {ms : List Nat}, ms.Pairwise (· < ·) → f ∈ ms → p f = true →
    (∀ m ∈ ms, m < f → p m = false) → ms.find? p = some f
  | [], _, hf, _, _ => absurd hf List.not_mem_nil
  | m :: ms, hs, hf, hp, hlow => by
    obtain ⟨hm, hs⟩ := List.pairwise_cons.1 hs
    rcases List.mem_cons.1 hf with rfl | hf
    · rw [List.find?_cons_of_pos hp]
    · have hnot : ¬p m = true := by rw [hlow m List.mem_cons_self (hm f hf)]; decide
      rw [List.find?_cons_of_neg hnot, find?_lowest hs hf hp fun x hx => hlow x (List.mem_cons_of_mem _ hx)]

theorem SelectState.on_eq (r : Role) : SelectState.on r = if r = .main then .onMain else .onBackup := by cases r <;> rfl

theorem SelectState.fading_on (r : Role) : (SelectState.on r).fading = false := by cases r <;> rfl

section
variable {s : State} {g : Nat}

/-- The members of a set ascend. -/
theorem State.members_ascend (s : State) (g : Nat) : (s.members g).Pairwise (· < ·) := by
  unfold State.members
  split
  · exact List.pairwise_singleton _ _
  · exact (List.pairwise_lt_range.filter _).filter _

theorem State.nodup_members (s : State) (g : Nat) : (s.members g).Nodup :=
  (s.members_ascend g).imp Nat.ne_of_lt

theorem State.allIn_iff (s : State) (ms : List Nat) (st : SelectState) :
    s.allIn ms st = true ↔ ∀ m ∈ ms, (s.group m).selectState = st := by
  simp [State.allIn]

theorem State.anyFading_iff (s : State) (ms : List Nat) :
    s.anyFading ms = true ↔ ∃ m ∈ ms, (s.group m).selectState.fading = true := by
  simp [State.anyFading]

/-- A set whose members all stand ON one role does not fade. -/
theorem State.anyFading_of_allOn {ms : List Nat} {r : Role} (h : ∀ m ∈ ms, (s.group m).selectState = .on r) :
    s.anyFading ms = false := by
  rw [Bool.eq_false_iff, Ne, State.anyFading_iff]
  rintro ⟨m, hm, hfade⟩
  rw [h m hm, SelectState.fading_on] at hfade
  cases hfade

theorem State.evaluate_fading (h : ∃ m ∈ s.members g, (s.group m).selectState.fading = true) : s.evaluate g = s := by
  rw [State.evaluate, if_pos ((s.anyFading_iff _).2 h)]

/-- The lowest member whose rig failed triggers the switch to the other role (R141, R142). -/
theorem State.evaluate_triggered {r : Role} {f : Nat} (hon : ∀ m ∈ s.members g, (s.group m).selectState = .on r.other)
    (hf : f ∈ s.members g) (hfail : s.verdict f r.other = .failed)
    (hlow : ∀ m ∈ s.members g, m < f → s.verdict m r.other ≠ .failed) :
    s.evaluate g = s.automaticSwitch (s.members g) f r (if r = .backup then .verdict else .return) := by
  have hfading : ¬s.anyFading (s.members g) = true := by rw [State.anyFading_of_allOn hon]; decide
  have hfound : (s.members g).find? (fun m => s.verdict m r.other == .failed) = some f :=
    find?_lowest (s.members_ascend g) hf (by simp [hfail]) (fun m hm hlt => by simpa using hlow m hm hlt)
  rw [State.evaluate, if_neg hfading]
  cases r with
  | backup =>
    have hall : s.allIn (s.members g) .onMain = true := (s.allIn_iff _ _).2 hon
    rw [if_pos hall]
    simp only [Role.other] at hfound
    rw [hfound]
    rfl
  | main =>
    have hnot : ¬s.allIn (s.members g) .onMain = true := by
      rw [State.allIn_iff]
      intro hmain
      exact absurd ((hon f hf).symm.trans (hmain f hf)) nofun
    rw [if_neg hnot]
    simp only [Role.other] at hfound
    rw [hfound]
    rfl

/-- ON_MAIN without a trigger (R144). -/
theorem State.evaluate_calm (h : ∀ m ∈ s.members g, (s.group m).selectState = .onMain ∧ s.verdict m .main ≠ .failed) :
    s.evaluate g = s.setWithheld (s.members g) false := by
  have hon : ∀ m ∈ s.members g, (s.group m).selectState = .on .main := fun m hm => (h m hm).1
  have hfading : ¬s.anyFading (s.members g) = true := by rw [State.anyFading_of_allOn hon]; decide
  have hfound : (s.members g).find? (fun m => s.verdict m .main == .failed) = none := by
    simpa using fun m hm => (h m hm).2
  have hall : s.allIn (s.members g) .onMain = true := (s.allIn_iff _ _).2 hon
  rw [State.evaluate, if_neg hfading, if_pos hall, hfound]

/-- ON_BACKUP without a trigger: the set returns where every member allows it (R143). -/
theorem State.evaluate_return (hne : s.members g ≠ [])
    (h : ∀ m ∈ s.members g, (s.group m).selectState = .onBackup ∧ s.verdict m .backup ≠ .failed) :
    s.evaluate g = if s.autoReturnDue (s.members g) = true
      then (s.setWithheld (s.members g) false).switchSet (s.members g) .main true .return
      else s.setWithheld (s.members g) false := by
  have hon : ∀ m ∈ s.members g, (s.group m).selectState = .on .backup := fun m hm => (h m hm).1
  have hfading : ¬s.anyFading (s.members g) = true := by rw [State.anyFading_of_allOn hon]; decide
  have hfound : (s.members g).find? (fun m => s.verdict m .backup == .failed) = none := by
    simpa using fun m hm => (h m hm).2
  have hnot : ¬s.allIn (s.members g) .onMain = true := by
    rw [State.allIn_iff]
    intro hmain
    obtain ⟨m, hm⟩ := List.exists_mem_of_ne_nil _ hne
    exact absurd ((hon m hm).symm.trans (hmain m hm)) nofun
  rw [State.evaluate, if_neg hfading, if_neg hnot, hfound]

theorem State.autoReturnDue_iff (ms : List Nat) : s.autoReturnDue ms = true ↔
    ∀ m ∈ ms, (s.group m).autoReturn = true ∧ (s.group m).hold = false ∧ s.verdict m .main = .sound
      ∧ (s.healthOf m).agreement.verdict = .agreed := by
  simp [State.autoReturnDue, and_assoc]

/-! #### The failing condition -/

variable {ms : List Nat} {r : Role}

theorem State.failingCondition_none (h : ∀ m ∈ ms, (s.group m).hold = false
    ∧ (s.healthOf m).agreement.verdict ≠ .diverged ∧ s.verdict m r = .sound) : s.failingCondition ms r = none := by
  have hheld : ms.find? (fun m => (s.group m).hold) = none := by simpa using fun m hm => (h m hm).1
  have hdiv : ms.find? (fun m => (s.healthOf m).agreement.verdict == .diverged) = none := by
    simpa using fun m hm => (h m hm).2.1
  have hsound : ms.find? (fun m => s.verdict m r != .sound) = none := by simpa using fun m hm => (h m hm).2.2
  simp only [State.failingCondition, hheld, hdiv, hsound]

/-- The first reason that some member fails, with the lowest such member (R144). -/
theorem State.failingCondition_some {why : WithheldReason} {x : Nat} (hs : ms.Pairwise (· < ·)) (hx : x ∈ ms)
    (h : (why = .held ∧ (s.group x).hold = true ∧ ∀ m ∈ ms, m < x → (s.group m).hold = false)
      ∨ (why = .diverged ∧ (∀ m ∈ ms, (s.group m).hold = false)
          ∧ (s.healthOf x).agreement.verdict = .diverged
          ∧ ∀ m ∈ ms, m < x → (s.healthOf m).agreement.verdict ≠ .diverged)
      ∨ (why = (if r = .backup then .backupNotSound else .mainNotSound)
          ∧ (∀ m ∈ ms, (s.group m).hold = false ∧ (s.healthOf m).agreement.verdict ≠ .diverged)
          ∧ s.verdict x r ≠ .sound ∧ ∀ m ∈ ms, m < x → s.verdict m r = .sound)) :
    s.failingCondition ms r = some (why, x) := by
  rcases h with ⟨rfl, hhold, hlow⟩ | ⟨rfl, hnone, hdiv, hlow⟩ | ⟨rfl, hnone, hbad, hlow⟩
  · have hheld : ms.find? (fun m => (s.group m).hold) = some x := find?_lowest hs hx hhold hlow
    simp only [State.failingCondition, hheld]
  · have hheld : ms.find? (fun m => (s.group m).hold) = none := by simpa using hnone
    have hdiverged : ms.find? (fun m => (s.healthOf m).agreement.verdict == .diverged) = some x :=
      find?_lowest hs hx (by simp [hdiv]) (fun m hm hlt => by simpa using hlow m hm hlt)
    simp only [State.failingCondition, hheld, hdiverged]
  · have hheld : ms.find? (fun m => (s.group m).hold) = none := by simpa using fun m hm => (hnone m hm).1
    have hdiverged : ms.find? (fun m => (s.healthOf m).agreement.verdict == .diverged) = none := by
      simpa using fun m hm => (hnone m hm).2
    have hsound : ms.find? (fun m => s.verdict m r != .sound) = some x :=
      find?_lowest hs hx (by simpa using hbad) (fun m hm hlt => by simpa using hlow m hm hlt)
    simp only [State.failingCondition, hheld, hdiverged, hsound]

end

/-! ### Cuts and fade ends (R138, R139) -/

section
variable (s : State)

theorem State.regrouped_cutMember (r : Role) (cause : SwitchCause) (g : Nat) : s.Regrouped (s.cutMember r cause g) := by
  unfold State.cutMember
  split
  · exact .refl s
  · split
    · exact ((State.Regrouped.refl s).modifyGroup _ _).post _ _ _
    · exact s.regrouped_switchMember _ _ _ _

theorem State.group_modifyGroup_finished (g h : Nat) (f : GroupRecord → GroupRecord) (e : SwitchEnding) :
    ((s.modifyGroup g f).postSwitchFinished g e).group h = if h = g then f (s.group g) else s.group h :=
  s.group_modifyGroup g h f

theorem State.group_cutShort (r : Role) (g h : Nat) : (s.cutShort r g).group h
    = if h = g then { s.group g with selectState := .on r, lastSwitchPoint := some s.resolver.resolveFront }
      else s.group h := by
  rw [State.cutShort, State.group_modifyGroup_finished]

theorem State.group_cutMember_other (r : Role) (cause : SwitchCause) {g h : Nat} (hne : h ≠ g) :
    (s.cutMember r cause g).group h = s.group h := by
  unfold State.cutMember
  split
  · rfl
  · split
    · rw [State.group_cutShort, if_neg hne]
    · rw [State.group_switchMember, if_neg hne]

theorem State.cutMember_fading {r : Role} {g : Nat} (h : (s.group g).selectState = .to r) (cause : SwitchCause) :
    s.cutMember r cause g = s.cutShort r g := by
  have hnot : ¬(s.group g).selectState = .on r := by
    rw [h]
    cases r <;> exact nofun
  rw [State.cutMember, if_neg hnot, if_pos h]

/-- A cut that ends a fade posts it CutShort, in the role and with the cause of the switch it ends (R139, R154). -/
theorem State.notices_cutShort (hq : s.part.state ≠ .quiet) (r : Role) (g : Nat) :
    (s.cutShort r g).notices = s.notices.post
      { group := some g, source := some (s.rigOf (s.group g).targetRole), period := s.part.period
        body := .switchFinished (s.group g).targetRole .cutShort (s.group g).lastSwitchCause
          s.resolver.resolveFront } := by
  have hself := s.group_modifyGroup g g
    (fun gr => { gr with selectState := .on r, lastSwitchPoint := some s.resolver.resolveFront })
  rw [if_pos rfl] at hself
  rw [State.cutShort, State.notices_postSwitchFinished _ (by exact hq), hself]
  rfl

theorem State.switchLength_cut (g : Nat) : s.switchLength g false = 0 := rfl

/-- The fade of group `g` ends as its last block is resolved (R138). -/
theorem State.fadeEndReport_due {g n : Nat} (hf : (s.group g).selectState.fading = true)
    (hn : n + 1 = (s.group g).fadeEnd) : s.fadeEndReport g n
      = ((s.modifyGroup g (fun gr =>
          { gr with selectState := .on gr.targetRole, lastSwitchPoint := some gr.fadeEnd })).postSwitchFinished g
            .faded).evaluate g := if_pos ⟨hf, hn⟩

/-- The switch that a trigger asks for is withheld: once for the set (R144). -/
theorem State.automaticSwitch_withheld {ms : List Nat} {r : Role} {why : WithheldReason} {x : Nat}
    (h : s.failingCondition ms r = some (why, x)) (f : Nat) (cause : SwitchCause) :
    s.automaticSwitch ms f r cause = s.withhold ms f r why x := by
  simp only [State.automaticSwitch, h]

end

theorem State.Regrouped.eq_of {s t : State} {u : NoticeUnit} (h : s.Regrouped t) (hn : t.notices = u) :
    t = { s with groups := t.groups, notices := u } := hn ▸ h

/-- A switch of a set, as its statement in the obligation spells it. -/
theorem State.switchSet_spec (s : State) (ms : List Nat) (r : Role) (fade : Bool) (cause : SwitchCause) (len : Nat → Nat)
    (started finished : Nat → Notice) (hn : ms.Nodup)
    (hlen : ∀ g, len g = (if fade = true ∧ s.part.state ≠ .armed then (s.group g).fadeLength else 0))
    (hstarted : ∀ g, started g =
      { group := some g, source := some (s.rigOf r), period := s.part.period
        body := .switchStarted (s.group g).targetRole r cause (len g) s.resolver.resolveFront
          (s.group g).linkSet (sat16 (s.group g).switchCount) })
    (hfinished : ∀ g, finished g =
      { group := some g, source := some (s.rigOf r), period := s.part.period
        body := .switchFinished r .immediate cause s.resolver.resolveFront }) :
    (s.switchSet ms r fade cause).notices = (if s.part.state = .quiet then s.notices else ms.foldl (fun u g =>
        if len g = 0 then (u.post (started g)).post (finished g) else u.post (started g)) s.notices) := by
  rw [State.notices_switchSet]
  split
  next hq => exact s.notices_switchMembers_quiet hq ms r fade cause
  next hq =>
    rw [s.notices_switchMembers r fade cause hq ms s (.refl s) hn (fun _ _ => rfl)]
    congr 1
    funext u g
    rw [hstarted, hfinished, hlen, ← State.switchLength_eq]
    rfl


/-- The cut of a set, as its statement in the obligation spells it. -/
theorem State.cutSet_eq (s cut cleared tallied : State) (r : Role) (cause : SwitchCause) (g : Nat)
    (hcut : cut = (s.members g).foldl (fun t m => t.cutMember r cause m) s)
    (hcleared : cleared = (if (s.members g).all
        (fun m => (s.group m).selectState == .on r || (s.group m).selectState == .to r) = true then cut
      else cut.setWithheld (s.members g) false))
    (htallied : tallied = { cleared with
      lines := { s.lines with
        tallyMain := (List.range 8).any (fun m => (cleared.group m).defined && (cleared.group m).targetRole == .main)
        tallyBackup :=
          (List.range 8).any (fun m => (cleared.group m).defined && (cleared.group m).targetRole == .backup) } }) :
    s.cutSet r cause g = (if (s.members g).any (fun m => (s.group m).selectState.fading) = true
      then tallied.evaluate g else tallied) := by
  have hframe : s.Regrouped cut :=
    hcut ▸ State.Regrouped.foldl (fun t m => t.regrouped_cutMember r cause m) _ (.refl s)
  have hlines : cleared.lines = s.lines := by
    rw [hcleared]
    split
    · exact hframe.lines
    · exact (hframe.trans (cut.regrouped_setWithheld _ _)).lines
  have hset : tallied = cleared.setTallies := by
    rw [htallied, ← hlines, ← State.tallyOf_eq, ← State.tallyOf_eq]
    rfl
  have hnone : (s.members g).any (fun m => (s.group m).switchesTo r)
      = !(s.members g).all (fun m => (s.group m).selectState == .on r || (s.group m).selectState == .to r) := by
    rw [← Bool.not_inj_iff, Bool.not_not, List.not_any_eq_all_not]
    congr 1
    funext m
    simp [GroupRecord.switchesTo, bne]
  have hcl : cleared = if (s.members g).any (fun m => (s.group m).switchesTo r) = true
      then cut.setWithheld (s.members g) false else cut := by
    rw [hcleared, hnone]
    cases (s.members g).all (fun m => (s.group m).selectState == .on r || (s.group m).selectState == .to r) <;> rfl
  rw [hset, hcl, hcut]
  rfl

/-- Settles O17: the switch of a set, the cut of a member and of a set, the clearing of WithheldReported, the evaluation, and
the end of a fade, each from the lemmas on its operation. -/
theorem switchAndCut : Obligations.SwitchAndCut := by
  refine ⟨fun s ms r fade cause len started finished hn hlen hstarted hfinished => ?switch,
    fun s r cause g => ?cut, fun s cut cleared tallied r cause g ms hms => hms ▸ s.cutSet_eq cut cleared tallied r cause g,
    fun s ms v => ⟨_, rfl, ?clear, fun m hm => ?mem, fun m hm => ?other⟩, fun s g ms hms => ?evaluate,
    fun s g n hq => ?fadeEnd⟩
  case switch =>
    refine ⟨_, rfl, s.switchSet_eq ms r fade cause, fun g hg => ?_, fun g hg => ?_,
      s.switchSet_spec ms r fade cause len started finished hn hlen hstarted hfinished, ?_⟩
    · rw [State.group_switchSet s hn, if_pos hg, State.switchLength_eq, ← hlen]
      cases r <;> rfl
    · rw [State.group_switchSet s hn, if_neg hg]
    · rw [State.lines_switchSet, State.tallyOf_eq, State.tallyOf_eq]
  case cut =>
    refine ⟨fun h => if_pos h, fun h hq => ⟨_, rfl, ?_, ?_⟩, fun hon hto hq => ⟨_, rfl, ?_, ?_⟩,
      fun h hne => s.group_cutMember_other r cause hne⟩
    · refine (s.regrouped_cutMember r cause g).eq_of ?_
      rw [s.cutMember_fading h, s.notices_cutShort hq]
    · rw [s.cutMember_fading h, State.group_cutShort, if_pos rfl]
    · refine (s.regrouped_cutMember r cause g).eq_of ?_
      rw [State.cutMember, if_neg hon, if_neg hto, s.notices_switchMember hq]
      rfl
    · rw [State.cutMember, if_neg hon, if_neg hto, State.group_switchMember, if_pos rfl]
      rfl
  case clear =>
    exact (s.regrouped_setWithheld ms v).eq_of (s.notices_setWithheld ms v)
  case mem => rw [State.group_setWithheld, if_pos hm]
  case other => rw [State.group_setWithheld, if_neg hm]
  case evaluate =>
    subst hms
    refine ⟨State.evaluate_fading, fun r f hon hf hfail hlow => ⟨fun hall => ?_, fun why x hx hq hwhy => ?_⟩,
      State.evaluate_calm, fun hne h => ⟨fun hret => ?_, fun hstay => ?_⟩⟩
    · rw [State.evaluate_triggered hon hf hfail hlow, State.automaticSwitch, State.failingCondition_none hall]
    · have hcond := State.failingCondition_some (r := r) (s.members_ascend g) hx hwhy
      rw [State.evaluate_triggered hon hf hfail hlow, State.automaticSwitch_withheld s hcond]
      refine ⟨fun hstands => ?_, fun hclear => ⟨_, ?_, rfl⟩⟩
      · rw [State.withhold, if_pos (by simpa using hstands)]
      · rw [State.withhold, if_neg (by simpa using hclear), State.post_outside_quiet hq]
    · rw [State.evaluate_return hne h, if_pos ((State.autoReturnDue_iff _).2 hret)]
    · rw [State.evaluate_return hne h, if_neg]
      rw [State.autoReturnDue_iff]
      intro hall
      obtain ⟨m, hm, hbad⟩ := hstay
      obtain ⟨hauto, hhold, hsound, hagreed⟩ := hall m hm
      simp [hauto, hhold, hsound, hagreed] at hbad
  case fadeEnd =>
    refine ⟨fun hf hn => ⟨_, s.fadeEndReport_due hf hn, ?_, ?_, fun m hm => ?_⟩, fun hnot => if_neg ?_⟩
    · have hself := s.group_modifyGroup g g
        (fun gr => { gr with selectState := .on gr.targetRole, lastSwitchPoint := some gr.fadeEnd })
      rw [if_pos rfl] at hself
      refine (((State.Regrouped.refl s).modifyGroup _ _).post _ _ _).eq_of ?_
      refine (State.notices_postSwitchFinished _ (by exact hq) _ _).trans ?_
      rw [hself]
      rfl
    · rw [State.group_modifyGroup_finished, if_pos rfl]
      rw [SelectState.on_eq]
    · rw [State.group_modifyGroup_finished, if_neg hm]
    · rintro ⟨hf, hn⟩
      rcases hnot with hnot | hnot
      · rw [hnot] at hf
        cases hf
      · exact hnot hn

end Sys2Proof.Machine
end

section
/-! # The Takeover line (R151, R152)

Each defined group has one leader, the lowest group of its set, and the sets of different leaders are apart. A switch keeps
the sets, so the sets that a qualifying edge acts on are those of the state it found, and each is switched once. -/

namespace Sys2Proof.Machine

/-! ### Link sets (R136) -/

section
variable {s t : State} {g l m : Nat}

theorem State.mem_members_self (h : g ∈ s.definedGroups) : g ∈ s.members g := by
  unfold State.members
  split
  · exact List.mem_singleton_self g
  · exact List.mem_filter.2 ⟨h, by simp⟩

/-- The members of a set have one set. -/
theorem State.members_eq_of_mem (h : m ∈ s.members g) : s.members m = s.members g := by
  by_cases hz : (s.group g).linkSet = 0
  · have hm : m = g := by simpa [State.members, hz] using h
    rw [hm]
  · have hm : (s.group m).linkSet = (s.group g).linkSet := by
      simp only [State.members, if_neg hz, List.mem_filter, decide_eq_true_eq] at h
      exact h.2
    simp only [State.members, hm, if_neg hz]

theorem State.mem_setLeaders : l ∈ s.setLeaders ↔ l ∈ s.definedGroups ∧ (s.members l).head? = some l := by
  simp [State.setLeaders]

/-- A defined group has a leader, in its own set. -/
theorem State.exists_leader (h : g ∈ s.definedGroups) : ∃ l ∈ s.setLeaders, l ∈ s.members g := by
  have hself := State.mem_members_self h
  obtain ⟨l, rest, hms⟩ := List.exists_cons_of_ne_nil (List.ne_nil_of_mem hself)
  have hl : l ∈ s.members g := hms ▸ List.mem_cons_self
  have hdefined : l ∈ s.definedGroups := by
    by_cases hz : (s.group g).linkSet = 0
    · have hlg : l = g := by simpa [State.members, hz] using hl
      exact hlg ▸ h
    · simp only [State.members, if_neg hz, List.mem_filter] at hl
      exact hl.1
  exact ⟨l, State.mem_setLeaders.2 ⟨hdefined, by rw [State.members_eq_of_mem hl, hms]; rfl⟩, hl⟩

/-- Two leaders with a common member are one. -/
theorem State.leader_unique {k : Nat} (hk : k ∈ s.setLeaders) (hl : l ∈ s.setLeaders) (hmk : m ∈ s.members k)
    (hml : m ∈ s.members l) : k = l := by
  have hsets : s.members k = s.members l := (State.members_eq_of_mem hmk).symm.trans (State.members_eq_of_mem hml)
  have hheads := (State.mem_setLeaders.1 hk).2.symm.trans (hsets ▸ (State.mem_setLeaders.1 hl).2)
  exact Option.some.inj hheads

/-- The defined groups and their link sets are the same. -/
def State.SameSets (s t : State) : Prop :=
  ∀ g, (t.group g).linkSet = (s.group g).linkSet ∧ (t.group g).defined = (s.group g).defined

theorem State.SameSets.definedGroups (h : s.SameSets t) : t.definedGroups = s.definedGroups := by
  unfold State.definedGroups
  congr 1
  funext g
  exact (h g).2

theorem State.SameSets.members (h : s.SameSets t) (g : Nat) : t.members g = s.members g := by
  unfold State.members
  rw [h.definedGroups, (h g).1]
  simp only [fun m => (h m).1]

theorem State.SameSets.trans {u : State} (h : s.SameSets t) (h' : t.SameSets u) : s.SameSets u :=
  fun g => ⟨(h' g).1.trans (h g).1, (h' g).2.trans (h g).2⟩

theorem State.sameSets_switchSet (s : State) {ms : List Nat} (hn : ms.Nodup) (r : Role) (fade : Bool) (cause : SwitchCause) :
    s.SameSets (s.switchSet ms r fade cause) := by
  intro g
  rw [State.group_switchSet s hn]
  split <;> exact ⟨rfl, rfl⟩

/-! ### What the line can change -/

/-- Only the Group Records, the notices and the tallies differ. -/
def State.Retallied (s t : State) : Prop :=
  t = { s with
    groups := t.groups, notices := t.notices
    lines := { s.lines with tallyMain := t.lines.tallyMain, tallyBackup := t.lines.tallyBackup } }

theorem State.Retallied.refl (s : State) : s.Retallied s := rfl

theorem State.Retallied.trans {u : State} (h : s.Retallied t) (h' : t.Retallied u) : s.Retallied u := by
  unfold State.Retallied at h h' ⊢
  rw [h] at h'
  exact h'

theorem State.retallied_switchSet (s : State) (ms : List Nat) (r : Role) (fade : Bool) (cause : SwitchCause) :
    s.Retallied (s.switchSet ms r fade cause) := by
  have h := s.switchSet_eq ms r fade cause
  have hlines := s.lines_switchSet ms r fade cause
  generalize s.switchSet ms r fade cause = t at h hlines
  unfold State.Retallied
  rw [← show t.lines = { s.lines with tallyMain := t.lines.tallyMain, tallyBackup := t.lines.tallyBackup } by rw [hlines]]
  exact h

/-- The tally lines show the TargetRoles. -/
def State.TalliesShow (s : State) : Prop :=
  s.lines.tallyMain = s.tallyOf .main ∧ s.lines.tallyBackup = s.tallyOf .backup

/-! ### A qualifying edge -/

theorem State.takeoverSet_stays (h : ¬∀ m ∈ s.members g, (s.group m).selectState = .onMain) : s.takeoverSet g = s := by
  rw [State.takeoverSet, if_neg (by rwa [State.allIn_iff])]

theorem State.takeoverSet_switches (h : ∀ m ∈ s.members g, (s.group m).selectState = .onMain) :
    s.takeoverSet g = s.switchSet (s.members g) .backup true .line := by
  rw [State.takeoverSet, if_pos ((s.allIn_iff _ _).2 h)]

/-- An edge's act on a set that stands wholly ON_MAIN (R137, R152). -/
def GroupRecord.takenOver (gr : GroupRecord) (x : Nat) : GroupRecord := gr.setSwitched .backup gr.fadeLength .line x

theorem State.retallied_takeoverSet (s : State) (g : Nat) : s.Retallied (s.takeoverSet g) := by
  unfold State.takeoverSet
  split
  · exact s.retallied_switchSet _ _ _ _
  · exact .refl s

theorem State.sameSets_takeoverSet (s : State) (g : Nat) : s.SameSets (s.takeoverSet g) := by
  unfold State.takeoverSet
  split
  · exact s.sameSets_switchSet (s.nodup_members g) _ _ _
  · exact fun _ => ⟨rfl, rfl⟩

theorem State.group_takeoverSet (hrun : s.part.state = .running) (l g : Nat) : (s.takeoverSet l).group g
    = if g ∈ s.members l ∧ ∀ m ∈ s.members l, (s.group m).selectState = .onMain
      then (s.group g).takenOver s.resolver.resolveFront else s.group g := by
  by_cases hall : ∀ m ∈ s.members l, (s.group m).selectState = .onMain
  · have hlength : s.switchLength g true = (s.group g).fadeLength := by
      rw [State.switchLength_eq, hrun, if_pos ⟨rfl, nofun⟩]
    rw [State.takeoverSet_switches hall, State.group_switchSet s (s.nodup_members l), hlength,
      ite_of_iff (and_iff_left hall) rfl rfl]
    rfl
  · rw [State.takeoverSet_stays hall, if_neg (fun h => hall h.2)]

/-- The sets of distinct leaders are each taken over as the state they were found in says. -/
theorem State.group_takeoverSets (hrun : s.part.state = .running) (g : Nat) : ∀ (ls : List Nat) (t : State), ls.Nodup →
    (∀ l ∈ ls, l ∈ s.setLeaders) → s.Retallied t → s.SameSets t →
    (∀ l ∈ ls, ∀ m ∈ s.members l, t.group m = s.group m) →
    (ls.foldl (fun u l => u.takeoverSet l) t).group g
      = if ∃ l ∈ ls, g ∈ s.members l ∧ ∀ m ∈ s.members l, (s.group m).selectState = .onMain
        then (s.group g).takenOver s.resolver.resolveFront else t.group g
  | [], _, _, _, _, _, _ => by simp
  | l :: ls, t, hn, hl, ht, hsame, hms => by
    obtain ⟨hnot, hnodup⟩ := List.nodup_cons.1 hn
    have hpart : t.part.state = .running := by rw [ht]; exact hrun
    have hfront : t.resolver.resolveFront = s.resolver.resolveFront := by rw [ht]
    have hfirst : (∀ m ∈ s.members l, (t.group m).selectState = .onMain)
        ↔ ∀ m ∈ s.members l, (s.group m).selectState = .onMain :=
      forall₂_congr fun m hm => by rw [hms l List.mem_cons_self m hm]
    have hstep : ∀ x, (t.takeoverSet l).group x
        = if x ∈ s.members l ∧ ∀ m ∈ s.members l, (s.group m).selectState = .onMain
          then (t.group x).takenOver s.resolver.resolveFront else t.group x := fun x => by
      rw [State.group_takeoverSet hpart, hfront, hsame.members, ite_of_iff (and_congr_right' hfirst) rfl rfl]
    rw [List.foldl_cons, State.group_takeoverSets hrun g ls _ hnodup (fun k hk => hl k (List.mem_cons_of_mem _ hk))
      (ht.trans (t.retallied_takeoverSet l)) (hsame.trans (t.sameSets_takeoverSet l)) ?later, hstep]
    case later =>
      intro k hk m hm
      have hout : m ∉ s.members l := fun hml =>
        hnot (State.leader_unique (hl k (List.mem_cons_of_mem _ hk)) (hl l List.mem_cons_self) hm hml ▸ hk)
      rw [hstep, if_neg (fun h => hout h.1), hms k (List.mem_cons_of_mem _ hk) m hm]
    simp only [List.mem_cons, or_and_right, exists_or, exists_eq_left]
    by_cases hhere : g ∈ s.members l ∧ ∀ m ∈ s.members l, (s.group m).selectState = .onMain
    · rw [if_pos hhere, if_pos (Or.inl hhere), hms l List.mem_cons_self g hhere.1, ite_self]
    · rw [if_neg hhere, ite_of_iff (or_iff_right hhere) rfl rfl]

theorem State.retallied_takeoverSets : ∀ (ls : List Nat) (s : State),
    s.Retallied (ls.foldl (fun u l => u.takeoverSet l) s)
  | [], s => .refl s
  | l :: ls, s => (s.retallied_takeoverSet l).trans (State.retallied_takeoverSets ls _)

theorem State.sameSets_takeoverSets : ∀ (ls : List Nat) (s : State),
    s.SameSets (ls.foldl (fun u l => u.takeoverSet l) s)
  | [], _ => fun _ => ⟨rfl, rfl⟩
  | l :: ls, s => (s.sameSets_takeoverSet l).trans (State.sameSets_takeoverSets ls _)

/-- A loop over sets none of which stands wholly ON_MAIN changes nothing. -/
theorem State.takeoverSets_stay : ∀ (ls : List Nat) (s : State),
    (∀ l ∈ ls, ¬∀ m ∈ s.members l, (s.group m).selectState = .onMain) → ls.foldl (fun u l => u.takeoverSet l) s = s
  | [], _, _ => rfl
  | l :: ls, s, h => by
    rw [List.foldl_cons, State.takeoverSet_stays (h l List.mem_cons_self),
      State.takeoverSets_stay ls s fun k hk => h k (List.mem_cons_of_mem _ hk)]

/-- Either nothing has changed or the tallies follow. -/
theorem State.takeoverSets_tallies : ∀ (ls : List Nat) (t : State), t = s ∨ t.TalliesShow →
    ls.foldl (fun u l => u.takeoverSet l) t = s ∨ (ls.foldl (fun u l => u.takeoverSet l) t).TalliesShow
  | [], _, h => h
  | l :: ls, t, h => by
    refine State.takeoverSets_tallies ls (t.takeoverSet l) ?_
    unfold State.takeoverSet
    split
    · exact .inr ⟨congrArg Lines.tallyMain (t.lines_switchSet _ _ _ _), congrArg Lines.tallyBackup (t.lines_switchSet _ _ _ _)⟩
    · exact h

end

/-- The sets an edge acts on: that of group `g`, if it follows the line, has its leader among them. -/
theorem State.exists_followLeader_iff {s : State} {g : Nat} (hg : g ∈ s.definedGroups) :
    (∃ l ∈ s.followLeaders, g ∈ s.members l ∧ ∀ m ∈ s.members l, (s.group m).selectState = .onMain)
      ↔ (∃ m ∈ s.members g, (s.group m).followLine = true) ∧ ∀ m ∈ s.members g, (s.group m).selectState = .onMain := by
  have hfollow : ∀ l, l ∈ s.followLeaders ↔ l ∈ s.setLeaders ∧ ∃ m ∈ s.members l, (s.group m).followLine = true := by
    simp [State.followLeaders]
  constructor
  · rintro ⟨l, hl, hgl, hall⟩
    rw [State.members_eq_of_mem hgl]
    exact ⟨((hfollow l).1 hl).2, hall⟩
  · rintro ⟨hline, hall⟩
    obtain ⟨l, hl, hlg⟩ := State.exists_leader hg
    have hsets := State.members_eq_of_mem hlg
    exact ⟨l, (hfollow l).2 ⟨hl, hsets ▸ hline⟩, hsets ▸ State.mem_members_self hg, hsets ▸ hall⟩

/-- Settles O18, by whether the edge qualifies; the sets it acts on are those of the state it finds. -/
theorem takeoverLine : Obligations.TakeoverLine := by
  intro dt s hrst
  have hhigh : (s.advance dt).lines.resetLow = false := hrst
  have hrises : exec (.takeoverRisingEdge dt) s = .next (s.advance dt).takeoverRises := by
    simp only [exec, execTakeoverRisingEdge, State.unlessHeld_high hhigh]
  refine ⟨?_, fun hnot => ?_, fun t0 ht0 hshort => ?_, fun t0 ht0 hlong hrun => ?_⟩
  · simp only [exec, execTakeoverFallingEdge, State.unlessHeld_high hhigh]
    rfl
  · have hno : ¬((s.advance dt).takeoverQualifies && (s.advance dt).part.state == .running) = true := by
      rcases hnot with hnot | hnot <;> simp [State.takeoverQualifies, hnot]
    rw [hrises, State.takeoverRises, if_neg hno]
    rfl
  · have hno : ¬((s.advance dt).takeoverQualifies && (s.advance dt).part.state == .running) = true := by
      have hq : (s.advance dt).takeoverQualifies = false := by
        simp only [State.takeoverQualifies, State.advance_lines, ht0]
        exact decide_eq_false (Nat.not_le.2 hshort)
      simp [hq]
    rw [hrises, State.takeoverRises, if_neg hno]
    rfl
  · have hyes : ((s.advance dt).takeoverQualifies && (s.advance dt).part.state == .running) = true := by
      have hq : (s.advance dt).takeoverQualifies = true := by
        simp only [State.takeoverQualifies, State.advance_lines, ht0]
        exact decide_eq_true hlong
      simp [hq, hrun]
    rw [hrises, State.takeoverRises, if_pos hyes]
    generalize hh : (s.advance dt).takeoverHigh = high
    have hhigheq : high = { s.advance dt with lines := { s.lines with takeoverLowSince := none } } := hh.symm
    have hleaders : (s.advance dt).followLeaders = high.followLeaders := hh ▸ rfl
    rw [hleaders]
    have hrun' : high.part.state = .running := hh ▸ hrun
    have hgroups := fun g => State.group_takeoverSets hrun' g high.followLeaders high
      (((State.nodup_definedGroups _).filter _).filter _) (fun l hl => (List.mem_filter.1 hl).1) (.refl _)
      (fun _ => ⟨rfl, rfl⟩) (fun _ _ _ _ => rfl)
    have hframe := State.retallied_takeoverSets high.followLeaders high
    have htallies := State.takeoverSets_tallies high.followLeaders high (.inl rfl)
    have hstay := State.takeoverSets_stay high.followLeaders high
    have hsame := State.sameSets_takeoverSets high.followLeaders high
    generalize high.followLeaders.foldl (fun u l => u.takeoverSet l) high = t
      at hgroups hframe htallies hstay hsame ⊢
    have hcond := fun g (hg : g ∈ high.definedGroups) => State.exists_followLeader_iff hg
    have hfollow : ∀ l ∈ high.followLeaders, l ∈ high.definedGroups ∧ ∃ m ∈ high.members l, (high.group m).followLine = true :=
      fun l hl => ⟨(State.mem_setLeaders.1 (List.mem_filter.1 hl).1).1, by simpa using (List.mem_filter.1 hl).2⟩
    subst hh
    have htaken : ∀ g ∈ s.definedGroups, (∃ m ∈ s.members g, (s.group m).followLine = true) →
        (∀ m ∈ s.members g, (s.group m).selectState = .onMain) →
        t.group g = (s.group g).takenOver s.resolver.resolveFront :=
      fun g hg hline hall => (hgroups g).trans (if_pos ((hcond g hg).2 ⟨hline, hall⟩))
    refine ⟨t, rfl, by rw [hframe]; rfl, by rw [hframe]; rfl, by rw [hframe]; rfl, by rw [hframe]; rfl, by rw [hframe]; rfl,
      by rw [hframe]; rfl, by rw [hframe]; rfl, by rw [hframe]; rfl, ?_, fun hno => hstay fun l hl hall => ?_,
      fun g hg => ⟨htaken g hg, fun hno => (hgroups g).trans (if_neg fun h => ?_)⟩⟩
    · rintro ⟨g, hg, hline, hall⟩
      have hbackup := htaken g hg hline hall
      have hmoved : t ≠ (s.advance dt).takeoverHigh := by
        intro heq
        have hstill : (t.group g).selectState = .onMain := heq ▸ hall g (State.mem_members_self hg)
        rw [hbackup] at hstill
        simp only [GroupRecord.takenOver, GroupRecord.setSwitched, GroupRecord.switched] at hstill
        split at hstill <;> cases hstill
      obtain ⟨hmain, hback⟩ := htallies.resolve_left hmoved
      refine ⟨hback.trans ?_, hmain⟩
      refine List.any_eq_true.2 ⟨g, hsame.definedGroups ▸ hg, ?_⟩
      rw [hbackup]
      rfl
    · obtain ⟨hdefined, m, hm, hline⟩ := hfollow l hl
      rcases hno l hdefined with hnone | ⟨k, hk, hoff⟩
      · exact absurd (hnone m hm) (by rw [show (s.group m).followLine = true from hline]; decide)
      · exact hoff (hall k hk)
    · obtain ⟨⟨m, hm, hline⟩, hall⟩ := (hcond g hg).1 h
      rcases hno with hnone | ⟨k, hk, hoff⟩
      · exact absurd (hnone m hm) (by rw [show (s.group m).followLine = true from hline]; decide)
      · exact hoff (hall k hk)

end Sys2Proof.Machine
end

section
/-! # The Supervisor Interface: Go, the anchor take, the command fetch (R11, R160, R165 to R169)

With no read under way a write to a watched word passes through and is handed to its unit at once. Each unit's act is stated
by its branch: an anchor take that may start or must wait, an anchor that fails or passes its checks, a kick by the phase it
meets, a fetched entry by its OWN bit. -/

namespace Sys2Proof.Machine

/-! ### A watched word is written (R160) -/

section
variable {s : State}

theorem exec_goWrite (hb : s.burst = none) (hrst : s.lines.resetLow = false) (v : Word) (en : Enables) :
    exec (.goWrite v en) s = .next ((s.passThrough 0 v en).handGo v en) := by
  simp only [exec, execGoWrite, State.unlessHeld_high hrst, State.localRequest_write hb, State.localWrite,
    State.localClass_go]

theorem exec_commandKick (hb : s.burst = none) (hrst : s.lines.resetLow = false) {a : Anchor} (ha : s.sup.anchor = some a)
    (v : Word) (en : Enables) : exec (.commandKick v en) s = .next ((s.passThrough 44 v en).handKick v en) := by
  simp only [exec, execCommandKick, State.unlessHeld_high hrst, State.localRequest_write hb, State.localWrite,
    s.localClass_kick a ha]

/-- Before the first anchor take the words above the Go word are no watched words. -/
theorem State.localClass_unanchored (ha : s.sup.anchor = none) {x : Nat} (hlo : 4 ≤ x) (hhi : x < 64) :
    s.localClass x = .passThrough := by
  have hd := dramSize_bounds s.lines
  rw [State.localClass, if_neg (by omega), if_neg (by omega), if_neg (by omega), ha]

/-- Only a whole-word write of 1 is the Go event. -/
theorem State.handGo_other {v : Word} {en : Enables} (h : ¬(en = 15 ∧ v = 1)) : s.handGo v en = s := by
  have hno : ¬(wholeWord en && v == 1) = true := by simpa [wholeWord] using h
  rw [State.handGo, if_neg hno]

theorem State.handed_whole (h : s.part.state ≠ .quiet) : s.handed 15 = true := by simp [State.handed, wholeWord, h]

theorem State.handed_partial {en : Enables} (h : en ≠ 15) : s.handed en = false := by
  have hpart : wholeWord en = false := Bool.eq_false_iff.2 (fun hw => h ((wholeWord_iff en).1 hw))
  rw [State.handed, hpart, Bool.false_and]

end

/-! ### The Go event (R11) -/

section
variable {s : State}

theorem State.takeBlocked_iff : s.takeBlocked = true ↔
    s.sup.command.phase ≠ .idle ∨ s.sup.teardown ≠ none ∨ s.sup.status.writing ≠ none ∨ s.notices.writing = true := by
  simp [State.takeBlocked, or_assoc, Option.isSome_iff_ne_none]

theorem State.not_takeBlocked (h1 : s.sup.command.phase = .idle) (h2 : s.sup.teardown = none)
    (h3 : s.sup.status.writing = none) (h4 : s.notices.writing = false) : s.takeBlocked = false := by
  simp [State.takeBlocked, h1, h2, h3, h4]

theorem State.goEvent_refused (h : s.part.state = .armed ∨ s.part.state = .running) :
    s.goEvent = s.writeAnchorResult .wrongState := if_pos h

theorem State.goEvent_stands (hp : ¬(s.part.state = .armed ∨ s.part.state = .running))
    (h : s.sup.take ≠ none ∨ s.sup.goPending = true) : s.goEvent = s := by
  rw [State.goEvent, if_neg hp, if_pos (by simpa [Option.isSome_iff_ne_none] using h)]

theorem State.goEvent_free (hp : ¬(s.part.state = .armed ∨ s.part.state = .running)) (ht : s.sup.take = none)
    (hg : s.sup.goPending = false) : s.goEvent =
      if s.takeBlocked = true then s.modifySup (fun u => { u with goPending := true }) else s.startTake := by
  rw [State.goEvent, if_neg hp, if_neg (by simp [ht, hg])]

end

theorem PartState.not_show {p : PartState} (h : p = .quiet ∨ p = .standby) : ¬(p = .armed ∨ p = .running) := by
  rcases h with rfl | rfl <;> decide

/-- Settles O19, by the part state and by what the Go event finds in hand. -/
theorem goWrite : Obligations.GoWrite := by
  intro v en s hb hrst
  have hgo : exec (.goWrite 1 15) s = .next { s with mem := writeWord s.mem 0 1 }.goEvent := by
    rw [exec_goWrite hb hrst, s.passThrough_whole 0 1 15 rfl rfl]
    rfl
  refine ⟨fun h => ?_, fun h => ?_, fun h => ?_⟩
  · rw [exec_goWrite hb hrst, State.handGo_other h]
    rfl
  · rw [hgo, State.goEvent_refused (by exact h)]
    rfl
  · have hp : ¬(s.part.state = .armed ∨ s.part.state = .running) := PartState.not_show h
    refine ⟨fun hs => ?_, fun ht hg => ⟨fun hblock => ?_, fun h1 h2 h3 h4 => ?_⟩⟩
    · rw [hgo, State.goEvent_stands (by exact hp) (by exact hs)]
    · rw [hgo, State.goEvent_free (by exact hp) (by exact ht) (by exact hg),
        if_pos (State.takeBlocked_iff.2 (by exact hblock))]
      rfl
    · rw [hgo, State.goEvent_free (by exact hp) (by exact ht) (by exact hg),
        State.not_takeBlocked (by exact h1) (by exact h2) (by exact h3) (by exact h4), if_neg Bool.false_ne_true]
      rfl

theorem CommandUnit.resumed_eq (u : CommandUnit) :
    u.resumed = { u with phase := if u.phase = .idle ∧ u.target ≠ none then .fetching else u.phase } := by
  by_cases h : u.phase = .idle ∧ u.target ≠ none
  · rw [CommandUnit.resumed, if_pos (by simpa [Option.isSome_iff_ne_none] using h), if_pos h]
  · rw [CommandUnit.resumed, if_neg (by simpa [Option.isSome_iff_ne_none] using h), if_neg h]

theorem CommandUnit.resumed_idle {u : CommandUnit} (h : u.phase = .idle) :
    u.resumed = { u with phase := if u.target = none then .idle else .fetching } := by
  rw [CommandUnit.resumed_eq]
  refine congrArg (fun p => { u with phase := p }) ?_
  by_cases ht : u.target = none <;> simp [h, ht]

/-- Settles O20, by what is in hand and by the part state. -/
theorem deferredGo : Obligations.DeferredGo := by
  intro s
  have hexec : exec .deferredGo s = .next (if s.sup.goPending && !s.takeBlocked then s.deferredGo else s) := rfl
  refine ⟨fun h => ?_, fun hg h1 h2 h3 h4 => ?_⟩
  · have hno : ¬(s.sup.goPending && !s.takeBlocked) = true := by
      rcases h with h | h
      · simp [h]
      · simp [State.takeBlocked_iff.2 h]
    rw [hexec, if_neg hno]
  · have hdue : (s.sup.goPending && !s.takeBlocked) = true := by rw [State.not_takeBlocked h1 h2 h3 h4, hg]; rfl
    rw [hexec, if_pos hdue]
    refine ⟨fun h => ?_, fun h => ?_⟩
    · rw [State.deferredGo, if_neg (PartState.not_show h)]
      rfl
    · rw [State.deferredGo, if_pos h]
      exact congrArg (fun u => Host.Outcome.next { s with
        mem := writeWord s.mem 4 2, sup := { s.sup with goPending := false, command := u } }) (CommandUnit.resumed_idle h1)

/-! ### The anchor is read (R165, R166) -/

theorem State.beginFollowUp_none {s : State} (h : s.sup.status.followUp = false ∨ s.sup.anchor = none) :
    s.beginFollowUp = s := by
  unfold State.beginFollowUp
  rcases h with h | h
  · split
    · rfl
    · rw [if_neg (by simp [h])]
  · rw [h]

theorem State.beginFollowUp_some {s : State} {a : Anchor} (h : s.sup.status.followUp = true) (ha : s.sup.anchor = some a) :
    s.beginFollowUp = s.beginStatus a.statusBase := by
  simp only [State.beginFollowUp, ha, h, if_true]

/-- The follow-up changes the Status Writer alone. -/
theorem State.beginFollowUp_eq (s : State) :
    s.beginFollowUp = { s with sup := { s.sup with status := s.beginFollowUp.sup.status } } := by
  unfold State.beginFollowUp
  split
  · rfl
  · split <;> rfl

/-- Settles O22, by the answer and the checks. -/
theorem anchorReadDone : Obligations.AnchorReadDone := by
  intro error s
  have hexec : ∀ error, exec (.anchorReadDone error) s
      = .next (if s.sup.take = some .reading then s.anchorRead error else s) := fun _ => rfl
  refine ⟨fun h => by rw [hexec, if_neg h], fun h hbad => ?_, fun a h ha hok => ?_⟩
  · have hfail : (error || !(readAnchor s.mem).ok s.lines.dramSize) = true := by
      rcases hbad with hbad | hbad <;> simp [hbad]
    rw [hexec, if_pos h, State.anchorRead, if_pos hfail]
    have hbase : ((s.writeAnchorResult .badAnchor).modifySup (fun u => { u with take := none })).modifyCommand
        CommandUnit.resumed = { s with
          mem := writeWord s.mem 4 9
          sup := { s.sup with
            take := none
            command := { s.sup.command with
              phase := if s.sup.command.phase = .idle ∧ s.sup.command.target ≠ none then .fetching
                else s.sup.command.phase } } } :=
      congrArg (fun u => { s with mem := writeWord s.mem 4 9, sup := { s.sup with take := none, command := u } })
        (CommandUnit.resumed_eq s.sup.command)
    refine ⟨s.failTake, rfl, ?_, fun hnone => ?_, fun a hfollow ha => ?_⟩
    · rw [State.failTake, hbase]
      exact State.beginFollowUp_eq _
    · rw [State.failTake, hbase, State.beginFollowUp_none (by exact hnone)]
    · rw [State.failTake, hbase, State.beginFollowUp_some (by exact hfollow) (by exact ha)]
      exact ⟨rfl, rfl, _, rfl, rfl⟩
  · subst ha
    have hpass : ¬(false || !(readAnchor s.mem).ok s.lines.dramSize) = true := by simp [hok]
    rw [hexec, if_pos h, State.anchorRead, if_neg hpass]
    rfl

/-! ### A kick (R168) -/

section
variable {s : State} {a : Anchor}

theorem State.commandEntries_of_some (ha : s.sup.anchor = some a) : s.commandEntries = a.commandRingEntries := by
  rw [State.commandEntries, ha]

theorem CommandUnit.ignoresKick_iff (u : CommandUnit) (k n : Nat) :
    u.ignoresKick k n = true ↔ u.phase = .idle ∧ u.target = none ∧ k = (u.next + n - 1) % n := by
  simp [CommandUnit.ignoresKick, and_assoc]

end

/-- Settles O24, by the range of the kick and the phase it meets. -/
theorem commandKick : Obligations.CommandKick := by
  intro v en s hb hrst
  refine ⟨fun h => ?_, fun a ha hq => ?_⟩
  · cases ha : s.sup.anchor with
    | none =>
      simp only [exec, execCommandKick, State.unlessHeld_high hrst, State.localRequest_write hb, State.localWrite,
        State.localClass_unanchored ha (show 4 ≤ 44 by decide) (by decide)]
      rfl
    | some a =>
      have hen : en ≠ 15 := h.resolve_right (by rw [ha]; exact nofun)
      rw [exec_commandKick hb hrst ha, State.handKick, State.handed_partial hen, if_neg Bool.false_ne_true]
      rfl
  · have hkick : exec (.commandKick v 15) s = .next (State.kick { s with mem := writeWord s.mem 44 v } v.toNat) := by
      rw [exec_commandKick hb hrst ha, s.passThrough_whole 44 v 15 rfl rfl, State.handKick,
        State.handed_whole (by exact hq), if_pos rfl]
    have hentries : ({ s with mem := writeWord s.mem 44 v } : State).commandEntries = a.commandRingEntries :=
      State.commandEntries_of_some ha
    rw [hkick, State.kick, hentries]
    refine ⟨fun hout => ?_, fun hin => ?_⟩
    · rw [if_pos hout, State.postRingFault, State.post_outside_quiet (by exact hq)]
      rfl
    · rw [if_neg (Nat.not_le.2 hin)]
      refine ⟨fun hidle hnone hbefore => ?_, fun hidle hdo => ?_, fun hbusy => ?_⟩
      · rw [if_pos ((CommandUnit.ignoresKick_iff ..).2 ⟨hidle, hnone, hbefore⟩)]
      · have hnot : ¬s.sup.command.ignoresKick v.toNat a.commandRingEntries = true := by
          rw [CommandUnit.ignoresKick_iff]
          rintro ⟨_, hnone, hbefore⟩
          exact hdo.elim (fun h => h hnone) (fun h => h hbefore)
        rw [if_neg (by exact hnot)]
        refine congrArg (fun u => Host.Outcome.next { s with
          mem := writeWord s.mem 44 v, sup := { s.sup with command := u } }) ?_
        by_cases hmay : s.sup.take = none ∧ s.sup.goPending = false
        · simp [CommandUnit.kicked, hidle, hmay]
        · have hmay' : (s.sup.take.isNone && !s.sup.goPending) = false := by
            rw [Bool.eq_false_iff]
            simpa using hmay
          simp [CommandUnit.kicked, hidle, hmay, hmay']
      · have hnot : ¬s.sup.command.ignoresKick v.toNat a.commandRingEntries = true := by
          rw [CommandUnit.ignoresKick_iff]
          exact fun h => hbusy h.1
        rw [if_neg (by exact hnot)]
        have hkicked : s.sup.command.kicked v.toNat (s.sup.take.isNone && !s.sup.goPending)
            = { s.sup.command with target := some v.toNat } := if_neg fun h => hbusy h.1
        exact congrArg (fun u => Host.Outcome.next { s with
          mem := writeWord s.mem 44 v, sup := { s.sup with command := u } }) hkicked

/-! ### The fetch (R169) -/

theorem Anchor.entryAddr_eq (a : Anchor) (i : Nat) : a.entryAddr i = a.commandRingBase + 64 * i := by
  unfold Anchor.entryAddr
  omega

/-- The words read, by their places. -/
theorem readWords_eq_map (m : Memory) (x n : Nat) :
    readWords m x n = (List.range n).map (fun i => readWord m (x + 4 * i)) := by
  refine List.ext_getElem? fun i => ?_
  by_cases hi : i < n
  · rw [getElem?_readWords m x hi]
    simp [hi]
  · rw [List.getElem?_eq_none (by simpa using hi), List.getElem?_eq_none (by simpa using hi)]

/-- Settles O25, by the answer and the OWN bit. -/
theorem commandFetch : Obligations.CommandFetch := by
  intro error s a ha
  have hexec : exec (.commandFetchDone error) s
      = .next (if s.sup.command.phase = .fetching then s.fetchDone error else s) := rfl
  have haddr : s.entryAddr s.sup.command.next = a.commandRingBase + 64 * s.sup.command.next := by
    rw [State.entryAddr, ha]
    exact a.entryAddr_eq _
  have hwords : s.fetchedWords
      = (List.range 10).map (fun i => readWord s.mem (a.commandRingBase + 64 * s.sup.command.next + 4 * i)) := by
    rw [State.fetchedWords, haddr, readWords_eq_map]
  have hown : ownSet (s.fetchedWords.getD 0 0)
      = (readWord s.mem (a.commandRingBase + 64 * s.sup.command.next)).getLsbD 31 := by
    rw [hwords]
    rfl
  refine ⟨fun h => by rw [hexec, if_neg h], fun h => ⟨fun hbad => ?_, fun herr hset => ?_⟩⟩
  · rw [hexec, if_pos h, State.fetchDone, hown]
    cases error with
    | true => rfl
    | false =>
      have hclear := hbad.resolve_left (by decide)
      rw [hclear]
      rfl
  · rw [hexec, if_pos h, State.fetchDone, hown, hset, herr, ← hwords]
    rfl

end Sys2Proof.Machine
end

section
/-! # The commands of setup: gating, Lock, Configure Bridge, Define Group, Set Thresholds (R129, R135, R170 to R173)

A row of the command ring decides its command in the order of its rule: Locked, the part state, the fields. Each refusal and
each taken command is the branch of the row's decision that its hypotheses select. -/

namespace Sys2Proof.Machine

/-! ### The rows on the entry in hand -/

section
variable {s : State}

theorem exec_configureBridge (h : s.hand 1 = true) : exec .configureBridge s = .next s.configureBridge :=
  congrArg Host.Outcome.next (if_pos h)
theorem exec_defineGroup (h : s.hand 2 = true) : exec .defineGroup s = .next s.defineGroupCommand :=
  congrArg Host.Outcome.next (if_pos h)
theorem exec_setThresholds (h : s.hand 3 = true) : exec .setThresholds s = .next s.setThresholds :=
  congrArg Host.Outcome.next (if_pos h)
theorem exec_defineChannel (h : s.hand 4 = true) : exec .defineChannel s = .next s.defineChannel :=
  congrArg Host.Outcome.next (if_pos h)
theorem exec_undefineChannel (h : s.hand 5 = true) : exec .undefineChannel s = .next s.undefineChannel :=
  congrArg Host.Outcome.next (if_pos h)
theorem exec_readContext (h : s.hand 6 = true) : exec .readContext s = .next s.readContext :=
  congrArg Host.Outcome.next (if_pos h)
theorem exec_armShow (h : s.hand 7 = true) : exec .armShow s = .next s.armShow := congrArg Host.Outcome.next (if_pos h)
theorem exec_endShow (h : s.hand 8 = true) : exec .endShow s = .next s.endShow := congrArg Host.Outcome.next (if_pos h)
theorem exec_switch (h : s.hand 9 = true) : exec .switch s = .next s.switchCommand :=
  congrArg Host.Outcome.next (if_pos h)
theorem exec_hold (h : s.hand 10 = true) : exec .hold s = .next s.holdCommand := congrArg Host.Outcome.next (if_pos h)
theorem exec_releaseHold (h : s.hand 11 = true) : exec .releaseHold s = .next s.releaseHoldCommand :=
  congrArg Host.Outcome.next (if_pos h)
theorem exec_queryCoverage (h : s.hand 12 = true) : exec .queryCoverage s = .next s.queryCoverage :=
  congrArg Host.Outcome.next (if_pos h)

/-! ### Gating (R170, R171) -/

theorem State.showing_iff : s.showing = true ↔ s.part.state = .armed ∨ s.part.state = .running := by
  simp [State.showing]

theorem State.not_showing (h : s.part.state = .quiet ∨ s.part.state = .standby) : s.showing = false := by
  rcases h with h | h <;> simp [State.showing, h]

/-- Outside ARMED and RUNNING a command on sets is refused. -/
theorem State.setRefusal_wrongState (h : s.part.state = .quiet ∨ s.part.state = .standby) :
    s.setRefusal = some .wrongState := by
  simp [State.setRefusal, State.not_showing h]

/-- A Group field that is no defined group and not 255 is refused. -/
theorem State.setRefusal_badParameter (hs : s.part.state = .armed ∨ s.part.state = .running) (h255 : s.cmdGroup ≠ 255)
    (h : 7 < s.cmdGroup ∨ (s.group s.cmdGroup).defined = false) : s.setRefusal = some .badParameter := by
  have hbad : s.setsOk s.cmdGroup = false := by
    rcases h with h | h
    · simp [State.setsOk, h255, Nat.not_le.2 h]
    · simp [State.setsOk, h255, h]
  simp [State.setRefusal, State.showing_iff.2 hs, hbad]

theorem State.setRefusal_none (hs : s.part.state = .armed ∨ s.part.state = .running)
    (h : s.cmdGroup = 255 ∨ (s.cmdGroup ≤ 7 ∧ (s.group s.cmdGroup).defined = true)) : s.setRefusal = none := by
  have hok : s.setsOk s.cmdGroup = true := by simpa [State.setsOk] using h
  simp [State.setRefusal, State.showing_iff.2 hs, hok]

/-- No group is named: 255 with none defined, a field that is no group, or a group not defined (R129). -/
theorem State.groupsOk_false (h : (s.cmdGroup = 255 ∧ s.definedGroups = []) ∨ (s.cmdGroup ≠ 255 ∧ 7 < s.cmdGroup)
    ∨ (s.cmdGroup ≤ 7 ∧ (s.group s.cmdGroup).defined = false)) : s.groupsOk s.cmdGroup = false := by
  rcases h with ⟨h, hnone⟩ | ⟨h, hbig⟩ | ⟨h, hnone⟩
  · simp [State.groupsOk, h, hnone]
  · simp [State.groupsOk, h, Nat.not_le.2 hbig]
  · have hne : s.cmdGroup ≠ 255 := by omega
    simp [State.groupsOk, hne, hnone]

theorem State.setThresholds_badGroup (hl : s.sup.locked = false) (h : s.groupsOk s.cmdGroup = false) :
    s.setThresholds = s.answerCommand .badParameter [] := by
  simp [State.setThresholds, hl, h, State.refuse]

theorem State.switchCommand_refused {r : ResultCode} (h : s.setRefusal = some r) :
    s.switchCommand = s.answerCommand r [] := by
  simp only [State.switchCommand, h, State.refuse]

theorem State.holdCommand_refused {r : ResultCode} (h : s.setRefusal = some r) :
    s.holdCommand = s.answerCommand r [] := by
  simp only [State.holdCommand, h, State.refuse]

theorem State.releaseHoldCommand_refused {r : ResultCode} (h : s.setRefusal = some r) :
    s.releaseHoldCommand = s.answerCommand r [] := by
  simp only [State.releaseHoldCommand, h, State.refuse]

/-- STANDBY and not Locked: the two first tests of the commands of setup pass. -/
theorem State.defineChannel_badGroup (hl : s.sup.locked = false) (hs : s.part.state = .standby)
    (h : 7 < s.cmdGroup ∨ (s.group s.cmdGroup).defined = false) :
    s.defineChannel = s.answerCommand .badParameter [] := by
  have hnot : ¬(s.sup.locked = true) := by simp [hl]
  rw [State.defineChannel, if_neg hnot, if_neg (Decidable.not_not.2 hs)]
  split
  · rfl
  next hfields =>
    have hdefined : (s.group s.cmdGroup).defined = false :=
      h.resolve_left fun hbig => hfields (.inr (.inl hbig))
    rw [if_pos hdefined]
    rfl

end

/-- Settles O27, branch by branch of each row's decision. -/
theorem gatingOfCommands : Obligations.GatingOfCommands := by
  refine ⟨fun s r d => rfl, fun s hex hkind => ?unknown, fun s hl => ?locked, fun s hl hs => ?state, fun s hs => ?showing,
    fun s hg => ?groups, fun s hl hs hh hg => by rw [exec_defineChannel hh, State.defineChannel_badGroup hl hs hg]⟩
  case unknown =>
    have hno : (s.executing && (s.sup.command.kind == 0 || decide (14 < s.sup.command.kind))) = true := by
      simpa [hex] using hkind
    exact congrArg Host.Outcome.next (if_pos hno)
  case locked =>
    refine ⟨fun h => ?_, fun h => ?_, fun h => ?_, fun h => ?_, fun h => ?_, fun h => ?_, fun h => ?_⟩
    · exact (exec_configureBridge h).trans (congrArg Host.Outcome.next (if_pos hl))
    · exact (exec_defineGroup h).trans (congrArg Host.Outcome.next (if_pos hl))
    · exact (exec_setThresholds h).trans (congrArg Host.Outcome.next (if_pos hl))
    · exact (exec_defineChannel h).trans (congrArg Host.Outcome.next (if_pos hl))
    · exact (exec_undefineChannel h).trans (congrArg Host.Outcome.next (if_pos hl))
    · exact (exec_armShow h).trans (congrArg Host.Outcome.next (if_pos hl))
    · exact (exec_endShow h).trans (congrArg Host.Outcome.next (if_pos hl))
  case state =>
    have hnot : ¬s.sup.locked = true := by simp [hl]
    have hwrong : ∀ t : State, (if s.sup.locked = true then s.refuse .locked
        else if s.part.state ≠ .standby then s.refuse .wrongState else t) = s.answerCommand .wrongState [] :=
      fun t => (if_neg hnot).trans (if_pos hs)
    refine ⟨fun h => ?_, fun h => ?_, fun h => ?_, fun h => ?_, fun h => ?_⟩
    · exact (exec_configureBridge h).trans (congrArg Host.Outcome.next (hwrong _))
    · exact (exec_defineGroup h).trans (congrArg Host.Outcome.next (hwrong _))
    · exact (exec_defineChannel h).trans (congrArg Host.Outcome.next (hwrong _))
    · exact (exec_undefineChannel h).trans (congrArg Host.Outcome.next (hwrong _))
    · exact (exec_armShow h).trans (congrArg Host.Outcome.next (hwrong _))
  case showing =>
    have hrefused := State.setRefusal_wrongState hs
    refine ⟨fun h hl => ?_, fun h => ?_, fun h => ?_, fun h => ?_, fun h => ?_⟩
    · have hnot : ¬s.sup.locked = true := by simp [hl]
      have hno : s.part.state ≠ .armed ∧ s.part.state ≠ .running := not_or.1 (PartState.not_show hs)
      rw [exec_endShow h, State.endShow, if_neg hnot, if_pos hno]
      rfl
    · rw [exec_switch h, State.switchCommand_refused hrefused]
    · rw [exec_hold h, State.holdCommand_refused hrefused]
    · rw [exec_releaseHold h, State.releaseHoldCommand_refused hrefused]
    · rw [exec_queryCoverage h, State.queryCoverage, State.not_showing hs]
      rfl
  case groups =>
    refine ⟨fun h hl => ?_, fun h255 hs => ?_⟩
    · rw [exec_setThresholds h, State.setThresholds_badGroup hl (State.groupsOk_false hg)]
    · have hbad : 7 < s.cmdGroup ∨ (s.group s.cmdGroup).defined = false := by
        rcases hg with ⟨h, _⟩ | ⟨_, h⟩ | ⟨_, h⟩
        · exact absurd h h255
        · exact .inl h
        · exact .inr h
      have hrefused := State.setRefusal_badParameter hs h255 hbad
      refine ⟨fun h => ?_, fun h => ?_, fun h => ?_⟩
      · rw [exec_switch h, State.switchCommand_refused hrefused]
      · rw [exec_hold h, State.holdCommand_refused hrefused]
      · rw [exec_releaseHold h, State.releaseHoldCommand_refused hrefused]

/-! ### Configure Bridge (R172) -/

section
variable {s : State}

/-- In STANDBY and not Locked the parameters decide. -/
theorem State.configureBridge_standby (hl : s.sup.locked = false) (hs : s.part.state = .standby) :
    s.configureBridge = if s.sup.command.bridgeOk s.pool.buckets = true then
        (s.configure (s.sup.command.bridgeChosen s.pool.buckets)).answerCommand .done
          [word (s.configure (s.sup.command.bridgeChosen s.pool.buckets)).pool.quota.rig1,
           word (s.configure (s.sup.command.bridgeChosen s.pool.buckets)).pool.quota.rig2,
           word (s.configure (s.sup.command.bridgeChosen s.pool.buckets)).pool.commonSize]
      else s.answerCommand .badParameter [] := by
  have hnot : ¬s.sup.locked = true := by simp [hl]
  rw [State.configureBridge]
  dsimp only
  rw [if_neg hnot, if_neg (Decidable.not_not.2 hs)]
  cases s.sup.command.bridgeOk s.pool.buckets <;> rfl

theorem BridgeSettings.ok_iff (b : BridgeSettings) (n : Nat) : b.ok n = true ↔
    b.quota1 + b.quota2 ≤ n - 65 ∧ b.commonGuard ≤ 65535 ∧ 20 ≤ b.horizon ∧ b.horizon ≤ 48
      ∧ 1 ≤ b.resolveLead ∧ b.resolveLead ≤ 12 ∧ 1 ≤ b.releaseGrace ∧ b.releaseGrace ≤ 3 ∧ 4 ≤ b.expectSpan
      ∧ b.expectSpan ≤ 255 ∧ 1 ≤ b.coalesceCount ∧ b.coalesceCount ≤ 64 ∧ b.coalesceTime ≤ 1000 := by
  simp only [BridgeSettings.ok, Bool.and_eq_true, decide_eq_true_eq]
  omega

/-- The parameters pass as the Defaults byte says. -/
theorem CommandUnit.bridgeOk_iff (u : CommandUnit) (n : Nat) : u.bridgeOk n = true ↔
    u.bridgeDefaults = 1 ∨ (u.bridgeDefaults = 0 ∧ byteOf (u.word 2) 0 ≤ 1 ∧ u.bridgeSettings.ok n = true) := by
  simp only [CommandUnit.bridgeOk, flagOk, Bool.and_eq_true, Bool.or_eq_true, decide_eq_true_eq, beq_iff_eq]
  constructor
  · rintro ⟨hflag, hone | ⟨hrole, hok⟩⟩
    · exact .inl hone
    · by_cases hone : u.bridgeDefaults = 1
      · exact .inl hone
      · exact .inr ⟨by omega, hrole, hok⟩
  · rintro (hone | ⟨hzero, hrole, hok⟩)
    · exact ⟨by omega, .inl hone⟩
    · exact ⟨by omega, .inr ⟨hrole, hok⟩⟩

theorem State.lines_assertInterrupt (due : Bool) (t : State) :
    (t.assertInterrupt due).lines = if due = true then { t.lines with interrupt := true } else t.lines := by
  cases due <;> simp [State.assertInterrupt]

/-- The interrupt line after Configure Bridge: asserted where a test holds with the new settings (R176). -/
theorem State.lines_configure (b : BridgeSettings) : (s.configure b).lines =
    if b.coalesceCount ≤ s.unreturned ∨ (b.coalesceTime ≠ 0 ∧ 0 < s.unreturned
        ∧ s.oldestWriteTime + b.coalesceTime < s.milliseconds) then { s.lines with interrupt := true } else s.lines := by
  unfold State.configure
  dsimp only
  rw [State.lines_assertInterrupt]
  refine ite_of_iff ?_ rfl rfl
  simp only [State.countDue, State.timeDue, Bool.or_eq_true, Bool.and_eq_true, decide_eq_true_eq, bne_iff_ne, and_assoc]
  rfl

theorem State.unreturned_of_none (h : s.sup.anchor = none) : s.unreturned = 0 := by
  simp [State.unreturned, State.noticeEntries, h, NoticeUnit.unreturned]

theorem State.noticeEntries_of_some {a : Anchor} (h : s.sup.anchor = some a) : s.noticeEntries = a.noticeRingEntries := by
  rw [State.noticeEntries, h]

end

/-- Settles O29, by the Defaults byte and the ranges; the lines are those of `State.lines_configure`. -/
theorem configureBridge : Obligations.ConfigureBridge := by
  intro s b hh hl hs
  have hexec := (exec_configureBridge hh).trans (congrArg Host.Outcome.next (State.configureBridge_standby hl hs))
  have hrefused : ¬s.sup.command.bridgeOk s.pool.buckets = true →
      exec .configureBridge s = .next (s.answerCommand .badParameter []) := fun hbad =>
    hexec.trans (congrArg Host.Outcome.next (if_neg hbad))
  have hdefaults : byteOf (s.cmdWord 2) 3 = s.sup.command.bridgeDefaults := rfl
  rw [hdefaults]
  refine ⟨fun h2 => hrefused ?_, fun hsettings => ?_, fun h0 hbad => hrefused ?_⟩
  · rw [CommandUnit.bridgeOk_iff]
    omega
  · have hchosen : s.sup.command.bridgeOk s.pool.buckets = true
        ∧ s.sup.command.bridgeChosen s.pool.buckets = b ∧ 1 ≤ b.coalesceCount := by
      rcases hsettings with ⟨h1, rfl⟩ | ⟨h0, hrole, rfl, hranges⟩
      · exact ⟨(CommandUnit.bridgeOk_iff _ _).2 (.inl h1), if_pos h1, Nat.le_add_left 1 7⟩
      · refine ⟨(CommandUnit.bridgeOk_iff _ _).2 (.inr ⟨h0, hrole, (BridgeSettings.ok_iff _ _).2 hranges⟩),
          if_neg (by omega), ?_⟩
        obtain ⟨_, _, _, _, _, _, _, _, _, _, hcount, _⟩ := hranges
        exact hcount
    obtain ⟨hok, hb, hcount⟩ := hchosen
    rw [hb] at hexec
    have hlines := State.lines_configure (s := s) b
    refine ⟨_, hexec.trans (congrArg Host.Outcome.next (if_pos hok)), rfl, rfl, rfl, rfl, rfl, fun hkeep => ?_,
      fun a unreturned written ha hun hwritten => ?_, rfl, rfl, rfl, rfl, rfl⟩
    · refine hlines.trans ?_
      rcases hkeep with hint | hnone
      · split
        · rw [← hint]
        · rfl
      · rw [State.unreturned_of_none hnone, if_neg]
        omega
    · have hunreturned : s.unreturned = unreturned := by
        rw [hun, State.unreturned, State.noticeEntries_of_some ha]
        rfl
      have htime : s.oldestWriteTime = written := by
        rw [hwritten, State.oldestWriteTime, State.noticeEntries_of_some ha]
      rw [hunreturned, htime] at hlines
      refine ⟨fun hdue => hlines.trans (if_pos (.inl hdue)),
        fun ht hu hlate => hlines.trans (if_pos (.inr ⟨ht, hu, hlate⟩)), fun hfew hsoon => hlines.trans (if_neg ?_)⟩
      rintro (hdue | ⟨ht, hu, hlate⟩)
      · exact absurd hdue (Nat.not_le.2 hfew)
      · rcases hsoon with h0 | h0 | hsoon
        · exact ht h0
        · omega
        · exact absurd hlate (Nat.not_lt.2 hsoon)
  · rw [CommandUnit.bridgeOk_iff, BridgeSettings.ok_iff]
    rintro (h1 | ⟨_, hrole, hranges⟩)
    · omega
    · simp only [CommandUnit.bridgeSettings] at hranges
      simp only [State.cmdWord] at hbad
      omega

end Sys2Proof.Machine
end

section
/-! # Define Group and Set Thresholds (R129, R130, R135) -/

namespace Sys2Proof.Machine

section
variable {s : State}

theorem word_flag (b : Bool) : word (flag b) = if b then 1 else 0 := by cases b <;> rfl

/-- An answer is the same wherever the Supervisor Interface is. -/
theorem State.sup_answerCommand {t : State} (h : t.sup = s.sup) (r : ResultCode) (d : List Word) :
    (t.answerCommand r d).sup = (s.answerCommand r d).sup := by
  simp only [State.answerCommand, State.modifyCommand, h]

/-! ### Define Group (R135) -/

theorem CommandUnit.groupOk_iff (u : CommandUnit) : u.groupOk = true ↔
    byteOf (u.word 4) 3 = 1 ∨ (byteOf (u.word 4) 3 = 0 ∧ byteOf (u.word 2) 0 ≤ 4 ∧ byteOf (u.word 2) 1 ≤ 16
      ∧ byteOf (u.word 3) 0 ≤ 1 ∧ byteOf (u.word 3) 1 ≤ 8 ∧ byteOf (u.word 4) 0 ≤ 1 ∧ byteOf (u.word 4) 1 ≤ 1
      ∧ byteOf (u.word 4) 2 ≤ 1) := by
  simp only [CommandUnit.groupOk, flagOk, Bool.and_eq_true, Bool.or_eq_true, decide_eq_true_eq, beq_iff_eq]
  omega

/-- In STANDBY and not Locked the fields decide. -/
theorem State.defineGroupCommand_standby (hl : s.sup.locked = false) (hs : s.part.state = .standby) :
    s.defineGroupCommand = if s.cmdGroup ≤ 7 ∧ s.sup.command.groupOk = true
      then (s.defineGroup s.cmdGroup s.sup.command.groupRecord).answerCommand .done
        [word (flag (s.group s.cmdGroup).defined)]
      else s.answerCommand .badParameter [] := by
  have hnot : ¬s.sup.locked = true := by simp [hl]
  rw [State.defineGroupCommand, if_neg hnot, if_neg (Decidable.not_not.2 hs)]
  by_cases hg : 7 < s.cmdGroup
  · rw [if_pos hg, if_neg (fun h => absurd h.1 (Nat.not_le.2 hg))]
    rfl
  · rw [if_neg hg]
    have hle : s.cmdGroup ≤ 7 := Nat.not_lt.1 hg
    cases s.sup.command.groupOk <;> simp [hle, State.refuse]

/-- The record, the health and the ring of a group are written anew, before the evaluation of its set. -/
def State.redefined (s : State) (g : Nat) (gr : GroupRecord) : State :=
  ((s.modifyGroup g (fun _ => gr)).modifyHealth g
    (fun _ => { GroupHealth.initial with settings := HealthSettings.defaults })).modifyRing g (fun _ => Ring.initial)

theorem State.defineGroup_eq (s : State) (g : Nat) (gr : GroupRecord) :
    s.defineGroup g gr = ((s.redefined g gr).evaluate g).setTallies := rfl

theorem State.group_redefined (s : State) (g m : Nat) (gr : GroupRecord) :
    (s.redefined g gr).group m = if m = g then gr else s.group m := s.group_modifyGroup g m (fun _ => gr)

theorem State.healthOf_redefined (s : State) (g m : Nat) (gr : GroupRecord) : (s.redefined g gr).healthOf m
    = if m = g then { GroupHealth.initial with settings := HealthSettings.defaults } else s.healthOf m :=
  (s.modifyGroup g (fun _ => gr)).healthOf_modifyHealth g m
    (fun _ => { GroupHealth.initial with settings := HealthSettings.defaults })

theorem State.ring_redefined (s : State) (g m : Nat) (gr : GroupRecord) :
    (s.redefined g gr).ring m = if m = g then Ring.initial else s.ring m :=
  State.ring_modifyRing ((s.modifyGroup g (fun _ => gr)).modifyHealth g
    (fun _ => { GroupHealth.initial with settings := HealthSettings.defaults })) g m (fun _ => Ring.initial)

theorem State.members_redefined {g m : Nat} {gr : GroupRecord} (hm : m ∈ (s.redefined g gr).members g) (hmg : m ≠ g) :
    m ∈ s.definedGroups ∧ gr.linkSet ≠ 0 ∧ (s.group m).linkSet = gr.linkSet := by
  have hself : (s.redefined g gr).group g = gr := by rw [State.group_redefined, if_pos rfl]
  rw [State.members, hself] at hm
  split at hm
  · exact absurd (List.mem_singleton.1 hm) hmg
  next hset =>
    rw [List.mem_filter, decide_eq_true_eq, State.group_redefined, if_neg hmg] at hm
    obtain ⟨hdefined, hlink⟩ := hm
    rw [State.definedGroups, List.mem_filter, State.group_redefined, if_neg hmg] at hdefined
    exact ⟨List.mem_filter.2 hdefined, hset, hlink⟩

/-- The evaluation behind Define Group finds no trigger where every other member stands ON_MAIN with nothing failed: it
clears WithheldReported. -/
theorem State.evaluate_redefined {g : Nat} {gr : GroupRecord} (hmain : gr.selectState = .onMain)
    (hms : ∀ m ∈ s.definedGroups, m ≠ g → gr.linkSet ≠ 0 → (s.group m).linkSet = gr.linkSet →
      (s.group m).selectState = .onMain ∧ (s.healthOf m).main.verdict ≠ .failed) :
    (s.redefined g gr).evaluate g = (s.redefined g gr).setWithheld ((s.redefined g gr).members g) false := by
  refine State.evaluate_calm fun m hm => ?_
  rw [State.verdict, GroupHealth.record, State.group_redefined, State.healthOf_redefined]
  by_cases hmg : m = g
  · rw [if_pos hmg, if_pos hmg]
    exact ⟨hmain, by decide⟩
  · rw [if_neg hmg, if_neg hmg]
    obtain ⟨hdefined, hset, hlink⟩ := State.members_redefined hm hmg
    exact hms m hdefined hmg hset hlink

end

/-- Settles O30, by the fields; the evaluation of the new group's set only clears what is clear. -/
theorem defineGroup : Obligations.DefineGroup := by
  intro s gr hh hl hs
  have hexec := (exec_defineGroup hh).trans (congrArg Host.Outcome.next (State.defineGroupCommand_standby hl hs))
  have hrefused : ¬(s.cmdGroup ≤ 7 ∧ s.sup.command.groupOk = true) →
      exec .defineGroup s = .next (s.answerCommand .badParameter []) := fun hbad =>
    hexec.trans (congrArg Host.Outcome.next (if_neg hbad))
  refine ⟨fun hbad => hrefused ?_, fun h0 hbad => hrefused ?_, fun hg hgr hms => ?_⟩
  · rw [CommandUnit.groupOk_iff]
    simp only [State.cmdWord] at hbad
    omega
  · rw [CommandUnit.groupOk_iff]
    simp only [State.cmdWord] at h0 hbad
    omega
  · have hok : s.sup.command.groupOk = true ∧ s.sup.command.groupRecord = gr := by
      rcases hgr with ⟨h1, rfl⟩ | ⟨h0, rfl, hranges⟩
      · exact ⟨(CommandUnit.groupOk_iff _).2 (.inl h1), if_pos h1⟩
      · exact ⟨(CommandUnit.groupOk_iff _).2 (.inr ⟨h0, hranges⟩),
          if_neg (by rw [show byteOf (s.sup.command.word 4) 3 = 0 from h0]; decide)⟩
    have hrecord : gr.defined = true ∧ gr.selectState = .onMain ∧ gr.targetRole = .main ∧ gr.withheldReported = false := by
      rcases hgr with ⟨_, rfl⟩ | ⟨_, rfl, _⟩ <;> exact ⟨rfl, rfl, rfl, rfl⟩
    obtain ⟨hdefined, hmain, htarget, hclear⟩ := hrecord
    have hcalm := State.evaluate_redefined hmain fun m hm hne h0 hlink => ⟨(hms m hm hne h0 hlink).1, (hms m hm hne h0 hlink).2.1⟩
    have hstate : s.defineGroup s.cmdGroup gr = ((s.redefined s.cmdGroup gr).setWithheld
        ((s.redefined s.cmdGroup gr).members s.cmdGroup) false).setTallies := by
      rw [State.defineGroup_eq, hcalm]
    generalize hmembers : (s.redefined s.cmdGroup gr).members s.cmdGroup = ms at hstate
    have hframe := (s.redefined s.cmdGroup gr).regrouped_setWithheld ms false
    have hnotices := (s.redefined s.cmdGroup gr).notices_setWithheld ms false
    have hgroup := fun m => State.group_setWithheld false m ms (s.redefined s.cmdGroup gr)
    generalize (s.redefined s.cmdGroup gr).setWithheld ms false = u at hstate hframe hnotices hgroup
    have hown : u.group s.cmdGroup = gr := by
      rw [hgroup, State.group_redefined, if_pos rfl, ← hclear, ite_self]
    refine ⟨(s.defineGroup s.cmdGroup gr).answerCommand .done [word (flag (s.group s.cmdGroup).defined)],
      hok.2 ▸ hexec.trans (congrArg Host.Outcome.next (if_pos ⟨hg, hok.1⟩)), ?_⟩
    rw [hstate]
    have hhealth : u.health = (s.redefined s.cmdGroup gr).health := hframe.health
    have hresolver : u.resolver = (s.redefined s.cmdGroup gr).resolver := hframe.resolver
    have hother : ∀ m, m ≠ s.cmdGroup → u.group m = s.group m := by
      intro m hm
      have hkept : (s.redefined s.cmdGroup gr).group m = s.group m := by rw [State.group_redefined, if_neg hm]
      rw [hgroup, hkept]
      split
      next hin =>
        obtain ⟨hd, hset, hlink⟩ := State.members_redefined (hmembers ▸ hin) hm
        rw [← (hms m hd hm hset hlink).2.2]
      next => rfl
    have htally : u.tallyOf .main = true := by
      refine List.any_eq_true.2 ⟨s.cmdGroup, ?_, ?_⟩
      · rw [State.definedGroups, List.mem_filter, List.mem_range, hown]
        exact ⟨by omega, hdefined⟩
      · rw [hown, htarget]
        rfl
    refine ⟨hown, ?_, ?_, fun m hm => ⟨hother m hm, ?_, ?_⟩, htally, rfl, ?_, ?_, ?_, ?_, ?_, ?_, ?_⟩
    · refine (congrArg (fun t => Table.get GroupHealth.initial t s.cmdGroup) hhealth).trans ?_
      exact ((State.healthOf_redefined ..).trans (if_pos rfl)).trans rfl
    · refine (congrArg (fun r : Resolver => Table.get Ring.initial r.rings s.cmdGroup) hresolver).trans ?_
      exact ((State.ring_redefined ..).trans (if_pos rfl)).trans rfl
    · exact (congrArg (fun t => Table.get GroupHealth.initial t m) hhealth).trans
        ((State.healthOf_redefined ..).trans (if_neg hm))
    · exact (congrArg (fun r : Resolver => Table.get Ring.initial r.rings m) hresolver).trans
        ((State.ring_redefined ..).trans (if_neg hm))
    · rw [word_flag]
      exact State.sup_answerCommand (t := u.setTallies) hframe.sup _ _
    · exact (by rw [hframe.eq] : u.mem = _)
    · exact hframe.part
    · exact (by rw [hframe.eq] : u.clock = _)
    · exact (by rw [hframe.eq] : u.pool = _)
    · exact (by rw [hframe.eq] : u.cache = _)
    · exact hnotices

/-! ### Set Thresholds (R129, R130) -/

section
variable {s : State}

theorem State.groupsOk_true (h : (s.cmdGroup = 255 ∧ s.definedGroups ≠ [])
    ∨ (s.cmdGroup ≤ 7 ∧ (s.group s.cmdGroup).defined = true)) : s.groupsOk s.cmdGroup = true := by
  rcases h with ⟨h, hsome⟩ | ⟨h, hsome⟩
  · simp [State.groupsOk, h, hsome]
  · have hne : s.cmdGroup ≠ 255 := by omega
    simp [State.groupsOk, hne, h, hsome]

theorem CommandUnit.thresholdsOk_iff (u : CommandUnit) : u.thresholdsOk = true ↔
    8 ≤ u.thresholds.windowLength ∧ u.thresholds.windowLength ≤ 1024 ∧ highHalf (u.word 2) ≤ 1
      ∧ u.thresholds.leadFloor ≤ 48 ∧ 1 ≤ u.thresholds.failAfter ∧ u.thresholds.failAfter ≤ 15
      ∧ 1 ≤ u.thresholds.soundAfter ∧ u.thresholds.soundAfter ≤ 15 ∧ 1 ≤ u.thresholds.divergeAfter
      ∧ u.thresholds.divergeAfter ≤ 15 ∧ 1 ≤ u.thresholds.agreeAfter ∧ u.thresholds.agreeAfter ≤ 15 := by
  simp only [CommandUnit.thresholdsOk, persistenceOk, flagOk, Bool.and_eq_true, decide_eq_true_eq, and_assoc]

/-- Not Locked, with a group named: the values decide. -/
theorem State.setThresholds_named (hl : s.sup.locked = false) (hg : s.groupsOk s.cmdGroup = true) :
    s.setThresholds = if s.sup.command.thresholdsOk = true then
        ((s.namedGroups s.cmdGroup).foldl
          (fun t g => t.modifyHealth g (fun h => h.take s.sup.command.thresholds (s.part.state == .running))) s).answerCommand
          .done [word (s.namedGroups s.cmdGroup).length, word (flag (s.part.state == .running))]
      else s.answerCommand .badParameter [] := by
  have hnot : ¬s.sup.locked = true := by simp [hl]
  rw [State.setThresholds, if_neg hnot, hg]
  cases s.sup.command.thresholdsOk <;> rfl

end

/-- Settles O31, by the group field and the ranges of the values. -/
theorem setThresholds : Obligations.SetThresholds := by
  intro s st named hh hl hst
  have hset : s.sup.command.thresholds = st := hst.symm
  refine ⟨fun hbad => ?_, fun hnamed => ?_⟩
  · have hnone : (s.cmdGroup = 255 ∧ s.definedGroups = []) ∨ (s.cmdGroup ≠ 255 ∧ 7 < s.cmdGroup)
        ∨ (s.cmdGroup ≤ 7 ∧ (s.group s.cmdGroup).defined = false) :=
      hbad.imp_right (Or.imp_left And.symm)
    rw [exec_setThresholds hh, State.setThresholds_badGroup hl (State.groupsOk_false hnone)]
  · have hgroups : s.groupsOk s.cmdGroup = true ∧ s.namedGroups s.cmdGroup = named := by
      rcases hnamed with ⟨h, hsome, rfl⟩ | ⟨h, hsome, rfl⟩
      · exact ⟨State.groupsOk_true (.inl ⟨h, hsome⟩), if_pos h⟩
      · exact ⟨State.groupsOk_true (.inr ⟨h, hsome⟩), if_neg (by omega)⟩
    obtain ⟨hok, hlist⟩ := hgroups
    have hexec := (exec_setThresholds hh).trans (congrArg Host.Outcome.next (State.setThresholds_named hl hok))
    have hdistinct : named.Nodup := by
      rcases hnamed with ⟨_, _, rfl⟩ | ⟨_, _, rfl⟩
      · exact s.nodup_definedGroups
      · exact nodup_single _
    have hranges := CommandUnit.thresholdsOk_iff s.sup.command
    rw [hset] at hranges hexec
    rw [hlist] at hexec
    have hword : word (flag (s.part.state == .running)) = if s.part.state = .running then 1 else 0 := by
      rw [word_flag]
      simp
    refine ⟨fun hout => hexec.trans (congrArg Host.Outcome.next (if_neg ?_)), fun h1 h2 h3 h4 h5 h6 h7 h8 h9 h10 h11 h12 => ?_⟩
    · rw [hranges]
      simp only [State.cmdWord] at hout
      omega
    · have hin : s.sup.command.thresholdsOk = true := hranges.2 ⟨h1, h2, h3, h4, h5, h6, h7, h8, h9, h10, h11, h12⟩
      obtain ⟨hframe, hread⟩ := State.foldl_modifyHealth (fun h => h.take st (s.part.state == .running)) named s hdistinct
      refine ⟨_, hexec.trans (congrArg Host.Outcome.next (if_pos hin)), ?_, fun g hg => ?_, fun g hg => ?_⟩
      · rw [hword]
        exact congrArg (fun t : State => t.answerCommand .done _) hframe
      · refine (hread g).trans ((if_pos hg).trans ?_)
        by_cases hr : s.part.state = .running <;> simp [GroupHealth.take, hr]
      · exact (hread g).trans (if_neg hg)

end Sys2Proof.Machine
end

section
/-! # Words of DRAM

What a word reads as after words are written: the word written at its place, any other word as before; and what a fill with
zeros and writes taken in order leave in each byte. -/

namespace Sys2Proof.Machine

/-! ### Words and their bytes -/

theorem readWord_congr {m m' : Memory} {a : Nat} (h : ∀ x, a ≤ x → x < a + 4 → readByte m x = readByte m' x) :
    readWord m a = readWord m' a := by
  simp only [readWord, h a (by omega) (by omega), h (a + 1) (by omega) (by omega), h (a + 2) (by omega) (by omega),
    h (a + 3) (by omega) (by omega)]

/-- Byte `i` of the word that is read. -/
theorem wordByte_readWord (m : Memory) (a : Nat) {i : Nat} (h : i < 4) :
    wordByte (readWord m a) i = readByte m (a + i) := by
  have hi : i = 0 ∨ i = 1 ∨ i = 2 ∨ i = 3 := by omega
  unfold wordByte readWord
  ext k hk
  simp only [BitVec.getElem_setWidth, BitVec.getLsbD_ushiftRight, BitVec.getLsbD_append]
  rcases hi with rfl | rfl | rfl | rfl
  · simp [hk, ← BitVec.getLsbD_eq_getElem]
  · simp [show ¬8 * 1 + k < 8 by omega, show 8 * 1 + k - 8 = k by omega, hk, ← BitVec.getLsbD_eq_getElem]
  · simp [show ¬8 * 2 + k < 8 by omega, show ¬8 * 2 + k - 8 < 8 by omega, show 8 * 2 + k - 8 - 8 = k by omega, hk,
      ← BitVec.getLsbD_eq_getElem]
  · simp [show ¬8 * 3 + k < 8 by omega, show ¬8 * 3 + k - 8 < 8 by omega, show ¬8 * 3 + k - 8 - 8 < 8 by omega,
      show 8 * 3 + k - 8 - 8 - 8 = k by omega, ← BitVec.getLsbD_eq_getElem]

/-- Each byte of a word that reads 0 is 0. -/
theorem readByte_of_readWord_zero {m : Memory} {a : Nat} (h : readWord m a = 0) {x : Nat} (hlo : a ≤ x) (hhi : x < a + 4) :
    readByte m x = 0 := by
  obtain ⟨i, rfl⟩ := Nat.exists_eq_add_of_le hlo
  rw [← wordByte_readWord m a (by omega : i < 4), h]
  simp [wordByte]

theorem readWord_of_readByte_zero {m : Memory} {a : Nat} (h : ∀ x, a ≤ x → x < a + 4 → readByte m x = 0) :
    readWord m a = 0 := by
  simp only [readWord, h a (by omega) (by omega), h (a + 1) (by omega) (by omega), h (a + 2) (by omega) (by omega),
    h (a + 3) (by omega) (by omega)]
  decide

/-! ### After words are written -/

theorem readWord_writeWord_of_outside (m : Memory) {a x : Nat} (w : Word) (h : x + 4 ≤ a ∨ a + 4 ≤ x) :
    readWord (writeWord m a w) x = readWord m x :=
  readWord_congr fun _ _ _ => readByte_writeWord_of_outside m w (by omega)

theorem readWord_writeWords_of_outside (m : Memory) {a x : Nat} (ws : List Word)
    (h : x + 4 ≤ a ∨ a + 4 * ws.length ≤ x) : readWord (writeWords m a ws) x = readWord m x :=
  readWord_congr fun _ _ _ => readByte_writeWords_of_outside ws m a (by omega)

/-- Word `i` of the words written. -/
theorem readWord_writeWords {i : Nat} : ∀ (ws : List Word) (m : Memory) (a : Nat), i < ws.length →
    readWord (writeWords m a ws) (a + 4 * i) = ws.getD i 0
  | [], _, _, h => absurd h (Nat.not_lt_zero i)
  | w :: ws, m, a, h => by
    rw [writeWords]
    cases i with
    | zero =>
      rw [readWord_writeWords_of_outside _ _ (by omega)]
      exact readWord_writeWord m a w
    | succ i =>
      rw [show a + 4 * (i + 1) = a + 4 + 4 * i by omega, readWord_writeWords ws _ _ (Nat.lt_of_succ_lt_succ h)]
      rfl

/-- A byte that none of the writes reaches keeps its value. -/
theorem readByte_takeWrites_of_outside {x : Nat} : ∀ (ws : List (Nat × List Word)) (m : Memory),
    (∀ w ∈ ws, x < w.1 ∨ w.1 + 4 * w.2.length ≤ x) → readByte (takeWrites m ws) x = readByte m x
  | [], _, _ => rfl
  | w :: ws, m, h => by
    rw [takeWrites, readByte_takeWrites_of_outside ws _ fun v hv => h v (List.mem_cons_of_mem _ hv),
      readByte_writeWords_of_outside _ _ _ (h w List.mem_cons_self)]

/-- The first words of writes lie within the writes. -/
theorem firstWords_within {x : Nat} : ∀ (n : Nat) (ws : List (Nat × List Word)),
    (∀ w ∈ ws, x < w.1 ∨ w.1 + 4 * w.2.length ≤ x) → ∀ w ∈ firstWords n ws, x < w.1 ∨ w.1 + 4 * w.2.length ≤ x
  | _, [], _ => fun _ hw => absurd hw List.not_mem_nil
  | n, v :: ws, h => by
    intro w hw
    rw [firstWords, List.mem_cons] at hw
    rcases hw with rfl | hw
    · have hv := h v List.mem_cons_self
      rw [List.length_take]
      omega
    · exact firstWords_within _ ws (fun u hu => h u (List.mem_cons_of_mem _ hu)) w hw

theorem readByte_landFirst_of_outside {x : Nat} (m : Memory) (n : Nat) (ws : List (Nat × List Word))
    (h : ∀ w ∈ ws, x < w.1 ∨ w.1 + 4 * w.2.length ≤ x) : readByte (landFirst m n ws) x = readByte m x :=
  readByte_takeWrites_of_outside _ m (firstWords_within n ws h)

/-- What writes leave in flight lies within the writes. -/
theorem afterWords_within {x : Nat} : ∀ (n : Nat) (ws : List (Nat × List Word)),
    (∀ w ∈ ws, x < w.1 ∨ w.1 + 4 * w.2.length ≤ x) → ∀ w ∈ afterWords n ws, x < w.1 ∨ w.1 + 4 * w.2.length ≤ x
  | _, [], _ => fun _ hw => absurd hw List.not_mem_nil
  | n, v :: ws, h => by
    intro w hw
    rw [afterWords, List.mem_cons] at hw
    rcases hw with rfl | hw
    · have hv := h v List.mem_cons_self
      rw [List.length_drop]
      omega
    · exact afterWords_within _ ws (fun u hu => h u (List.mem_cons_of_mem _ hu)) w hw

/-- A fill with zeros clears its bytes and keeps every other. -/
theorem readByte_zeroFill (m : Memory) (a len x : Nat) :
    readByte (zeroFill m a len) x = if a ≤ x ∧ x < a + len then 0 else readByte m x := by
  unfold readByte zeroFill
  induction m with
  | nil => simp [Memory.unlisted]
  | cons c m ih =>
    by_cases hc : a ≤ c.1 ∧ c.1 < a + len
    · rw [List.filter_cons_of_neg (by simp [hc]), ih]
      by_cases hx : x = c.1
      · simp [hx, hc]
      · simp only [Table.get, if_neg hx]
    · rw [List.filter_cons_of_pos (by simp only [Bool.not_eq_true', Bool.and_eq_false_iff, decide_eq_false_iff_not]; omega)]
      by_cases hx : x = c.1
      · simp [Table.get, hx, hc]
      · simp only [Table.get, if_neg hx, ih]

/-! ### Packed words (R179) -/

theorem toNat_word {n : Nat} (h : n < 4294967296) : (word n).toNat = n := by
  simp [word, Nat.mod_eq_of_lt h]

theorem toNat_packHalves (lo hi : Nat) : (packHalves lo hi).toNat = lo % 65536 + 65536 * (hi % 65536) :=
  toNat_word (by omega)

theorem toNat_packBytes (b0 b1 b2 b3 : Nat) : (packBytes b0 b1 b2 b3).toNat
    = b0 % 256 + 256 * (b1 % 256) + 65536 * (b2 % 256) + 16777216 * (b3 % 256) :=
  toNat_word (by omega)

/-- A word is packed of its halves. -/
theorem packHalves_halves (w : Word) : packHalves (halves w).rig1 (halves w).rig2 = w := by
  have hw : w.toNat < 4294967296 := w.isLt
  refine BitVec.eq_of_toNat_eq ?_
  rw [toNat_packHalves]
  simp only [halves]
  omega

/-! # The Channel Directory: Define and Undefine Channel (R52, R64 to R66) -/

section
variable {s : State}

theorem State.dirEntryAddr_of_some {a : Anchor} (ha : s.sup.anchor = some a) (c : Nat) :
    s.dirEntryAddr c = a.channelDirectoryBase + 32 * c := by
  simp only [State.dirEntryAddr, State.dirBase, ha, dirAddr]
  omega

theorem DirEntry.length_words (d : DirEntry) : d.words.length = 8 := rfl

theorem State.mem_writeDirEntry (c : Nat) (d : DirEntry) :
    (s.writeDirEntry c d).mem = writeWords s.mem (s.dirEntryAddr c) d.words := by
  rw [State.writeDirEntry]

/-- The answer of a command that has rewritten an entry changes DRAM and the Command Unit. -/
theorem State.answerCommand_writeDirEntry (c : Nat) (d : DirEntry) (r : ResultCode) (l : List Word) :
    (s.writeDirEntry c d).answerCommand r l = { s.answerCommand r l with mem := (s.writeDirEntry c d).mem } := by
  rw [State.mem_writeDirEntry, State.writeDirEntry]
  generalize writeWords s.mem (s.dirEntryAddr c) d.words = m
  rfl

/-- A byte outside the entry keeps its value. -/
theorem State.readByte_writeDirEntry (c : Nat) (d : DirEntry) {x : Nat}
    (h : x < s.dirEntryAddr c ∨ s.dirEntryAddr c + 32 ≤ x) : readByte (s.writeDirEntry c d).mem x = readByte s.mem x := by
  rw [State.mem_writeDirEntry]
  refine readByte_writeWords_of_outside _ _ _ ?_
  rw [DirEntry.length_words]
  omega

theorem State.readWord_writeDirEntry (c : Nat) (d : DirEntry) {i : Nat} (h : i < 8) :
    readWord (s.writeDirEntry c d).mem (s.dirEntryAddr c + 4 * i) = d.words.getD i 0 := by
  rw [State.mem_writeDirEntry, readWord_writeWords]
  rwa [DirEntry.length_words]

/-- Words 3 to 7 of an entry are 0 (R52). -/
theorem State.readByte_writeDirEntry_rest (c : Nat) (d : DirEntry) {x : Nat} (hlo : s.dirEntryAddr c + 12 ≤ x)
    (hhi : x < s.dirEntryAddr c + 32) : readByte (s.writeDirEntry c d).mem x = 0 := by
  obtain ⟨i, hi, hx⟩ : ∃ i, i < 5 ∧ s.dirEntryAddr c + 4 * (i + 3) ≤ x ∧ x < s.dirEntryAddr c + 4 * (i + 3) + 4 :=
    ⟨(x - (s.dirEntryAddr c + 12)) / 4, by omega, by omega, by omega⟩
  have hzero : d.words.getD (i + 3) 0 = 0 := by
    have hcases : i = 0 ∨ i = 1 ∨ i = 2 ∨ i = 3 ∨ i = 4 := by omega
    rcases hcases with rfl | rfl | rfl | rfl | rfl <;> rfl
  exact readByte_of_readWord_zero ((s.readWord_writeDirEntry c d (by omega)).trans hzero) hx.1 hx.2

theorem DirEntry.words_undefined (i : Nat) : DirEntry.undefined.words.getD i 0 = 0 := by
  have h : DirEntry.undefined.words = List.replicate 8 0 := by decide
  rw [h, List.getD_eq_getElem?_getD, List.getElem?_replicate]
  split <;> rfl

/-- The entry of an undefined channel is all zeros. -/
theorem State.readByte_writeUndefined (s : State) (c : Nat) {x : Nat} (hlo : s.dirEntryAddr c ≤ x)
    (hhi : x < s.dirEntryAddr c + 32) : readByte (s.writeDirEntry c DirEntry.undefined).mem x = 0 := by
  obtain ⟨i, hi, hx⟩ : ∃ i, i < 8 ∧ s.dirEntryAddr c + 4 * i ≤ x ∧ x < s.dirEntryAddr c + 4 * i + 4 :=
    ⟨(x - s.dirEntryAddr c) / 4, by omega, by omega, by omega⟩
  have hword := s.readWord_writeDirEntry c DirEntry.undefined hi
  rw [DirEntry.words_undefined] at hword
  exact readByte_of_readWord_zero hword hx.1 hx.2

/-- Word 0 of an entry, as a number (R52, R181). -/
theorem DirEntry.toNat_word0 (d : DirEntry) : d.word0.toNat
    = flag d.defined + 2 * flag d.cached + 4 * d.kind.code + 256 * (d.group % 8) := by
  rw [DirEntry.word0, toNat_packBytes]
  have hcode : d.kind.code ≤ 1 := by cases d.kind <;> decide
  have hd : flag d.defined ≤ 1 := by cases d.defined <;> decide
  have hc : flag d.cached ≤ 1 := by cases d.cached <;> decide
  omega

/-- In STANDBY and not Locked the fields of Define Channel decide (R64). -/
theorem State.defineChannel_standby (hl : s.sup.locked = false) (hs : s.part.state = .standby) : s.defineChannel
    = if 767 < s.cmdChannel ∨ 7 < s.cmdGroup ∨ 1 < (s.cmdWord 2).toNat ∨ (s.group s.cmdGroup).defined = false
      then s.answerCommand .badParameter [] else s.awaitDirectory .read := by
  have hnot : ¬s.sup.locked = true := by simp [hl]
  rw [State.defineChannel, if_neg hnot, if_neg (Decidable.not_not.2 hs), ite_ite_of_or]
  exact ite_of_iff (by rw [or_assoc, or_assoc]) rfl rfl

theorem State.undefineChannel_standby (hl : s.sup.locked = false) (hs : s.part.state = .standby) : s.undefineChannel
    = if 767 < s.cmdChannel then s.answerCommand .badParameter []
      else (s.writeDirEntry s.cmdChannel DirEntry.undefined).answerCommand .done [] := by
  have hnot : ¬s.sup.locked = true := by simp [hl]
  rw [State.undefineChannel, if_neg hnot, if_neg (Decidable.not_not.2 hs)]
  rfl

end

/-- Settles O32, by the fields and by the command that waits for the directory. -/
theorem channelDefinition : Obligations.ChannelDefinition := by
  intro s a c e ha hc he
  have haddr : s.dirEntryAddr c = e := (State.dirEntryAddr_of_some ha c).trans he.symm
  refine ⟨fun hl hs hh => ?define, fun hl hs hh => ?undefine, fun hphase hwait => ?read⟩
  case define =>
    have hexec := (exec_defineChannel hh).trans (congrArg Host.Outcome.next (State.defineChannel_standby hl hs))
    rw [← hc] at hexec
    refine ⟨fun hbad => hexec.trans (congrArg Host.Outcome.next (if_pos hbad)), fun h1 h2 h3 h4 => ?_⟩
    refine hexec.trans (congrArg Host.Outcome.next (if_neg ?_))
    rw [h4]
    rintro (h | h | h | h)
    · omega
    · omega
    · omega
    · cases h
  case undefine =>
    have hexec := (exec_undefineChannel hh).trans (congrArg Host.Outcome.next (State.undefineChannel_standby hl hs))
    rw [← hc] at hexec
    refine ⟨fun hbad => hexec.trans (congrArg Host.Outcome.next (if_pos hbad)), fun hin => ?_⟩
    rw [if_neg (Nat.not_lt.2 hin), State.answerCommand_writeDirEntry] at hexec
    have hzero := fun x => s.readByte_writeUndefined c (x := x)
    have hkept := fun x => s.readByte_writeDirEntry c DirEntry.undefined (x := x)
    rw [haddr] at hzero hkept
    generalize (s.writeDirEntry c DirEntry.undefined).mem = m at hexec hzero hkept
    exact ⟨_, hexec, rfl, hzero, hkept⟩
  case read =>
    have hexec : ∀ error, exec (.commandDirectoryReadDone error) s = .next (s.commandDirectoryRead error) := fun error =>
      congrArg Host.Outcome.next (if_pos ⟨hphase, hwait⟩)
    refine ⟨hexec true, fun hk => ?_, fun hk => ?_⟩
    · have hdone : s.commandDirectoryRead false = s.finishDefineChannel :=
        (if_neg Bool.false_ne_true).trans (if_pos hk)
      have hfinish : s.finishDefineChannel
          = (s.writeDirEntry c ((s.dirEntry c).redefined s.cmdGroup s.cmdKind)).answerCommand .done
            [word (flag (s.dirEntry c).defined)] := by
        rw [hc]
        rfl
      have hold : (s.dirEntry c).defined = (readWord s.mem e).getLsbD 0 := by
        rw [State.dirEntry, haddr]
        rfl
      have hword := fun i (hi : i < 8) =>
        s.readWord_writeDirEntry c ((s.dirEntry c).redefined s.cmdGroup s.cmdKind) hi
      rw [haddr] at hword
      have hkept : ∀ (w : Word) (r : PerRig Nat), r = halves w →
          (fun p : PerRig Nat => packHalves p.rig1 p.rig2) (if (s.dirEntry c).defined = true then r else ⟨0, 0⟩)
            = if (readWord s.mem e).getLsbD 0 = true then w else 0 := by
        rintro w r rfl
        rw [hold]
        split
        · exact packHalves_halves w
        · rfl
      rw [State.answerCommand_writeDirEntry, word_flag, hold] at hfinish
      have hrest := fun x => s.readByte_writeDirEntry_rest c ((s.dirEntry c).redefined s.cmdGroup s.cmdKind) (x := x)
      have hout := fun x => s.readByte_writeDirEntry c ((s.dirEntry c).redefined s.cmdGroup s.cmdKind) (x := x)
      rw [haddr] at hrest hout
      generalize hd : (s.dirEntry c).redefined s.cmdGroup s.cmdKind = d at hfinish hword hrest hout
      generalize (s.writeDirEntry c d).mem = m at hfinish hword hrest hout
      have hkind : s.cmdKind.code = if s.cmdWord 2 = 1 then 1 else 0 := by
        rw [State.cmdKind]
        split <;> rfl
      have hword0 : d.word0.toNat = 1 + 4 * (if s.cmdWord 2 = 1 then 1 else 0) + 256 * (s.cmdGroup % 8) := by
        rw [DirEntry.toNat_word0, ← hd]
        simp only [DirEntry.redefined, hkind, flag, if_true, Bool.false_eq_true, if_false]
      have haccepted : d.words.getD 1 0 = if (readWord s.mem e).getLsbD 0 = true then readWord s.mem (e + 4) else 0 := by
        rw [← hd]
        exact hkept (readWord s.mem (e + 4)) _ (by rw [State.dirEntry, haddr]; rfl)
      have hdamaged : d.words.getD 2 0 = if (readWord s.mem e).getLsbD 0 = true then readWord s.mem (e + 8) else 0 := by
        rw [← hd]
        exact hkept (readWord s.mem (e + 8)) _ (by rw [State.dirEntry, haddr]; rfl)
      exact ⟨_, (hexec false).trans (congrArg Host.Outcome.next (hdone.trans hfinish)), rfl,
        (congrArg BitVec.toNat (hword 0 (by omega))).trans hword0, (hword 1 (by omega)).trans haccepted,
        (hword 2 (by omega)).trans hdamaged, hrest, hout⟩
    · have hreport : s.commandDirectoryRead false = s.answerCommand .noContext ((readDirEntry s.mem e).report c) := by
        rw [State.commandDirectoryRead, if_neg Bool.false_ne_true, if_neg (by rw [hk]; decide), ← hc, State.dirEntry, haddr]
      refine ⟨(readDirEntry s.mem e).report c, (hexec false).trans (congrArg Host.Outcome.next hreport), rfl, rfl,
        packHalves_halves _, packHalves_halves _, rfl, ?_⟩
      refine (toNat_packHalves _ _).trans ?_
      have hkind : (readDirEntry s.mem e).kind.code = if (readWord s.mem e).getLsbD 2 = true then 1 else 0 := by
        simp only [readDirEntry]
        split <;> rfl
      have hdef : flag (readDirEntry s.mem e).defined = if (readWord s.mem e).getLsbD 0 = true then 1 else 0 := rfl
      have hgroup : (readDirEntry s.mem e).group = (readWord s.mem e).toNat / 256 % 8 := rfl
      rw [hkind, hdef, hgroup, show flag false = 0 from rfl]
      cases (readWord s.mem e).getLsbD 0 <;> cases (readWord s.mem e).getLsbD 2 <;>
        simp only [if_true, Bool.false_eq_true, if_false] <;> omega

end Sys2Proof.Machine
end

section
/-! # Read Context and Query Coverage (R66, R74 to R79) -/

namespace Sys2Proof.Machine

/-! ### Coverage, reach and the figures of a group -/

/-- Every block of the run from `m` is in the list. -/
theorem mem_of_lt_coverageFrom : ∀ (es : List Entry) (m i : Nat), i < coverageFrom m es → ∃ e ∈ es, e.block = m + i
  | [], _, i, h => absurd h (Nat.not_lt_zero i)
  | e :: es, m, i, h => by
    rw [coverageFrom] at h
    split at h
    · obtain ⟨x, hx, hb⟩ := mem_of_lt_coverageFrom es m i h
      exact ⟨x, List.mem_cons_of_mem _ hx, hb⟩
    · split at h
      next hm =>
        cases i with
        | zero => exact ⟨e, List.mem_cons_self, hm⟩
        | succ i =>
          obtain ⟨x, hx, hb⟩ := mem_of_lt_coverageFrom es (m + 1) i (by omega)
          exact ⟨x, List.mem_cons_of_mem _ hx, by omega⟩
      next => exact absurd h (Nat.not_lt_zero i)

/-- The run of a rising list ends before a block that the list lacks. -/
theorem ne_end_of_coverage : ∀ (es : List Entry) (m : Nat), es.Pairwise (fun e f => e.block < f.block) →
    ∀ e ∈ es, e.block ≠ m + coverageFrom m es
  | [], _, _ => fun _ he => absurd he List.not_mem_nil
  | x :: es, m, h => by
    obtain ⟨hx, hes⟩ := List.pairwise_cons.1 h
    intro e he
    rw [coverageFrom]
    split
    next hlt =>
      rcases List.mem_cons.1 he with rfl | he
      · omega
      · exact ne_end_of_coverage es m hes e he
    next hge =>
      split
      next heq =>
        rcases List.mem_cons.1 he with rfl | he
        · omega
        · have hrest := ne_end_of_coverage es (m + 1) hes e he
          omega
      next hne =>
        rcases List.mem_cons.1 he with rfl | he
        · omega
        · have hlt := hx e he
          omega

theorem reach_tail (m : Nat) (pre : List Entry) (e : Entry) (h : m ≤ e.block) : reach m (pre ++ [e]) = e.block - m + 1 := by
  rw [reach, List.getLast?_concat]
  dsimp only
  omega

section
variable (s : State) (g : Nat)

/-- The contexts of a group, read. -/
theorem State.contextsOf_read : (s.contextsOf g).map s.context
    = (s.cache.validContexts.map s.context).filter (fun x => decide (x.group = g)) := by
  rw [State.contextsOf, List.filter_map]
  rfl

theorem State.streamingOf_eq : s.streamingOf g
    = ((s.cache.validContexts.map s.context).filter (fun x => decide (x.group = g))).filter (fun x => x.streaming) := by
  rw [State.streamingOf, State.contextsOf_read]

theorem State.minCoverage_none {r : Rig} (h : s.streamingOf g = []) : s.minCoverage g r = 0 := by
  rw [State.minCoverage, h]
  rfl

/-- MinCoverage is the least coverage of the Streaming channels (R78). -/
theorem State.minCoverage_least {r : Rig} (h : s.streamingOf g ≠ []) :
    (∃ x ∈ s.streamingOf g, s.minCoverage g r = coverageFrom s.resolver.resolveFront (x.lists.get r))
    ∧ ∀ x ∈ s.streamingOf g, s.minCoverage g r ≤ coverageFrom s.resolver.resolveFront (x.lists.get r) := by
  cases hmin : ((s.streamingOf g).map (fun x => coverageFrom s.resolver.resolveFront (x.lists.get r))).min? with
  | none => exact absurd (List.map_eq_nil_iff.1 (List.min?_eq_none_iff.1 hmin)) h
  | some n =>
    have hn : s.minCoverage g r = n := by rw [State.minCoverage, hmin]; rfl
    obtain ⟨hmem, hle⟩ := List.min?_eq_some_iff.1 hmin
    obtain ⟨x, hx, hval⟩ := List.mem_map.1 hmem
    rw [hn]
    exact ⟨⟨x, hx, hval.symm⟩, fun y hy => hle _ (List.mem_map.2 ⟨y, hy, rfl⟩)⟩

/-- A gap is a list that lacks ResolveFront (R78). -/
theorem State.gaps_eq (r : Rig) : s.gaps g r
    = (s.streamingOf g).countP (fun x => (x.lists.get r).all (fun e => e.block != s.resolver.resolveFront)) := by
  rw [State.gaps]
  congr 1
  funext x
  rw [Bool.eq_iff_iff, Option.isNone_iff_eq_none, findEntry_none_iff]
  simp

/-- In ARMED and RUNNING, Query Coverage by channel. -/
theorem State.queryCoverage_channel (hs : s.part.state = .armed ∨ s.part.state = .running) (h1 : s.cmdWord 1 ≠ 0xFFFFFFFF) :
    s.queryCoverage = if 767 < s.cmdChannel then s.answerCommand .badParameter [] else s.queryChannel := by
  rw [State.queryCoverage, State.showing_iff.2 hs, if_neg h1]
  rfl

/-- In ARMED and RUNNING, Query Coverage by group. -/
theorem State.queryCoverage_group (hs : s.part.state = .armed ∨ s.part.state = .running) (h1 : s.cmdWord 1 = 0xFFFFFFFF) :
    s.queryCoverage = if s.cmdGroup ≤ 7 ∧ (s.group s.cmdGroup).defined = true then s.queryGroup s.cmdGroup
      else s.answerCommand .badParameter [] := by
  rw [State.queryCoverage, State.showing_iff.2 hs, if_pos h1]
  rfl

end

/-- Settles O33: the figures of lists and groups, then the branches of the two commands. -/
theorem readContextAndQueryCoverage : Obligations.ReadContextAndQueryCoverage := by
  refine ⟨fun m es h => ⟨mem_of_lt_coverageFrom es m, ne_end_of_coverage es m h⟩, fun m es => ⟨?_, ?_⟩,
    fun s g r channels streaming hc hst => ?figures, fun s => ⟨fun hh => ?read, fun hh hs => ?query⟩⟩
  · rintro rfl
    rfl
  · rintro pre e rfl h
    exact reach_tail m pre e h
  case figures =>
    have hstream : s.streamingOf g = streaming := by rw [hst, hc, State.streamingOf_eq]
    have hlen : (s.contextsOf g).length = channels.length := by rw [hc, ← State.contextsOf_read, List.length_map]
    rw [← hstream]
    refine ⟨hlen, rfl, s.minCoverage_none g, fun hne => (s.minCoverage_least g hne).1, fun x hx => ?_, s.gaps_eq g r⟩
    exact (s.minCoverage_least g (List.ne_nil_of_mem hx)).2 x hx
  case read =>
    have hexec := exec_readContext hh
    refine ⟨fun hbig => hexec.trans (congrArg Host.Outcome.next (if_pos hbig)), fun k x hin hmap hx => ?_, fun hin hmap => ?_⟩
    · rw [hexec, State.readContext, if_neg (Nat.not_lt.2 hin), hmap, hx]
      dsimp only
      rw [Context.report, channelWord]
      rfl
    · rw [hexec, State.readContext, if_neg (Nat.not_lt.2 hin), hmap]
      rfl
  case query =>
    have hexec := exec_queryCoverage hh
    refine ⟨fun h1 hbig => ?_, fun h1 hbad => ?_, fun h1 hin hmap => ?_, fun k x h1 hin hmap hx => ?_, fun h1 hg hd => ?_⟩
    · rw [hexec, s.queryCoverage_channel hs h1, if_pos hbig]
    · rw [hexec, s.queryCoverage_group hs h1, if_neg]
      rintro ⟨hg, hd⟩
      rcases hbad with hbad | hbad
      · omega
      · rw [hd] at hbad
        cases hbad
    · rw [hexec, s.queryCoverage_channel hs h1, if_neg (Nat.not_lt.2 hin), State.queryChannel, hmap]
    · rw [hexec, s.queryCoverage_channel hs h1, if_neg (Nat.not_lt.2 hin), State.queryChannel, hmap, hx]
      rfl
    · rw [hexec, s.queryCoverage_group hs h1, if_pos ⟨hg, hd⟩]
      rfl

end Sys2Proof.Machine
end

section
/-! # Arm Show (R12, R105, R132, R155) -/

namespace Sys2Proof.Machine

/-- A loop that writes each entry of a list of keys by the key alone. -/
theorem Table.get_foldl_set {α : Type} [DecidableEq α] (d : α) (f : Nat → α) (j : Nat) : ∀ (ks : List Nat) (t : Table α),
    Table.get d (ks.foldl (fun t k => Table.set d t k (f k)) t) j = if j ∈ ks then f j else Table.get d t j
  | [], _ => by simp
  | k :: ks, t => by
    rw [List.foldl_cons, Table.get_foldl_set d f j ks, Table.get_set]
    by_cases hk : j = k
    · subst hk
      simp
    · simp [hk]

/-- Slot `k` of a ring at Arm Show is EMPTY and carries its number of [b, b + 16) (R81, R105). -/
theorem Ring.slot_armed (b : Nat) {k : Nat} (hk : k < 16) :
    (Ring.armed b).slot k = { Slot.initial with block := carriedBlock b k } := by
  refine (Table.get_foldl_set Slot.initial (fun k => { Slot.initial with block := carriedBlock b k }) k _ []).trans ?_
  rw [if_pos (List.mem_range.2 hk)]

theorem carriedBlock_bounds (b : Nat) {k : Nat} (hk : k < 16) :
    b ≤ carriedBlock b k ∧ carriedBlock b k < b + 16 ∧ carriedBlock b k % 16 = k := by
  unfold carriedBlock
  omega

section
variable (b : Nat)

theorem State.group_armGroup (s : State) (g h : Nat) :
    (State.armGroup b s g).group h = if h = g then (s.group g).armed b else s.group h :=
  s.group_modifyGroup g h (fun gr => gr.armed b)

theorem State.healthOf_armGroup (s : State) (g h : Nat) :
    (State.armGroup b s g).healthOf h = if h = g then (s.healthOf g).started else s.healthOf h :=
  (s.modifyGroup g (fun gr => gr.armed b)).healthOf_modifyHealth g h GroupHealth.started

theorem State.ring_armGroup (s : State) (g h : Nat) :
    (State.armGroup b s g).ring h = if h = g then Ring.armed b else s.ring h :=
  ((s.modifyGroup g (fun gr => gr.armed b)).modifyHealth g GroupHealth.started).ring_modifyRing g h (fun _ => Ring.armed b)

/-- Arming distinct groups changes their records, health and rings, each once, and nothing else. -/
theorem State.armGroups : ∀ (gs : List Nat) (s : State), gs.Nodup →
    (gs.foldl (State.armGroup b) s = { s with
        groups := (gs.foldl (State.armGroup b) s).groups, health := (gs.foldl (State.armGroup b) s).health
        resolver := { s.resolver with rings := (gs.foldl (State.armGroup b) s).resolver.rings } })
      ∧ ∀ h, (gs.foldl (State.armGroup b) s).group h = (if h ∈ gs then (s.group h).armed b else s.group h)
        ∧ (gs.foldl (State.armGroup b) s).healthOf h = (if h ∈ gs then (s.healthOf h).started else s.healthOf h)
        ∧ (gs.foldl (State.armGroup b) s).ring h = (if h ∈ gs then Ring.armed b else s.ring h)
  | [], _, _ => ⟨rfl, fun _ => by simp⟩
  | g :: gs, s, hn => by
    obtain ⟨hg, hgs⟩ := List.nodup_cons.1 hn
    obtain ⟨hframe, hread⟩ := State.armGroups gs (State.armGroup b s g) hgs
    refine ⟨hframe, fun h => ?_⟩
    obtain ⟨hgroup, hhealth, hring⟩ := hread h
    rw [List.foldl_cons, hgroup, hhealth, hring, State.group_armGroup, State.healthOf_armGroup, State.ring_armGroup]
    by_cases hh : h = g
    · subst hh
      simp [hg]
    · simp [hh]

end

/-- In STANDBY and not Locked the groups and StartBlock decide. -/
theorem State.armShow_standby {s : State} (hl : s.sup.locked = false) (hs : s.part.state = .standby) : s.armShow
    = if s.definedGroups = [] then s.answerCommand .wrongState []
      else if 281474976710656 - 1099511627776 ≤ s.cmdStart then s.answerCommand .badParameter []
      else (s.arm s.cmdStart).answerCommand .done [word s.clock.state.code] := by
  have hnot : ¬s.sup.locked = true := by simp [hl]
  rw [State.armShow, if_neg hnot, if_neg (Decidable.not_not.2 hs)]
  exact ite_of_iff List.isEmpty_iff rfl rfl

/-- Settles O34, by the groups and StartBlock; the values of each group are those of `State.armGroups`. -/
theorem armShow : Obligations.ArmShow := by
  intro s b hh hl hs hb
  have hexec := (exec_armShow hh).trans (congrArg Host.Outcome.next (State.armShow_standby hl hs))
  rw [show s.cmdStart = b from hb.symm] at hexec
  refine ⟨fun hnone => hexec.trans (congrArg Host.Outcome.next (if_pos hnone)), fun hsome => ⟨fun hbig => ?_, fun hin => ?_⟩⟩
  · rw [hexec, if_neg hsome, if_pos hbig]
  · rw [if_neg hsome, if_neg (Nat.not_le.2 hin)] at hexec
    refine ⟨_, hexec, ?_⟩
    obtain ⟨hframe, hread⟩ := State.armGroups b s.definedGroups (s.onArm b) s.nodup_definedGroups
    rw [show s.definedGroups.foldl (State.armGroup b) (s.onArm b) = s.arm b from rfl] at hframe hread
    generalize s.arm b = u at hframe hread
    have hslot : ∀ g ∈ s.definedGroups, ∀ k, k < 16 → u.slot g k = { Slot.initial with block := carriedBlock b k } := by
      intro g hg k hk
      rw [State.slot, (hread g).2.2, if_pos hg, Ring.slot_armed b hk]
    have hslots : ∀ g ∈ s.definedGroups, ∀ k, k < 16 → (u.slot g k).state = .empty ∧ (u.slot g k).outstanding = 0
        ∧ b ≤ (u.slot g k).block ∧ (u.slot g k).block < b + 16 ∧ (u.slot g k).block % 16 = k := by
      intro g hg k hk
      rw [hslot g hg k hk]
      exact ⟨rfl, rfl, carriedBlock_bounds b hk⟩
    refine ⟨by rw [hframe]; rfl, by rw [hframe]; rfl, by rw [hframe]; rfl, by rw [hframe]; rfl, by rw [hframe]; rfl, by rw [hframe]; rfl,
      by rw [hframe]; rfl, by rw [hframe]; rfl, by rw [hframe]; rfl, by rw [hframe]; rfl, by rw [hframe]; rfl, by rw [hframe]; rfl,
      by rw [hframe]; rfl, by rw [hframe]; rfl, fun g hg => ⟨?_, ?_, ?_, ?_, ?_, hslots g hg⟩, fun g hg => ?_⟩
    · exact (hread g).1.trans (if_pos hg)
    · exact (hread g).2.1.trans (if_pos hg)
    · exact congrArg Ring.playBase ((hread g).2.2.trans (if_pos hg))
    · exact congrArg Ring.readerLateReported ((hread g).2.2.trans (if_pos hg))
    · exact congrArg Ring.mapFaultReported ((hread g).2.2.trans (if_pos hg))
    · exact ⟨(hread g).1.trans (if_neg hg), (hread g).2.1.trans (if_neg hg), (hread g).2.2.trans (if_neg hg)⟩

end Sys2Proof.Machine
end

section
/-! # Switch, Hold and Release Hold (R147 to R150)

A command on sets acts on one set after another. The sets of different leaders are apart, and an act on a set changes the
records of its members alone and keeps the sets, so each set is acted on as the command found it. -/

namespace Sys2Proof.Machine

/-! ### What an act on a set changes -/

/-- Only the records of `ms`, the notices and the tallies differ, and no record changes its set or its hold. -/
structure State.Acted (ms : List Nat) (s t : State) : Prop where
  frame : s.Retallied t
  outside : ∀ m, m ∉ ms → t.group m = s.group m
  held : ∀ m, (t.group m).hold = (s.group m).hold
  sets : s.SameSets t

section
variable {s t : State} {ms : List Nat}

theorem State.Acted.refl (ms : List Nat) (s : State) : State.Acted ms s s :=
  ⟨.refl s, fun _ _ => rfl, fun _ => rfl, fun _ => ⟨rfl, rfl⟩⟩

theorem State.Acted.trans {u : State} (h : State.Acted ms s t) (h' : State.Acted ms t u) : State.Acted ms s u :=
  ⟨h.frame.trans h'.frame, fun m hm => (h'.outside m hm).trans (h.outside m hm), fun m => (h'.held m).trans (h.held m),
    h.sets.trans h'.sets⟩

theorem State.Acted.mono {ns : List Nat} (h : State.Acted ms s t) (hsub : ∀ m ∈ ms, m ∈ ns) : State.Acted ns s t :=
  ⟨h.frame, fun m hm => h.outside m fun hin => hm (hsub m hin), h.held, h.sets⟩

theorem State.Regrouped.retallied (h : s.Regrouped t) : s.Retallied t := by
  have hlines := h.lines
  unfold State.Retallied
  rw [← show t.lines = { s.lines with tallyMain := t.lines.tallyMain, tallyBackup := t.lines.tallyBackup } by rw [hlines]]
  rw [hlines]
  exact h.eq

theorem State.acted_post (ms : List Nat) (s : State) (g : Option Nat) (r : Option Rig) (b : NoticeBody) :
    State.Acted ms s (s.post g r b) :=
  ⟨((State.Regrouped.refl s).post g r b).retallied, fun _ _ => rfl, fun _ => rfl, fun _ => ⟨rfl, rfl⟩⟩

theorem State.acted_setWithheld (s : State) (ms : List Nat) (v : Bool) : State.Acted ms s (s.setWithheld ms v) := by
  refine ⟨(s.regrouped_setWithheld ms v).retallied, fun m hm => ?_, fun m => ?_, fun m => ?_⟩
  · rw [State.group_setWithheld, if_neg hm]
  · rw [State.group_setWithheld]
    split <;> rfl
  · rw [State.group_setWithheld]
    split <;> exact ⟨rfl, rfl⟩

theorem State.acted_switchSet (s : State) {ms : List Nat} (hn : ms.Nodup) (r : Role) (fade : Bool) (cause : SwitchCause) :
    State.Acted ms s (s.switchSet ms r fade cause) := by
  refine ⟨s.retallied_switchSet _ _ _ _, fun m hm => ?_, fun m => ?_, s.sameSets_switchSet hn _ _ _⟩
  · rw [State.group_switchSet s hn, if_neg hm]
  · rw [State.group_switchSet s hn]
    split <;> rfl

theorem State.acted_automaticSwitch (s : State) {ms : List Nat} (hn : ms.Nodup) (f : Nat) (r : Role) (cause : SwitchCause) :
    State.Acted ms s (s.automaticSwitch ms f r cause) := by
  unfold State.automaticSwitch
  split
  · exact s.acted_switchSet hn _ _ _
  · unfold State.withhold
    split
    · exact .refl ms s
    · exact (State.acted_post ms s _ _ _).trans (State.acted_setWithheld _ ms _)

/-- An evaluation changes the records of the set alone (R140 to R144). -/
theorem State.acted_evaluate (s : State) (g : Nat) : State.Acted (s.members g) s (s.evaluate g) := by
  have hn := s.nodup_members g
  unfold State.evaluate
  dsimp only
  split
  · exact .refl _ s
  · split
    · split
      · exact s.acted_automaticSwitch hn _ _ _
      · exact s.acted_setWithheld _ _
    · split
      · exact s.acted_automaticSwitch hn _ _ _
      · split
        · exact (s.acted_setWithheld _ _).trans (State.acted_switchSet _ hn _ _ _)
        · exact s.acted_setWithheld _ _

/-- Acts on one set after another change the records of those sets alone. -/
theorem State.acted_foldl {f : State → Nat → State} (hf : ∀ (t : State) (l : Nat), State.Acted (t.members l) t (f t l)) :
    ∀ (ls : List Nat) (s : State), State.Acted (ls.flatMap s.members) s (ls.foldl f s)
  | [], s => .refl _ s
  | l :: ls, s => by
    have hfirst := hf s l
    have hrest := State.acted_foldl hf ls (f s l)
    have hsets : ls.flatMap (f s l).members = ls.flatMap s.members := by
      congr 1
      exact funext hfirst.sets.members
    rw [hsets] at hrest
    refine (hfirst.mono fun m hm => ?_).trans (hrest.mono fun m hm => ?_)
    · exact List.mem_append_left _ hm
    · exact List.mem_append_right _ hm

/-- Each of several sets apart from each other is acted on as it was found; `new` is what an act leaves in a record. -/
theorem State.group_foldl_sets {f : State → Nat → State} (new : Nat → GroupRecord)
    (hacted : ∀ (t : State) (l : Nat), State.Acted (t.members l) t (f t l)) (g : Nat) : ∀ (ls : List Nat) (t : State),
    (∀ (t : State) (l : Nat), s.Retallied t → s.SameSets t → l ∈ ls → (∀ m ∈ s.members l, t.group m = s.group m) →
      ∀ m ∈ s.members l, (f t l).group m = new m) →
    ls.Pairwise (fun k l => ∀ m ∈ s.members k, m ∉ s.members l) → s.Retallied t → s.SameSets t →
    (∀ l ∈ ls, ∀ m ∈ s.members l, t.group m = s.group m) →
    (ls.foldl f t).group g = if g ∈ ls.flatMap s.members then new g else t.group g
  | [], _, _, _, _, _, _ => by simp
  | l :: ls, t, hnew, hapart, ht, hsame, hms => by
    obtain ⟨hl, hapart⟩ := List.pairwise_cons.1 hapart
    have hact : State.Acted (s.members l) t (f t l) := hsame.members l ▸ hacted t l
    have hhere := hnew t l ht hsame List.mem_cons_self (hms l List.mem_cons_self)
    rw [List.foldl_cons, State.group_foldl_sets new hacted g ls (f t l)
      (fun t k h1 h2 hk => hnew t k h1 h2 (List.mem_cons_of_mem _ hk)) hapart (ht.trans hact.frame) (hsame.trans hact.sets)
      ?later]
    case later =>
      intro k hk m hm
      rw [hact.outside m fun hml => hl k hk m hml hm, hms k (List.mem_cons_of_mem _ hk) m hm]
    have hmem : g ∈ (l :: ls).flatMap s.members ↔ g ∈ s.members l ∨ g ∈ ls.flatMap s.members := by
      rw [List.flatMap_cons, List.mem_append]
    rw [ite_of_iff hmem rfl rfl]
    by_cases hg : g ∈ s.members l
    · rw [hhere g hg, ite_self, if_pos (Or.inl hg)]
    · rw [hact.outside g hg, ite_of_iff (or_iff_right hg) rfl rfl]

end

/-! ### The sets that a Group field names (R136) -/

section
variable (s : State)

theorem State.namedLeaders_eq (field : Nat) : s.namedLeaders field
    = if field = 255 then s.definedGroups.filter (fun g => (s.members g).head? == some g) else [field] := by
  unfold State.namedLeaders State.setLeaders
  simp only [Bool.beq_eq_decide_eq]

/-- The named sets are apart. -/
theorem State.namedLeaders_apart (field : Nat) :
    (s.namedLeaders field).Pairwise (fun k l => ∀ m ∈ s.members k, m ∉ s.members l) := by
  unfold State.namedLeaders
  split
  · have hdistinct : s.setLeaders.Nodup := s.nodup_definedGroups.filter _
    refine List.Pairwise.imp_of_mem (fun hk hl hne m hmk hml => ?_) hdistinct
    exact hne (State.leader_unique hk hl hmk hml)
  · exact List.pairwise_singleton _ _

end

/-! ### Hold and Release Hold (R150) -/

section
variable (s : State) (v : Bool)

/-- Hold takes a value in each member. -/
theorem State.foldl_setHold : ∀ (ms : List Nat) (s : State),
    (ms.foldl (State.setHold v) s = { s with groups := (ms.foldl (State.setHold v) s).groups })
    ∧ ∀ h, (ms.foldl (State.setHold v) s).group h = if h ∈ ms then { s.group h with hold := v } else s.group h
  | [], _ => ⟨rfl, fun _ => by simp⟩
  | m :: ms, s => by
    obtain ⟨hframe, hread⟩ := State.foldl_setHold ms (State.setHold v s m)
    refine ⟨hframe, fun h => ?_⟩
    have hfirst : (State.setHold v s m).group h = if h = m then { s.group m with hold := v } else s.group h :=
      s.group_modifyGroup m h (fun gr => { gr with hold := v })
    rw [List.foldl_cons, hread h, hfirst]
    by_cases hm : h = m
    · subst hm
      simp
    · simp [hm]

end

/-- Settles O38: the named members take the value, and behind Release Hold each named set is evaluated. -/
theorem holdAndRelease : Obligations.HoldAndRelease := by
  intro s leaders hs hleaders hnamed
  have hlead : s.namedLeaders s.cmdGroup = leaders := by rw [hleaders, s.namedLeaders_eq]
  have hmembers : s.namedMembers = leaders.flatMap s.members := by rw [State.namedMembers, hlead]
  have hnone := State.setRefusal_none hs hnamed
  have hcount : ∀ v, s.holdChanges v = (leaders.flatMap s.members).countP (fun m => (s.group m).hold != v) := by
    intro v
    rw [State.holdChanges, hmembers]
  refine ⟨fun hh => ?_, fun hh => ?_⟩
  · obtain ⟨hframe, hread⟩ := State.foldl_setHold true (leaders.flatMap s.members) s
    refine ⟨((leaders.flatMap s.members).foldl (State.setHold true) s).answerCommand .done
      [word ((leaders.flatMap s.members).countP (fun m => (s.group m).hold != true))], ?_, ?_, fun g hg => ?_, fun g hg => ?_⟩
    · rw [exec_hold hh, State.holdCommand, hnone, hcount, hmembers]
    · exact congrArg (fun t : State => t.answerCommand .done _) hframe
    · exact (hread g).trans (if_pos hg)
    · exact (hread g).trans (if_neg hg)
  · obtain ⟨hframe, hread⟩ := State.foldl_setHold false (leaders.flatMap s.members) s
    have hexec : exec .releaseHold s
        = .next ((leaders.foldl State.evaluate ((leaders.flatMap s.members).foldl (State.setHold false) s)).answerCommand
          .done [word ((leaders.flatMap s.members).countP (fun m => (s.group m).hold != false))]) := by
      rw [exec_releaseHold hh, State.releaseHoldCommand, hnone, hcount, hmembers, hlead]
    generalize (leaders.flatMap s.members).foldl (State.setHold false) s = u at hframe hread hexec
    have hsets : s.SameSets u := by
      intro g
      rw [hread]
      split <;> exact ⟨rfl, rfl⟩
    have hact := State.acted_foldl (f := State.evaluate) State.acted_evaluate leaders u
    rw [show leaders.flatMap u.members = leaders.flatMap s.members by congr 1; exact funext hsets.members] at hact
    generalize hv : leaders.foldl State.evaluate u = w at hexec hact
    have hkept := hact.frame
    rw [hframe] at hkept
    refine ⟨u, _, hexec, hframe, fun g hg => (hread g).trans (if_pos hg), fun g hg => (hread g).trans (if_neg hg),
      by rw [← hv], fun g hg => ?_, fun g hg => ?_, by rw [hkept]; rfl, by rw [hkept]; rfl, by rw [hkept]; rfl,
      by rw [hkept]; rfl, by rw [hkept]; rfl, by rw [hkept]; rfl⟩
    · exact (hact.held g).trans (by rw [hread, if_pos hg])
    · exact (hact.outside g hg).trans ((hread g).trans (if_neg hg))

end Sys2Proof.Machine
end

section
/-! # The Switch command (R147 to R149)

A Switch acts on each named set as the command found it. Where no member fades, what it leaves in a record is read off the
cut of a member or the switch of a set; a fading set is cut first and evaluated behind it. -/

namespace Sys2Proof.Machine

/-- With the tallies, the lines are the only further part that differs. -/
theorem State.Retallied.eq_lines {s t : State} (h : s.Retallied t) :
    t = { s with groups := t.groups, notices := t.notices, lines := t.lines } := by
  have heq : t = { s with
      groups := t.groups, notices := t.notices
      lines := { s.lines with tallyMain := t.lines.tallyMain, tallyBackup := t.lines.tallyBackup } } := h
  have hlines := congrArg State.lines heq
  dsimp only at hlines
  rwa [← hlines] at heq

/-! ### The cut of a set, up to its evaluation (R139) -/

/-- A cut to `r` in one record: nothing where it is ON_r, the end of its fade where it is TO_r, else a switch of length 0. -/
def GroupRecord.cut (gr : GroupRecord) (r : Role) (cause : SwitchCause) (x : Nat) : GroupRecord :=
  if gr.selectState = .on r then gr
  else if gr.selectState = .to r then { gr with selectState := .on r, lastSwitchPoint := some x }
  else gr.switched r 0 cause x

/-- The cut of a set, before the evaluation. -/
def State.cutTallied (s : State) (r : Role) (cause : SwitchCause) (g : Nat) : State :=
  let cut := (s.members g).foldl (fun t m => t.cutMember r cause m) s
  (if (s.members g).any (fun m => (s.group m).switchesTo r) then cut.setWithheld (s.members g) false else cut).setTallies

section
variable (s : State) (r : Role) (cause : SwitchCause)

theorem GroupRecord.switchesTo_iff (gr : GroupRecord) : gr.switchesTo r = true
    ↔ gr.selectState = .on r.other ∨ gr.selectState = .to r.other := by
  unfold GroupRecord.switchesTo
  cases r <;> cases gr.selectState <;> decide

/-- A record that does not fade is switched by a cut exactly where it is not ON_r. -/
theorem GroupRecord.switchesTo_iff_of_calm {gr : GroupRecord} (h : gr.selectState.fading = false) :
    gr.switchesTo r = true ↔ gr.selectState ≠ .on r := by
  unfold GroupRecord.switchesTo
  revert h
  cases r <;> cases gr.selectState <;> decide

theorem GroupRecord.not_to_of_calm {gr : GroupRecord} (h : gr.selectState.fading = false) : gr.selectState ≠ .to r := by
  revert h
  cases r <;> cases gr.selectState <;> decide

theorem GroupRecord.cut_switches {gr : GroupRecord} (h : gr.switchesTo r = true) (x : Nat) :
    gr.cut r cause x = gr.switched r 0 cause x := by
  simp only [GroupRecord.switchesTo, Bool.and_eq_true, bne_iff_ne] at h
  rw [GroupRecord.cut, if_neg h.1, if_neg h.2]

theorem State.group_cutMember (g h : Nat) : (s.cutMember r cause g).group h
    = if h = g then (s.group g).cut r cause s.resolver.resolveFront else s.group h := by
  by_cases hg : h = g
  · subst hg
    rw [if_pos rfl, State.cutMember, GroupRecord.cut]
    split
    · rfl
    · split
      · rw [State.group_cutShort, if_pos rfl]
      · rw [State.group_switchMember, if_pos rfl, State.switchLength_cut]
  · rw [if_neg hg, State.group_cutMember_other s r cause hg]

theorem State.regrouped_cutMembers (ms : List Nat) : s.Regrouped (ms.foldl (fun t m => t.cutMember r cause m) s) :=
  State.Regrouped.foldl (fun t g => t.regrouped_cutMember r cause g) ms (.refl s)

theorem State.group_cutMembers {ms : List Nat} (hn : ms.Nodup) (h : Nat) :
    (ms.foldl (fun t m => t.cutMember r cause m) s).group h
      = if h ∈ ms then (s.group h).cut r cause s.resolver.resolveFront else s.group h :=
  foldl_group (fun t m => t.cutMember r cause m) (fun gr _ => gr.cut r cause s.resolver.resolveFront) (fun t => s.Regrouped t)
    (fun t g ht => ht.trans (t.regrouped_cutMember r cause g))
    (fun t g h ht => by rw [State.group_cutMember, ht.resolver]) ms s hn (.refl s) h

theorem State.cutSet_cutTallied (g : Nat) : s.cutSet r cause g
    = if s.anyFading (s.members g) = true then (s.cutTallied r cause g).evaluate g else s.cutTallied r cause g := rfl

theorem State.group_cutTallied (g h : Nat) : (s.cutTallied r cause g).group h = if h ∈ s.members g then
      (if (s.members g).any (fun m => (s.group m).switchesTo r) = true
        then { (s.group h).cut r cause s.resolver.resolveFront with withheldReported := false }
        else (s.group h).cut r cause s.resolver.resolveFront)
      else s.group h := by
  have hcut := s.group_cutMembers r cause (s.nodup_members g)
  rw [State.cutTallied, show ∀ t : State, t.setTallies.group h = t.group h from fun _ => rfl]
  split
  · rw [State.group_setWithheld, hcut]
    split <;> rfl
  · exact hcut h

theorem State.retallied_cutTallied (g : Nat) : s.Retallied (s.cutTallied r cause g) := by
  unfold State.cutTallied
  dsimp only
  split
  · rw [((s.regrouped_cutMembers r cause _).trans (State.regrouped_setWithheld _ _ false)).eq]
    rfl
  · rw [(s.regrouped_cutMembers r cause _).eq]
    rfl

/-- A cut keeps the hold and the set. -/
theorem State.acted_cutTallied (g : Nat) : State.Acted (s.members g) s (s.cutTallied r cause g) := by
  have hkept : ∀ gr : GroupRecord, (gr.cut r cause s.resolver.resolveFront).hold = gr.hold
      ∧ (gr.cut r cause s.resolver.resolveFront).linkSet = gr.linkSet
      ∧ (gr.cut r cause s.resolver.resolveFront).defined = gr.defined := by
    intro gr
    unfold GroupRecord.cut
    split
    · exact ⟨rfl, rfl, rfl⟩
    · split <;> exact ⟨rfl, rfl, rfl⟩
  refine ⟨s.retallied_cutTallied r cause g, fun m hm => ?_, fun m => ?_, fun m => ?_⟩
  · rw [State.group_cutTallied, if_neg hm]
  · rw [State.group_cutTallied]
    split
    · split <;> exact (hkept _).1
    · rfl
  · rw [State.group_cutTallied]
    split
    · split <;> exact (hkept _).2
    · exact ⟨rfl, rfl⟩

/-- A cut, with the evaluation behind it. -/
theorem State.acted_cutSet (g : Nat) : State.Acted (s.members g) s (s.cutSet r cause g) := by
  have hcut := s.acted_cutTallied r cause g
  rw [State.cutSet_cutTallied]
  split
  · refine hcut.trans ?_
    have hbehind := (s.cutTallied r cause g).acted_evaluate g
    rwa [hcut.sets.members] at hbehind
  · exact hcut

theorem State.acted_fadeSet (g : Nat) : State.Acted (s.members g) s (s.fadeSet r g) := by
  unfold State.fadeSet
  split
  · exact .refl _ s
  · exact s.acted_switchSet (s.nodup_members g) _ _ _

theorem State.acted_commandSwitchSet (cut : Bool) (g : Nat) :
    State.Acted (s.members g) s (State.commandSwitchSet r cut s g) := by
  cases cut
  · exact s.acted_fadeSet r g
  · exact s.acted_cutSet r .command g

end

/-! ### What a Switch leaves where no member fades -/

/-- What a Switch to `r` that finds no member fading leaves in the record of group `m`. -/
def State.switchLeaves (s : State) (r : Role) (cut : Bool) (m : Nat) : GroupRecord :=
  if cut = true then
    if (s.members m).any (fun k => (s.group k).switchesTo r) = true
      then { (s.group m).cut r .command s.resolver.resolveFront with withheldReported := false }
      else (s.group m).cut r .command s.resolver.resolveFront
  else if s.allIn (s.members m) (.on r) = true then s.group m
  else (s.group m).setSwitched r (s.switchLength m true) .command s.resolver.resolveFront

section
variable {s : State} {r : Role}

theorem State.switchLeaves_fade (m : Nat) : s.switchLeaves r false m = if s.allIn (s.members m) (.on r) = true then s.group m
    else (s.group m).setSwitched r (s.switchLength m true) .command s.resolver.resolveFront := rfl

theorem State.switchLeaves_cut (m : Nat) : s.switchLeaves r true m
    = if (s.members m).any (fun k => (s.group k).switchesTo r) = true
      then { (s.group m).cut r .command s.resolver.resolveFront with withheldReported := false }
      else (s.group m).cut r .command s.resolver.resolveFront := rfl

theorem State.commandSwitchSet_fade (l : Nat) : State.commandSwitchSet r false s l = s.fadeSet r l := rfl

theorem State.commandSwitchSet_cut (l : Nat) : State.commandSwitchSet r true s l = s.cutSet r .command l := rfl

/-- A named set is left as the command found it, switched. -/
theorem State.group_commandSwitchSet {t : State} {l m : Nat} (cut : Bool) (ht : s.Retallied t) (hsame : s.SameSets t)
    (hms : ∀ k ∈ s.members l, t.group k = s.group k) (hcalm : ∀ k ∈ s.members l, (s.group k).selectState.fading = false)
    (hm : m ∈ s.members l) : (State.commandSwitchSet r cut t l).group m = s.switchLeaves r cut m := by
  have hfront : t.resolver.resolveFront = s.resolver.resolveFront := by rw [ht]
  have hsets : s.members m = s.members l := State.members_eq_of_mem hm
  cases cut
  · have hall : t.allIn (s.members l) (.on r) = s.allIn (s.members l) (.on r) := by
      rw [Bool.eq_iff_iff, State.allIn_iff, State.allIn_iff]
      exact forall₂_congr fun k hk => by rw [hms k hk]
    have hlength : t.switchLength m true = s.switchLength m true := by
      rw [State.switchLength_eq, State.switchLength_eq, hms m hm, show t.part = s.part by rw [ht]]
    rw [State.commandSwitchSet_fade, State.fadeSet, hsame.members, hall, State.switchLeaves_fade, hsets]
    split
    · exact hms m hm
    · rw [State.group_switchSet t (s.nodup_members l), if_pos hm, hms m hm, hlength, hfront]
  · have hnot : t.anyFading (s.members l) = false := by
      rw [Bool.eq_false_iff, Ne, State.anyFading_iff]
      rintro ⟨k, hk, hfade⟩
      rw [hms k hk, hcalm k hk] at hfade
      cases hfade
    have hany : (s.members l).any (fun k => (t.group k).switchesTo r)
        = (s.members l).any (fun k => (s.group k).switchesTo r) := by
      rw [Bool.eq_iff_iff, List.any_eq_true, List.any_eq_true]
      exact exists_congr fun k => and_congr_right fun hk => by rw [hms k hk]
    rw [State.commandSwitchSet_cut, State.cutSet_cutTallied, hsame.members, hnot, if_neg nofun,
      State.group_cutTallied, hsame.members, if_pos hm, hany, hms m hm, hfront, State.switchLeaves_cut, hsets]

/-- A member that is not ON_r and does not fade is switched, with the length of the form. -/
theorem State.switchLeaves_switched {m : Nat} (cut : Bool) (hcalm : (s.group m).selectState.fading = false)
    (hself : m ∈ s.members m) (hon : (s.group m).selectState ≠ .on r) : s.switchLeaves r cut m
      = (s.group m).setSwitched r (if cut = true then 0 else s.switchLength m true) .command s.resolver.resolveFront := by
  have hto := (GroupRecord.switchesTo_iff_of_calm r hcalm).2 hon
  cases cut
  · have hall : ¬s.allIn (s.members m) (.on r) = true := fun h => hon ((s.allIn_iff _ _).1 h m hself)
    rw [State.switchLeaves_fade, if_neg hall, if_neg nofun]
  · have hany : (s.members m).any (fun k => (s.group k).switchesTo r) = true := List.any_eq_true.2 ⟨m, hself, hto⟩
    rw [State.switchLeaves_cut, if_pos hany, if_pos rfl, GroupRecord.cut_switches r .command hto]
    rfl

/-! ### The named members -/

theorem State.mem_namedMembers {m : Nat} : m ∈ s.namedMembers ↔ ∃ l ∈ s.namedLeaders s.cmdGroup, m ∈ s.members l :=
  List.mem_flatMap

theorem State.namedMembers_self {m : Nat} (h : m ∈ s.namedMembers) : m ∈ s.members m := by
  obtain ⟨l, _, hm⟩ := State.mem_namedMembers.1 h
  rw [State.members_eq_of_mem hm]
  exact hm

/-- A Switch where no named member fades leaves each named record switched and the others as they were. -/
theorem State.group_switchSets (cut : Bool) (hcalm : ∀ m ∈ s.namedMembers, (s.group m).selectState.fading = false) (g : Nat) :
    ((s.namedLeaders s.cmdGroup).foldl (State.commandSwitchSet r cut) s).group g
      = if g ∈ s.namedMembers then s.switchLeaves r cut g else s.group g :=
  State.group_foldl_sets (f := State.commandSwitchSet r cut) (s.switchLeaves r cut)
    (fun t l => t.acted_commandSwitchSet r cut l) g _ s
    (fun _ l ht hsame hl hms _ hm => State.group_commandSwitchSet cut ht hsame hms
      (fun k hk => hcalm k (State.mem_namedMembers.2 ⟨l, hl, hk⟩)) hm)
    (s.namedLeaders_apart _) (.refl s) (fun _ => ⟨rfl, rfl⟩) fun _ _ _ _ => rfl

end

/-! ### The command -/

section
variable {s : State} {r : Role}

theorem State.switchCommand_accepted (hnone : s.setRefusal = none) (hrole : (s.cmdWord 1 = 1 ∧ r = .main) ∨ (s.cmdWord 1 = 2 ∧ r = .backup))
    (hform : s.cmdWord 2 = 0 ∨ s.cmdWord 2 = 1) (hbusy : s.switchBusy = false) : s.switchCommand
      = ((s.namedLeaders s.cmdGroup).foldl (State.commandSwitchSet r s.cutForm) s).answerCommand .done
        [word (s.namedMembers.countP (fun m => (s.group m).switchesTo r)),
         word (if s.cutForm = true then s.namedMembers.countP (fun m => (s.group m).selectState == .to r) else 0),
         blockLow s.resolver.resolveFront, blockHigh s.resolver.resolveFront] := by
  have hcmd : s.cmdRole = r := by
    rcases hrole with ⟨hw, rfl⟩ | ⟨hw, rfl⟩ <;> simp [State.cmdRole, hw]
  have hfields : s.switchFieldsOk = true := by
    rcases hrole with ⟨hw, _⟩ | ⟨hw, _⟩ <;> rcases hform with hf | hf <;> simp [State.switchFieldsOk, hw, hf]
  simp [State.switchCommand, hnone, hfields, hbusy, State.switchedCount, State.cutShortCount, hcmd]

end

/-- A Switch refused, or of form Cut, or where no named member fades. -/
theorem State.switchCommand_spec (s : State) (r : Role) (leaders : List Nat) (hh : s.hand 9 = true)
    (hleaders : leaders = s.namedLeaders s.cmdGroup)
    (hnone : s.setRefusal = none)
    (hrole : (s.cmdWord 1 = 1 ∧ r = .main) ∨ (s.cmdWord 1 = 2 ∧ r = .backup))
    (hform : s.cmdWord 2 = 0 ∨ s.cmdWord 2 = 1) :
    (s.cmdWord 2 = 0 → s.part.state = .running → (∃ m ∈ s.namedMembers, (s.group m).selectState.fading = true) →
      exec .switch s = .next (s.answerCommand .busy []))
    ∧ (s.cmdWord 2 = 1 ∨ s.part.state = .armed →
      exec .switch s = .next ((leaders.foldl (fun t g => t.cutSet r .command g) s).answerCommand .done
        [word ((leaders.flatMap s.members).countP
            (fun m => (s.group m).selectState == .on r.other || (s.group m).selectState == .to r.other)),
         word ((leaders.flatMap s.members).countP (fun m => (s.group m).selectState == .to r)),
         blockLow s.resolver.resolveFront, blockHigh s.resolver.resolveFront]))
    ∧ ((∀ m ∈ s.namedMembers, (s.group m).selectState.fading = false) → ∃ t, exec .switch s = .next t
      ∧ t.sup.command.phase = .writing ∧ t.sup.command.result = .done
      ∧ t.sup.command.resultData =
          [word (s.namedMembers.countP (fun m => (s.group m).selectState != .on r)), 0,
           blockLow s.resolver.resolveFront, blockHigh s.resolver.resolveFront, 0]
      ∧ t.mem = s.mem ∧ t.part = s.part ∧ t.pool = s.pool ∧ t.cache = s.cache ∧ t.resolver = s.resolver
      ∧ t.health = s.health ∧ t.blend = s.blend
      ∧ (∀ g ∈ s.namedMembers, (s.group g).selectState ≠ .on r →
          (t.group g).targetRole = r ∧ (t.group g).switchPoint = s.resolver.resolveFront
          ∧ (t.group g).lastSwitchCause = .command ∧ (t.group g).switchCount = sat16 (s.group g).switchCount
          ∧ (s.cmdWord 2 = 1 ∨ s.part.state = .armed →
              (t.group g).selectState = .on r ∧ (t.group g).fadeEnd = s.resolver.resolveFront)
          ∧ (s.cmdWord 2 = 0 → s.part.state = .running →
              (t.group g).selectState = (if (s.group g).fadeLength = 0 then .on r else .to r)
              ∧ (t.group g).fadeEnd = s.resolver.resolveFront + (s.group g).fadeLength))
      ∧ (∀ g, g ∉ s.namedMembers → t.group g = s.group g)) := by
  have hcut : s.cmdWord 2 = 1 ∨ s.part.state = .armed → s.cutForm = true := fun h => by simpa [State.cutForm] using h
  have hfade : s.cmdWord 2 = 0 → s.part.state = .running → s.cutForm = false := fun hw hrun => by
    simp [State.cutForm, hw, hrun]
  refine ⟨fun hw hrun hfading => ?busy, fun h => ?cut, fun hcalm => ?calm⟩
  case busy =>
    have hbusy : s.switchBusy = true := by
      rw [State.switchBusy, hfade hw hrun, (s.anyFading_iff _).2 hfading]
      rfl
    have hfields : s.switchFieldsOk = true := by
      rcases hrole with ⟨h1, _⟩ | ⟨h1, _⟩ <;> simp [State.switchFieldsOk, h1, hw]
    rw [exec_switch hh, State.switchCommand, hnone]
    simp only [hfields, hbusy]
    rfl
  case cut =>
    have hbusy : s.switchBusy = false := by simp [State.switchBusy, hcut h]
    have hcount : (fun m => (s.group m).switchesTo r)
        = fun m => (s.group m).selectState == .on r.other || (s.group m).selectState == .to r.other := by
      funext m
      rw [Bool.eq_iff_iff, GroupRecord.switchesTo_iff, Bool.or_eq_true, beq_iff_eq, beq_iff_eq]
    rw [exec_switch hh, State.switchCommand_accepted hnone hrole hform hbusy, hcut h, if_pos rfl, hcount, hleaders]
    rfl
  case calm =>
    have hnotfading : s.anyFading s.namedMembers = false := by
      rw [Bool.eq_false_iff, Ne, State.anyFading_iff]
      rintro ⟨m, hm, hf⟩
      rw [hcalm m hm] at hf
      cases hf
    have hbusy : s.switchBusy = false := by simp [State.switchBusy, hnotfading]
    have hswitched : s.namedMembers.countP (fun m => (s.group m).switchesTo r)
        = s.namedMembers.countP (fun m => (s.group m).selectState != .on r) :=
      List.countP_congr fun m hm => by
        rw [GroupRecord.switchesTo_iff_of_calm r (hcalm m hm), bne_iff_ne]
    have hshort : (if s.cutForm = true then s.namedMembers.countP (fun m => (s.group m).selectState == .to r) else 0) = 0 := by
      rw [List.countP_eq_zero.2 fun m hm => by simpa using GroupRecord.not_to_of_calm r (hcalm m hm), ite_self]
    have hread := State.group_switchSets (r := r) s.cutForm hcalm
    have hkept := (State.acted_foldl (f := State.commandSwitchSet r s.cutForm)
      (fun t l => t.acted_commandSwitchSet r s.cutForm l) (s.namedLeaders s.cmdGroup) s).frame
    have hexec := State.switchCommand_accepted hnone hrole hform hbusy
    rw [hswitched, hshort] at hexec
    generalize (s.namedLeaders s.cmdGroup).foldl (State.commandSwitchSet r s.cutForm) s = u at hread hkept hexec
    have hsup : u.sup = s.sup := by rw [hkept]
    refine ⟨_, (exec_switch hh).trans (congrArg _ hexec), rfl, rfl, rfl, by rw [hkept]; rfl, by rw [hkept]; rfl,
      by rw [hkept]; rfl, by rw [hkept]; rfl, by rw [hkept]; rfl, by rw [hkept]; rfl, by rw [hkept]; rfl,
      fun g hg hon => ?_, fun g hg => (hread g).trans (if_neg hg)⟩
    have hg' : u.group g = _ := (hread g).trans ((if_pos hg).trans
      (State.switchLeaves_switched s.cutForm (hcalm g hg) (State.namedMembers_self hg) hon))
    rw [show ∀ d, (u.answerCommand .done d).group g = u.group g from fun _ => rfl, hg']
    refine ⟨rfl, rfl, rfl, rfl, fun h => ?_, fun hw hrun => ?_⟩
    · rw [hcut h, if_pos rfl]
      exact ⟨rfl, rfl⟩
    · rw [hfade hw hrun, if_neg nofun, State.switchLength_eq, if_pos ⟨rfl, by rw [hrun]; exact nofun⟩]
      exact ⟨rfl, rfl⟩

/-- Settles O37: the command of R147, and the cut of a set that holds fading members, by the cut of each record. -/
theorem switchCommand : Obligations.SwitchCommand := by
  refine ⟨fun s r leaders hh hs hleaders => ⟨fun hbad => ?bad, fun hnamed => ⟨fun hfields => ?fields,
    fun hrole hform => ?accepted⟩⟩, fun s r g ms hms hn hfading _ => ?cut⟩
  case bad =>
    have hrefused : s.setRefusal = some .badParameter := by
      rcases hbad with ⟨h255, h7⟩ | ⟨h7, hdef⟩
      · exact State.setRefusal_badParameter hs h255 (.inl h7)
      · exact State.setRefusal_badParameter hs (by omega) (.inr hdef)
    rw [exec_switch hh, State.switchCommand_refused hrefused]
  case fields =>
    have hbad : s.switchFieldsOk = false := by
      rw [State.switchFieldsOk]
      rcases hfields with ⟨h1, h2⟩ | ⟨h1, h2⟩
      · rw [beq_eq_false_iff_ne.2 h1, beq_eq_false_iff_ne.2 h2]
        rfl
      · rw [beq_eq_false_iff_ne.2 h1, beq_eq_false_iff_ne.2 h2]
        exact Bool.and_false _
    rw [exec_switch hh, State.switchCommand, State.setRefusal_none hs hnamed]
    simp only [hbad]
    rfl
  case accepted =>
    exact s.switchCommand_spec r leaders hh (hleaders.trans (s.namedLeaders_eq _).symm)
      (State.setRefusal_none hs hnamed) hrole hform
  case cut =>
    subst hms
    have hread := s.group_cutTallied r .command g
    have hset := s.cutSet_cutTallied r .command g
    have hkept := s.retallied_cutTallied r .command g
    generalize s.cutTallied r .command g = u at hread hset hkept
    refine ⟨u, hset.trans (if_pos ((s.anyFading_iff _).2 hfading)), ?_, fun m hm h => ?_, fun m hm h => ?_,
      fun m hm => (hread m).trans (if_neg hm)⟩
    · exact hkept.eq_lines
    · rw [hread, if_pos hm]
      rcases h with h | h
      · have hcut : (s.group m).cut r .command s.resolver.resolveFront = s.group m := if_pos h
        have hnot : (s.group m).selectState ≠ .to r := by
          rw [h]
          cases r <;> exact nofun
        rw [hcut, if_neg hnot]
        split <;> exact ⟨rfl, h, rfl, rfl, rfl, rfl, rfl⟩
      · have hnot : (s.group m).selectState ≠ .on r := by
          rw [h]
          cases r <;> exact nofun
        rw [GroupRecord.cut, if_neg hnot, if_pos h, if_pos h]
        split <;> exact ⟨rfl, rfl, rfl, rfl, rfl, rfl, rfl⟩
    · have hto := (GroupRecord.switchesTo_iff r _).2 h
      have hany : (s.members g).any (fun k => (s.group k).switchesTo r) = true := List.any_eq_true.2 ⟨m, hm, hto⟩
      rw [hread, if_pos hm, if_pos hany, GroupRecord.cut_switches r .command hto]
      rfl

end Sys2Proof.Machine
end

section
/-! # The end of the teardown (R15, R34, R133, R155) -/

namespace Sys2Proof.Machine

section
variable (s : State)

/-- Step 7 over distinct groups takes each group back to MAIN, unjudged. -/
theorem State.foldl_endGroup : ∀ (gs : List Nat) (s : State), gs.Nodup →
    gs.foldl State.endGroup s
        = { s with groups := (gs.foldl State.endGroup s).groups, health := (gs.foldl State.endGroup s).health }
      ∧ ∀ h, (gs.foldl State.endGroup s).group h = (if h ∈ gs then (s.group h).ended else s.group h)
        ∧ (gs.foldl State.endGroup s).healthOf h = if h ∈ gs then (s.healthOf h).ended else s.healthOf h
  | [], _, _ => ⟨rfl, fun _ => by simp⟩
  | g :: gs, s, hn => by
    obtain ⟨hg, hgs⟩ := List.nodup_cons.1 hn
    obtain ⟨hframe, hread⟩ := State.foldl_endGroup gs (s.endGroup g) hgs
    have hgroup : ∀ h, (s.endGroup g).group h = if h = g then (s.group g).ended else s.group h :=
      fun h => s.group_modifyGroup g h GroupRecord.ended
    have hhealth : ∀ h, (s.endGroup g).healthOf h = if h = g then (s.healthOf g).ended else s.healthOf h :=
      fun h => (s.modifyGroup g GroupRecord.ended).healthOf_modifyHealth g h GroupHealth.ended
    refine ⟨hframe, fun h => ?_⟩
    rw [List.foldl_cons, (hread h).1, (hread h).2, hgroup, hhealth]
    by_cases hh : h = g
    · subst hh
      simp [hg]
    · simp [hh]

/-- The tallies where every defined group has its role MAIN. -/
theorem State.tallies_ended {s : State} (h : ∀ g ∈ s.definedGroups, (s.group g).targetRole = .main) :
    s.tallyOf .main = !s.definedGroups.isEmpty ∧ s.tallyOf .backup = false := by
  unfold State.tallyOf
  constructor
  · cases hd : s.definedGroups with
    | nil => rfl
    | cons g gs =>
      rw [List.any_cons, h g (hd ▸ List.mem_cons_self)]
      rfl
  · rw [Bool.eq_false_iff, Ne, List.any_eq_true]
    rintro ⟨g, hg, hrole⟩
    rw [h g hg] at hrole
    exact absurd hrole (by decide)

/-- A group that a show ends is unjudged, with its pending settings adopted (R133). -/
theorem GroupHealth.ended_parts (h : GroupHealth) : h.ended.main = .start ∧ h.ended.backup = .start
    ∧ h.ended.agreement = .start ∧ h.ended.windowOpen = false ∧ h.ended.pendingSettings = none
    ∧ h.ended.settings = h.pendingSettings.getD h.settings := by
  cases hp : h.pendingSettings <;> simp [GroupHealth.ended, GroupHealth.adopted, GroupHealth.started, hp]

theorem exec_teardownEnd {s : State} {ws : List (Nat × List Word)} (h : s.sup.teardown = some (.writingBack ws)) :
    exec .teardownEnd s = .next (s.endTeardown ws) := by
  show execTeardownEnd s = _
  unfold execTeardownEnd
  rw [h]

/-- Words of the write-backs that are taken before leave the rest to be taken. -/
theorem State.tookTeardown_eq {s : State} {ws : List (Nat × List Word)} (h : s.sup.teardown = some (.writingBack ws)) (n : Nat) :
    s.took n .teardown = { s with
      mem := takeWrites s.mem (firstWords (beforeLast n ws) ws)
      sup := { s.sup with teardown := some (.writingBack (afterWords (beforeLast n ws) ws)) } } := by
  show s.tookTeardown n = _
  unfold State.tookTeardown
  rw [h]
  rfl

end

/-- Settles O36: the row's own definition, with the loop over the groups by `foldl_endGroup`. -/
theorem teardownEnd : Obligations.TeardownEnd := by
  intro s ws hws
  refine ⟨fun n => ⟨s.teardownEnd_took n, _, rfl, ?_⟩, ?_⟩
  · rw [State.tookTeardown_eq hws]
    rfl
  · have hexec := exec_teardownEnd hws
    have hout := fun x (hx : ∀ w ∈ ws, x < w.1 ∨ w.1 + 4 * w.2.length ≤ x) => readByte_takeWrites_of_outside ws s.mem hx
    unfold State.endTeardown at hexec
    dsimp only at hexec
    generalize takeWrites s.mem ws = m at hexec hout
    obtain ⟨hframe, hread⟩ := State.foldl_endGroup s.definedGroups
      (({ s with mem := m }.setTeardown none).claim Pool.rebuild) s.nodup_definedGroups
    generalize s.definedGroups.foldl State.endGroup (({ s with mem := m }.setTeardown none).claim Pool.rebuild) = u
      at hframe hread hexec
    have hgroup : ∀ g, u.group g = if g ∈ s.definedGroups then (s.group g).ended else s.group g := fun g => (hread g).1
    have hhealth : ∀ g, u.healthOf g = if g ∈ s.definedGroups then (s.healthOf g).ended else s.healthOf g :=
      fun g => (hread g).2
    have hdefined : u.definedGroups = s.definedGroups := by
      unfold State.definedGroups
      congr 1
      funext g
      rw [hgroup]
      split <;> rfl
    obtain ⟨hmain, hbackup⟩ := State.tallies_ended (s := u) fun g hg => by
      rw [hgroup, if_pos (hdefined ▸ hg)]
      rfl
    have hsup := State.sup_answerCommand (s := s.setTeardown none) (t := u.setTallies) (by rw [hframe]; rfl) .done []
    refine ⟨_, hexec, ?_, by rw [hframe]; rfl, fun x hx => ?_, by rw [hframe]; rfl, fun c => ?_, fun g hg => ?_,
      fun g hg => ?_, ?_, hbackup, by rw [hframe]; rfl, by rw [hframe]; rfl, by rw [hframe]; rfl, by rw [hframe]; rfl,
      by rw [hframe]; rfl⟩
    · rw [hsup]
      rfl
    · rw [← hout x hx, hframe]
      rfl
    · rw [hframe]
      rfl
    · refine ⟨(hgroup g).trans (if_pos hg), ?_⟩
      rw [show ∀ t : State, (t.setTallies.answerCommand .done []).healthOf g = t.healthOf g from fun _ => rfl,
        hhealth, if_pos hg]
      exact (s.healthOf g).ended_parts
    · exact ⟨(hgroup g).trans (if_neg hg), (hhealth g).trans (if_neg hg)⟩
    · rw [← hdefined]
      exact hmain

end Sys2Proof.Machine
end

section
/-! # Notices and the status record (R174 to R177, R181)

A notice entry has its words 1 to 7 written upward and its OWN word last; of those words some may be in DRAM before the row
that ends the write, which takes the rest. -/

namespace Sys2Proof.Machine

/-! ### Notice Return (R174, R176) -/

section
variable {s : State}

theorem exec_noticeReturn (hb : s.burst = none) (hrst : s.lines.resetLow = false) {a : Anchor} (ha : s.sup.anchor = some a)
    (v : Word) (en : Enables) : exec (.noticeReturn v en) s = .next ((s.passThrough 48 v en).handReturn v en) := by
  simp only [exec, execNoticeReturn, State.unlessHeld_high hrst, State.localRequest_write hb, State.localWrite,
    s.localClass_return a ha]

theorem State.handReturn_whole (h : s.part.state ≠ .quiet) (v : Word) : s.handReturn v 15 = s.noticeReturn v.toNat := by
  rw [State.handReturn, State.handed_whole h, if_pos rfl]

theorem State.postRingFault_shown (h : s.part.state ≠ .quiet) (why : RingReason) (value : Nat) :
    s.postRingFault why value = { s with
      notices := s.notices.post
        { group := none, source := none, period := s.part.period, body := .ringFault why.code value } } :=
  State.post_outside_quiet h _ _ _

end

/-- Settles O39, by the tests of R174 in their order. -/
theorem noticeReturn : Obligations.NoticeReturn := by
  intro v en s hb hrst
  refine ⟨fun h => ?_, fun a n count ha hq hn hcount => ?_⟩
  · cases ha : s.sup.anchor with
    | none =>
      simp only [exec, execNoticeReturn, State.unlessHeld_high hrst, State.localRequest_write hb, State.localWrite,
        State.localClass_unanchored ha (Nat.le_add_left 4 44) (by omega)]
      rfl
    | some a =>
      have hen : en ≠ 15 := h.resolve_right (by rw [ha]; exact nofun)
      rw [exec_noticeReturn hb hrst ha, State.handReturn, State.handed_partial hen, if_neg nofun]
      rfl
  · have hmem : s.passThrough 48 v 15 = { s with mem := writeWord s.mem 48 v } :=
      State.passThrough_whole s 48 v 15 rfl (by decide)
    have hexec : exec (.noticeReturn v 15) s = .next ({ s with mem := writeWord s.mem 48 v }.noticeReturn v.toNat) := by
      rw [exec_noticeReturn hb hrst ha, hmem, State.handReturn_whole (by exact hq)]
    have hentries : { s with mem := writeWord s.mem 48 v }.noticeEntries = n := (State.noticeEntries_of_some ha).trans hn.symm
    have hback : s.notices.returnCount v.toNat n = count := hcount.symm
    have hquiet : { s with mem := writeWord s.mem 48 v }.part.state ≠ .quiet := hq
    rw [hexec, State.noticeReturn, hentries]
    refine ⟨fun hr => ?_, fun hr => ⟨fun h0 => ?_, fun hover => ?_, fun h0 hfit => ?_⟩⟩
    · rw [if_pos hr, State.postRingFault_shown hquiet]
      rfl
    · rw [if_neg (Nat.not_le.2 hr), if_pos (hback.trans h0)]
    · have hne : ¬s.notices.returnCount v.toNat n = 0 := by omega
      have hpast : { s with mem := writeWord s.mem 48 v }.unreturned < s.notices.returnCount v.toNat n := by
        rw [State.unreturned, hentries, hback]
        exact hover
      rw [if_neg (Nat.not_le.2 hr), if_neg hne, if_pos hpast, State.postRingFault_shown hquiet]
      rfl
    · have hne : ¬s.notices.returnCount v.toNat n = 0 := by omega
      have hpast : ¬{ s with mem := writeWord s.mem 48 v }.unreturned < s.notices.returnCount v.toNat n := by
        rw [State.unreturned, hentries, hback]
        exact Nat.not_lt.2 hfit
      have hreturned : s.notices.returned v.toNat n
          = { s.notices with available := s.notices.available + count, lastHanded := v.toNat } := by
        rw [NoticeUnit.returned, hback]
      rw [if_neg (Nat.not_le.2 hr), if_neg hne, if_neg hpast, State.deassertIfReturned]
      dsimp only
      rw [hreturned, State.unreturned, State.noticeEntries_of_some (by exact ha), ← hn]
      rfl

/-! ### The words of a notice entry (R181) -/

theorem packBytes_of_lt {b0 b1 b2 b3 : Nat} (h0 : b0 < 256) (h1 : b1 < 256) (h2 : b2 < 256) (h3 : b3 < 256) :
    packBytes b0 b1 b2 b3 = BitVec.ofNat 32 (b0 + 256 * b1 + 65536 * b2 + 16777216 * b3) := by
  rw [packBytes, word, Nat.mod_eq_of_lt h0, Nat.mod_eq_of_lt h1, Nat.mod_eq_of_lt h2, Nat.mod_eq_of_lt h3]

theorem packHalves_of_lt {lo hi : Nat} (h : lo < 65536) (h' : hi < 65536) :
    packHalves lo hi = BitVec.ofNat 32 (lo + 65536 * hi) := by
  rw [packHalves, word, Nat.mod_eq_of_lt h, Nat.mod_eq_of_lt h']

theorem Role.code_lt (r : Role) : r.code < 256 := by cases r <;> decide
theorem RigVerdict.code_lt (v : RigVerdict) : v.code < 256 := by cases v <;> decide
theorem AgreementVerdict.code_lt (v : AgreementVerdict) : v.code < 256 := by cases v <;> decide
theorem SwitchCause.code_lt (c : SwitchCause) : c.code < 256 := by cases c <;> decide
theorem SwitchEnding.code_lt (e : SwitchEnding) : e.code < 256 := by cases e <;> decide
theorem WithheldReason.code_lt (r : WithheldReason) : r.code < 256 := by cases r <;> decide

theorem NoticeBody.length_words (b : NoticeBody) : b.words.length ≤ 5 := by cases b <;> exact Nat.le_of_ble_eq_true rfl

/-- Word `i` of the seven that follow the OWN word. -/
theorem Notice.getD_restWords (n : Notice) {i : Nat} (h : i < 7) :
    n.restWords.getD i 0 = ([blockLow n.period, blockHigh n.period] ++ n.body.words).getD i 0 := by
  unfold Notice.restWords
  generalize [blockLow n.period, blockHigh n.period] ++ n.body.words = ws
  rw [List.getD_eq_getElem?_getD, List.getD_eq_getElem?_getD, List.getElem?_take_of_lt h, List.getElem?_append]
  split
  · rfl
  next hlen =>
    rw [List.getElem?_replicate, List.getElem?_eq_none (Nat.not_lt.1 hlen)]
    split <;> rfl

theorem Notice.length_restWords (n : Notice) : n.restWords.length = 7 := by
  simp [Notice.restWords]

theorem Notice.toNat_ownWord (n : Notice) : n.ownWord.toNat = n.body.kind + 256 * (n.group.getD 255 % 256)
    + 65536 * (if n.source = none then 0 else if n.source = some .rig1 then 1 else 2) := by
  have hkind : n.body.kind < 256 := by cases n.body <;> exact Nat.lt_of_sub_eq_succ rfl
  rw [Notice.ownWord, toNat_packBytes, Nat.mod_eq_of_lt hkind]
  rcases n.source with _ | _ | _ <;> simp [rigCode]

/-! ### What is left to write of an entry -/

section
variable (m : Memory) (a b l : Nat) (ws : List Word) (v : Word)

/-- With `l` words taken of the words of an entry, the rest are written and then its first word. -/
theorem takeWrites_entry (h : l ≤ ws.length) : takeWrites m (afterWords l [(a, ws), (b, [v])])
    = writeWord (writeWords m (a + 4 * l) (ws.drop l)) b v := by
  simp [afterWords, takeWrites, writeWords, Nat.min_eq_left h, Nat.sub_eq_zero_of_le h]

theorem wordCount_entry (h : l ≤ ws.length) : wordCount (afterWords l [(a, ws), (b, [v])]) = ws.length - l + 1 := by
  simp [afterWords, wordCount, Nat.sub_eq_zero_of_le h]

/-- Words taken before the first one are words of the rest. -/
theorem landFirst_entry {k : Nat} (h : l + k ≤ ws.length) : landFirst m k (afterWords l [(a, ws), (b, [v])])
    = writeWords m (a + 4 * l) ((ws.drop l).take k) := by
  have hl : l ≤ ws.length := by omega
  simp [landFirst, afterWords, firstWords, takeWrites, writeWords, Nat.min_eq_left hl, Nat.sub_eq_zero_of_le hl,
    show k - (ws.length - l) = 0 by omega]

/-- A part of the words of an entry, written at its place. -/
theorem readWord_writeWords_part {i k : Nat} (hi : l ≤ i) (hk : i < l + k) (hlen : i < ws.length) :
    readWord (writeWords m (a + 4 * l) ((ws.drop l).take k)) (a + 4 * i) = ws.getD i 0 := by
  have hpart : i - l < ((ws.drop l).take k).length := by
    rw [List.length_take, List.length_drop]
    omega
  have hread := readWord_writeWords ((ws.drop l).take k) m (a + 4 * l) hpart
  rw [show a + 4 * l + 4 * (i - l) = a + 4 * i by omega] at hread
  rw [hread, List.getD_eq_getElem?_getD, List.getElem?_take_of_lt (by omega), List.getElem?_drop,
    show l + (i - l) = i by omega, List.getD_eq_getElem?_getD]

end

/-! ### A notice is written (R175, R176) -/

section
variable {s : State} {a : Anchor}

theorem State.noticeReady_iff : s.noticeReady = true ↔ s.notices.writing = false ∧ s.notices.queue ≠ []
    ∧ 0 < s.notices.available ∧ s.sup.take = none ∧ s.sup.anchor ≠ none := by
  simp [State.noticeReady, Option.isSome_iff_ne_none, and_assoc]

theorem exec_noticeWriteBegin : exec .noticeWriteBegin s
    = .next (if s.noticeReady = true then { s with notices := { s.notices with writing := true } } else s) := rfl

/-- The words in flight of a notice that is being written. -/
theorem State.noticeInFlight_eq (ha : s.sup.anchor = some a) (hw : s.notices.writing = true) {n : Notice} {rest : List Notice}
    (hq : s.notices.queue = n :: rest) : s.noticeInFlight = afterWords s.landed.notice
      [(a.noticeRingBase + 32 * s.notices.writeIndex + 4, n.restWords),
       (a.noticeRingBase + 32 * s.notices.writeIndex, [n.ownWord])] := by
  rw [State.noticeInFlight, State.noticeWrites, ha, hq, Nat.mul_comm 32]
  simp only [hw, if_true]
  rfl

theorem exec_noticeWriteEnd {dt : Nat} (hw : s.notices.writing = true) :
    exec (.noticeWriteEnd dt) s = .next (s.advance dt).noticeWritten :=
  congrArg Host.Outcome.next (if_pos hw)

theorem exec_coalesceTimeout (hrun : s.timer.refclkStopped = false) (dt : Nat) :
    exec (.coalesceTimeout dt) s = .next ((s.advance dt).assertInterrupt (s.advance dt).timeDue) := by
  have hgo : (s.advance dt).timer.refclkStopped = false := hrun
  simp only [exec, execCoalesceTimeout, hgo, Bool.not_false, Bool.and_true]

end

section
variable {s : State} {a : Anchor} {n : Notice} {rest : List Notice}

/-- Words of the entry that are taken before the row that ends the write (R162). -/
theorem State.tookNotice (ha : s.sup.anchor = some a) (hw : s.notices.writing = true) (hq : s.notices.queue = n :: rest)
    (hl : s.landed.notice ≤ 7) (k : Nat) : s.took k .notice = { s with
      mem := writeWords s.mem (a.noticeRingBase + 32 * s.notices.writeIndex + 4 + 4 * s.landed.notice)
        ((n.restWords.drop s.landed.notice).take (min k (7 - s.landed.notice)))
      landed := { s.landed with notice := min (s.landed.notice + k) 7 } } := by
  have hlen : s.landed.notice ≤ n.restWords.length := by rw [n.length_restWords]; exact hl
  have hflight := State.noticeInFlight_eq ha hw hq
  have hk : beforeLast k s.noticeInFlight = min k (7 - s.landed.notice) := by
    rw [hflight, beforeLast, wordCount_entry _ _ _ _ _ hlen, n.length_restWords]
    omega
  have hmem := landFirst_entry s.mem (a.noticeRingBase + 32 * s.notices.writeIndex + 4)
    (a.noticeRingBase + 32 * s.notices.writeIndex) s.landed.notice n.restWords n.ownWord
    (k := min k (7 - s.landed.notice)) (by rw [n.length_restWords]; omega)
  rw [← hflight] at hmem
  have hsum : s.landed.notice + min k (7 - s.landed.notice) = min (s.landed.notice + k) 7 := by omega
  rw [State.took, hk, State.land, hmem, State.countLanded, hsum]

/-- DRAM once the entry is written. -/
theorem State.mem_noticeWritten (ha : s.sup.anchor = some a) (hw : s.notices.writing = true)
    (hq : s.notices.queue = n :: rest) (hl : s.landed.notice ≤ 7) : s.noticeWritten.mem
      = writeWord (writeWords s.mem (a.noticeRingBase + 32 * s.notices.writeIndex + 4 + 4 * s.landed.notice)
        (n.restWords.drop s.landed.notice)) (a.noticeRingBase + 32 * s.notices.writeIndex) n.ownWord := by
  rw [← takeWrites_entry s.mem _ _ _ _ _ (by rw [n.length_restWords]; exact hl), ← State.noticeInFlight_eq ha hw hq]
  rfl

/-- A notice's entry is written, it leaves the queue, and the line rises by the count. -/
theorem State.noticeWritten_eq (ha : s.sup.anchor = some a) (hq : s.notices.queue = n :: rest) : s.noticeWritten = { s with
    mem := s.noticeWritten.mem
    landed := { s.landed with notice := 0 }
    notices := { s.notices with
      queue := rest, writing := false
      writeTimes := Table.set 0 s.notices.writeTimes s.notices.writeIndex (s.timer.now / 25000)
      writeIndex := (s.notices.writeIndex + 1) % a.noticeRingEntries
      available := s.notices.available - 1 }
    lines := { s.lines with
      interrupt := s.lines.interrupt
        || decide (s.notices.coalesceCount ≤ a.noticeRingEntries - (s.notices.available - 1)) } } := by
  have hentries := State.noticeEntries_of_some ha
  simp only [State.noticeWritten, State.assertInterrupt, State.countDue, State.unreturned, State.noticeEntries,
    NoticeUnit.unreturned, NoticeUnit.written, ha, hq, List.tail_cons, State.milliseconds]

end

/-- The row that ends the write of a notice (R175, R176). -/
theorem State.noticeEnd_spec (dt : Nat) (s : State) (a : Anchor) (ha : s.sup.anchor = some a) (n : Notice) (rest : List Notice)
    (e : Nat) (hw : s.notices.writing = true) (hq : s.notices.queue = n :: rest)
    (he : e = a.noticeRingBase + 32 * s.notices.writeIndex) (hl : s.landed.notice ≤ 7) :
    (∀ k, exec (.noticeWriteEnd dt) (s.took k .notice) = exec (.noticeWriteEnd dt) s
      ∧ ∃ u, u = s.took k .notice
        ∧ u = { s with mem := u.mem, landed := { s.landed with notice := min (s.landed.notice + k) 7 } }
        ∧ (∀ i, s.landed.notice ≤ i → i < u.landed.notice → readWord u.mem (e + 4 + 4 * i)
            = ([blockLow n.period, blockHigh n.period] ++ n.body.words).getD i 0)
        ∧ (∀ x, x < e + 4 + 4 * s.landed.notice ∨ e + 4 + 4 * u.landed.notice ≤ x →
            readByte u.mem x = readByte s.mem x))
    ∧ ∃ t, exec (.noticeWriteEnd dt) s = .next t
      ∧ t = { s.advance dt with
          mem := t.mem, notices := t.notices, lines := t.lines, landed := { s.landed with notice := 0 } }
      ∧ t.notices = { s.notices with
          queue := rest, writing := false, writeIndex := (s.notices.writeIndex + 1) % a.noticeRingEntries
          available := s.notices.available - 1, writeTimes := t.notices.writeTimes }
      ∧ Table.get 0 t.notices.writeTimes s.notices.writeIndex = (s.advance dt).timer.now / 25000
      ∧ t.lines = { s.lines with
          interrupt := s.lines.interrupt
            || decide (s.notices.coalesceCount ≤ a.noticeRingEntries - (s.notices.available - 1)) }
      ∧ (readWord t.mem e).toNat = n.body.kind + 256 * (n.group.getD 255 % 256)
          + 65536 * (if n.source = none then 0 else if n.source = some .rig1 then 1 else 2)
      ∧ (∀ i, s.landed.notice ≤ i → i < 7 → readWord t.mem (e + 4 + 4 * i)
          = ([blockLow n.period, blockHigh n.period] ++ n.body.words).getD i 0)
      ∧ (∀ x, x < e ∨ (e + 4 ≤ x ∧ x < e + 4 + 4 * s.landed.notice) ∨ e + 32 ≤ x →
          readByte t.mem x = readByte s.mem x) := by
  have hlen := n.length_restWords
  refine ⟨fun k => ⟨s.noticeEnd_took k dt, _, rfl, ?_⟩, ?_⟩
  · rw [State.tookNotice ha hw hq hl, ← he]
    dsimp only
    refine ⟨rfl, fun i hi hk => ?_, fun x hx => ?_⟩
    · rw [readWord_writeWords_part s.mem (e + 4) _ _ hi (by omega) (by omega), n.getD_restWords (by omega)]
    · refine readByte_writeWords_of_outside _ _ _ ?_
      rw [List.length_take, List.length_drop, hlen]
      omega
  · have heq := State.noticeWritten_eq (s := s.advance dt) (by exact ha) (by exact hq)
    have hmem := State.mem_noticeWritten (s := s.advance dt) (by exact ha) (by exact hw) (by exact hq) (by exact hl)
    rw [State.advance_mem, State.advance_notices, State.advance_landed, ← he] at hmem
    generalize hm : (s.advance dt).noticeWritten.mem = m at heq hmem
    refine ⟨_, exec_noticeWriteEnd hw, ?_⟩
    rw [heq]
    refine ⟨rfl, rfl, Table.get_set_self .., rfl, ?_, fun i hi h7 => ?_, fun x hx => ?_⟩
    · rw [← n.toNat_ownWord, hmem, readWord_writeWord]
    · have hpart := readWord_writeWords_part s.mem (e + 4) s.landed.notice n.restWords hi (k := 7 - s.landed.notice) (by omega)
        (by omega)
      rw [List.take_of_length_le (Nat.le_of_eq (by rw [List.length_drop, hlen]))] at hpart
      rw [hmem, readWord_writeWord_of_outside _ _ (by omega), hpart, n.getD_restWords h7]
    · rw [hmem, readByte_writeWord_of_outside _ _ (by omega)]
      refine readByte_writeWords_of_outside _ _ _ ?_
      rw [List.length_drop, hlen]
      omega

/-- Settles O40: the layout kind by kind, and the rows by the words of an entry that are in flight. -/
theorem noticeWrite : Obligations.NoticeWrite := by
  refine ⟨?layout, fun dt s a ha => ⟨fun h => ?stays, fun hw hq hav ht => ?begins,
    fun n rest e hw hq he hl => State.noticeEnd_spec dt s a ha n rest e hw hq he hl, fun hrun => ?late⟩⟩
  case layout =>
    refine ⟨fun _ _ _ _ => ⟨rfl, rfl⟩, fun _ _ => ⟨rfl, rfl⟩, fun _ _ _ _ => ⟨rfl, rfl⟩,
      fun f t c l x ls n hl hx hls => ⟨rfl, ?_⟩, fun r e c x => ⟨rfl, ?_⟩, fun ls r why m hls hm => ⟨rfl, ?_⟩,
      fun r o n trip b g hb hg => ⟨rfl, ?_⟩, fun o n b g hb hg => ⟨rfl, ?_⟩,
      fun c d o r m cd lead trip oob cmp dis hc hd ho hr hm hcd hlead hcmp hdis => ⟨rfl, ?_⟩, fun _ _ _ _ => ⟨rfl, rfl⟩,
      fun c l r q f hc hl => ⟨rfl, ?_⟩, fun _ => ⟨rfl, rfl⟩, fun _ _ => ⟨rfl, rfl⟩, fun _ => ⟨rfl, rfl⟩,
      fun c i b => ⟨rfl, ?_⟩, fun _ _ => ⟨rfl, rfl⟩, fun _ => ⟨rfl, rfl⟩, rfl, rfl, rfl, rfl, rfl, rfl, rfl, rfl⟩
    · have hpoint : packBytes (x / 4294967296) (x / 1099511627776) ls 0
          = BitVec.ofNat 32 (x / 4294967296 + 65536 * ls) := by
        rw [packBytes, word]
        congr 1
        omega
      rw [NoticeBody.words, packBytes_of_lt f.code_lt t.code_lt c.code_lt hl, hpoint]
      rfl
    · rw [NoticeBody.words, packBytes_of_lt r.code_lt e.code_lt c.code_lt (by decide)]
      rfl
    · rw [NoticeBody.words, packBytes_of_lt hls r.code_lt why.code_lt hm]
    · rw [NoticeBody.words, packBytes_of_lt r.code_lt o.code_lt n.code_lt (by split <;> decide), packHalves_of_lt hb hg]
    · rw [NoticeBody.words, packBytes_of_lt (by decide) o.code_lt n.code_lt (by decide), packHalves_of_lt hb hg]
    · have hmin : lead.getD 255 < 256 := by
        cases lead with
        | none => exact (by decide)
        | some y => exact hlead y rfl
      have hflags : packBytes (lead.getD 255) (flag trip + 2 * flag oob) 0 0
          = BitVec.ofNat 32 (lead.getD 255 + (if trip = true then 256 else 0) + (if oob = true then 512 else 0)) := by
        rw [packBytes_of_lt hmin (by cases trip <;> cases oob <;> decide) (by decide) (by decide)]
        congr 1
        cases trip <;> cases oob <;> rfl
      rw [NoticeBody.words, packHalves_of_lt hc hd, packHalves_of_lt ho hr, packHalves_of_lt hm hcd,
        packHalves_of_lt hcmp hdis, hflags]
    · rw [NoticeBody.words, packHalves_of_lt hc hl]
      rfl
    · cases i <;> rfl
  case stays =>
    have hnot : ¬s.noticeReady = true := by
      rw [State.noticeReady_iff]
      rintro ⟨hw, hq, hav, ht, _⟩
      rcases h with h | h | h | h
      · rw [hw] at h
        cases h
      · exact hq h
      · omega
      · exact h ht
    rw [exec_noticeWriteBegin, if_neg hnot]
  case begins =>
    have hready : s.noticeReady = true := State.noticeReady_iff.2 ⟨hw, hq, hav, ht, by rw [ha]; exact nofun⟩
    rw [exec_noticeWriteBegin, if_pos hready]
  case late =>
    have hms : (s.advance dt).milliseconds = (s.timer.now + dt) / 25000 := by
      simp [State.milliseconds, hrun]
    have hdue : (s.advance dt).timeDue = true ↔ s.notices.coalesceTime ≠ 0 ∧ 0 < a.noticeRingEntries - s.notices.available
        ∧ Table.get 0 s.notices.writeTimes ((s.notices.lastHanded + 1) % a.noticeRingEntries) + s.notices.coalesceTime
          < (s.timer.now + dt) / 25000 := by
      simp only [State.timeDue, State.unreturned, State.oldestWriteTime, hms, State.noticeEntries, State.advance_sup,
        State.advance_notices, ha, NoticeUnit.unreturned, Bool.and_eq_true, bne_iff_ne, decide_eq_true_eq, and_assoc, ne_eq]
    refine ⟨fun h0 hun hlate => ?_, fun h => ?_⟩
    · rw [exec_coalesceTimeout hrun, hdue.2 ⟨h0, hun, hlate⟩, State.assertInterrupt, Bool.or_true]
      rfl
    · have hnot : (s.advance dt).timeDue = false := by
        rw [Bool.eq_false_iff, Ne, hdue]
        omega
      rw [exec_coalesceTimeout hrun, hnot, State.assertInterrupt_false]

/-! ### The status record (R177) -/

section
variable {s : State}

theorem exec_statusWriteEnd {w : StatusWrite} (h : s.sup.status.writing = some w) :
    exec .statusWriteEnd s = .next (s.statusWritten w) := by
  simp only [exec, execStatusWriteEnd, h]

theorem State.goReady_iff : s.goReady = true ↔ s.sup.goPending = true ∧ s.sup.command.phase = .idle
    ∧ s.sup.teardown = none ∧ s.part.state ≠ .armed ∧ s.part.state ≠ .running := by
  simp [State.goReady, and_assoc]

end

end Sys2Proof.Machine
end

section
/-! # The Bridge Status record (R177, R181)

The record is 128 words: 16 of the part, four of each group, zeros, and the sequence value again. -/

namespace Sys2Proof.Machine

/-! ### The words of the record -/

theorem length_flatMap_range_four (f : Nat → List Word) (hf : ∀ g, (f g).length = 4) (n : Nat) :
    ((List.range n).flatMap f).length = 4 * n := by
  simp only [List.length_flatMap, hf, List.map_const', List.length_range, List.sum_replicate_nat]
  omega

/-- The words of consecutive blocks of four. -/
theorem getD_flatMap_range_four (f : Nat → List Word) (hf : ∀ g, (f g).length = 4) {g i : Nat} (hi : i < 4) :
    ∀ {n : Nat}, g < n → ((List.range n).flatMap f).getD (4 * g + i) 0 = (f g).getD i 0
  | 0, h => absurd h (Nat.not_lt_zero g)
  | n + 1, h => by
    have hlen := length_flatMap_range_four f hf n
    rw [List.range_succ, List.flatMap_append, List.flatMap_singleton]
    by_cases hg : g < n
    · rw [getD_append_lt (by omega), getD_flatMap_range_four f hf hi hg]
    · have hgn : g = n := by omega
      subst hgn
      rw [getD_append_ge (by omega), hlen, Nat.add_sub_cancel_left]

section
variable (s : State) (q : Word)

/-- The words of the record that name no group. -/
def State.statusHead (s : State) (q : Word) : List Word :=
  [q, packBytes s.part.state.code s.clock.state.code (flag s.notices.lost + 2 * flag s.sup.locked) 0,
   blockLow s.part.period, blockHigh s.part.period,
   blockLow s.resolver.resolveFront, blockHigh s.resolver.resolveFront,
   word s.cache.validContexts.length,
   packHalves s.resolver.readerEarly s.resolver.readerFault,
   word (s.pool.inUse (.quota .rig1)), word (s.pool.inUse (.quota .rig2)),
   word (s.pool.inUse (.common .rig1)), word (s.pool.inUse (.common .rig2)),
   word s.pool.commonFree, word (s.pool.inUse .blend),
   packHalves s.cache.strayWrites.rig1 s.cache.strayWrites.rig2, 0]

theorem State.length_statusGroup (g : Nat) : (s.statusGroup g).length = 4 := by
  unfold State.statusGroup
  split <;> rfl

theorem State.statusWords_eq : s.statusWords q
    = s.statusHead q ++ ((List.range 8).flatMap s.statusGroup ++ (List.replicate 79 0 ++ [q])) := by
  simp [State.statusWords, State.statusHead, List.range_succ]

theorem State.length_statusGroups : ((List.range 8).flatMap s.statusGroup).length = 32 :=
  length_flatMap_range_four _ s.length_statusGroup 8

theorem State.length_statusWords : (s.statusWords q).length = 128 := by
  rw [State.statusWords_eq, List.length_append, List.length_append, s.length_statusGroups]
  rfl

theorem State.getD_statusWords_head {i : Nat} (h : i < 16) : (s.statusWords q).getD i 0 = (s.statusHead q).getD i 0 := by
  rw [State.statusWords_eq, getD_append_lt (show i < (s.statusHead q).length from h)]

theorem State.getD_statusWords_group {g i : Nat} (hg : g < 8) (hi : i < 4) :
    (s.statusWords q).getD (16 + 4 * g + i) 0 = (s.statusGroup g).getD i 0 := by
  have hlen := s.length_statusGroups
  have hskip : 16 + 4 * g + i - (s.statusHead q).length = 4 * g + i := by
    rw [show (s.statusHead q).length = 16 from rfl]
    omega
  rw [State.statusWords_eq, getD_append_ge (show (s.statusHead q).length ≤ _ by
    rw [show (s.statusHead q).length = 16 from rfl]; omega), hskip, getD_append_lt (by omega),
    getD_flatMap_range_four _ s.length_statusGroup hi hg]

theorem State.getD_statusWords_tail {i : Nat} (h : i < 80) :
    (s.statusWords q).getD (48 + i) 0 = if i = 79 then q else 0 := by
  have hlen := s.length_statusGroups
  have hskip : 48 + i - (s.statusHead q).length = 32 + i := by
    rw [show (s.statusHead q).length = 16 from rfl]
    omega
  rw [State.statusWords_eq, getD_append_ge (show (s.statusHead q).length ≤ _ by
    rw [show (s.statusHead q).length = 16 from rfl]; omega), hskip, getD_append_ge (by omega), hlen,
    Nat.add_sub_cancel_left]
  split
  next heq =>
    subst heq
    rfl
  next hne =>
    rw [getD_append_lt (by rw [List.length_replicate]; omega), getD_replicate_lt _ (by omega)]

end

section
variable (s : State) (q : Word)

/-- Each word of the record, as its statement in the obligation spells it. -/
theorem State.statusWords_read :
    (s.statusWords q).getD 0 0 = q ∧ (s.statusWords q).getD 127 0 = q
    ∧ ((s.statusWords q).getD 1 0).toNat = s.part.state.code + 256 * s.clock.state.code
        + 65536 * ((if s.notices.lost then 1 else 0) + 2 * (if s.sup.locked then 1 else 0))
    ∧ (s.statusWords q).getD 2 0 = blockLow s.part.period ∧ (s.statusWords q).getD 3 0 = blockHigh s.part.period
    ∧ (s.statusWords q).getD 4 0 = blockLow s.resolver.resolveFront
    ∧ (s.statusWords q).getD 5 0 = blockHigh s.resolver.resolveFront
    ∧ (s.statusWords q).getD 6 0 = word (s.cache.contexts.countP (fun e => decide (e.2.residence = .valid)))
    ∧ (s.statusWords q).getD 7 0 = packHalves s.resolver.readerEarly s.resolver.readerFault
    ∧ (s.statusWords q).getD 8 0 = word (s.pool.inUse (.quota .rig1))
    ∧ (s.statusWords q).getD 9 0 = word (s.pool.inUse (.quota .rig2))
    ∧ (s.statusWords q).getD 10 0 = word (s.pool.inUse (.common .rig1))
    ∧ (s.statusWords q).getD 11 0 = word (s.pool.inUse (.common .rig2))
    ∧ (s.statusWords q).getD 12 0 = word (s.pool.buckets - 1 - s.pool.quota.rig1 - s.pool.quota.rig2 - 64
        - (s.pool.inUse (.common .rig1) + s.pool.inUse (.common .rig2)))
    ∧ (s.statusWords q).getD 13 0 = word (s.pool.inUse .blend)
    ∧ (s.statusWords q).getD 14 0 = packHalves s.cache.strayWrites.rig1 s.cache.strayWrites.rig2
    ∧ (∀ g, g < 8 → (s.group g).defined = true →
        (s.statusWords q).getD (16 + 4 * g) 0 = blockLow (s.ring g).playBase
        ∧ (s.statusWords q).getD (17 + 4 * g) 0 = blockHigh (s.ring g).playBase
        ∧ (s.statusWords q).getD (18 + 4 * g) 0 = packBytes (s.group g).selectState.code (s.group g).targetRole.code
            (if (s.group g).hold then 1 else 0) 0
        ∧ (s.statusWords q).getD (19 + 4 * g) 0 = packBytes (s.healthOf g).main.verdict.code
            (s.healthOf g).backup.verdict.code (s.healthOf g).agreement.verdict.code 1)
    ∧ (∀ g i, g < 8 → (s.group g).defined = false → i < 4 → (s.statusWords q).getD (16 + 4 * g + i) 0 = 0)
    ∧ (∀ i, i = 15 ∨ (48 ≤ i ∧ i ≤ 126) → (s.statusWords q).getD i 0 = 0) := by
  have hhead := fun i (h : i < 16) => s.getD_statusWords_head q h
  refine ⟨hhead 0 (by decide), s.getD_statusWords_tail q (i := 79) (by decide), ?flags, hhead 2 (by decide),
    hhead 3 (by decide), hhead 4 (by decide), hhead 5 (by decide), ?valid, hhead 7 (by decide), hhead 8 (by decide),
    hhead 9 (by decide), hhead 10 (by decide), hhead 11 (by decide), hhead 12 (by decide), hhead 13 (by decide),
    hhead 14 (by decide), fun g hg hd => ?defined, fun g i hg hd hi => ?undefined, fun i hi => ?zero⟩
  case flags =>
    have hstate : s.part.state.code < 256 := by cases s.part.state <;> decide
    have hclock : s.clock.state.code < 256 := by cases s.clock.state <;> decide
    have hflags : flag s.notices.lost + 2 * flag s.sup.locked < 256 := by
      cases s.notices.lost <;> cases s.sup.locked <;> decide
    rw [hhead 1 (by decide), show (s.statusHead q).getD 1 0
      = packBytes s.part.state.code s.clock.state.code (flag s.notices.lost + 2 * flag s.sup.locked) 0 from rfl,
      toNat_packBytes, Nat.mod_eq_of_lt hstate, Nat.mod_eq_of_lt hclock, Nat.mod_eq_of_lt hflags]
    rfl
  case valid =>
    have hcount : s.cache.validContexts.length = s.cache.contexts.countP (fun e => decide (e.2.residence = .valid)) := by
      rw [Cache.validContexts, List.length_map, List.countP_eq_length_filter]
      simp only [Bool.beq_eq_decide_eq]
    rw [hhead 6 (by decide), ← hcount]
    rfl
  case defined =>
    have hread := fun i (h : i < 4) => s.getD_statusWords_group q hg h
    have hgroup : s.statusGroup g = _ := if_pos hd
    rw [hgroup] at hread
    refine ⟨hread 0 (by decide), ?_, ?_, ?_⟩
    · rw [show 17 + 4 * g = 16 + 4 * g + 1 by omega, hread 1 (by decide)]
      rfl
    · rw [show 18 + 4 * g = 16 + 4 * g + 2 by omega, hread 2 (by decide)]
      rfl
    · rw [show 19 + 4 * g = 16 + 4 * g + 3 by omega, hread 3 (by decide)]
      rfl
  case undefined =>
    rw [s.getD_statusWords_group q hg hi, State.statusGroup, hd]
    exact getD_replicate_lt (n := 4) 0 hi
  case zero =>
    rcases hi with rfl | ⟨hlo, hhi⟩
    · exact hhead 15 (by decide)
    · rw [show i = 48 + (i - 48) by omega, s.getD_statusWords_tail q (by omega), if_neg (by omega)]

end

/-! ### The record is written (R177) -/

section
variable {s : State} {w : StatusWrite}

theorem State.tookStatus_eq (h : s.sup.status.writing = some w) (n : Nat) : s.took n .status = { s with
    mem := writeWords s.mem w.base (w.words.take (min n (w.words.length - 1)))
    sup := { s.sup with status := { s.sup.status with
      writing := some { base := w.base + 4 * min n (w.words.length - 1),
                        words := w.words.drop (min n (w.words.length - 1)) } } } } := by
  show s.tookStatus n = _
  unfold State.tookStatus
  simp only [h, State.statusInFlight, State.land, landFirst, firstWords, takeWrites, State.modifySup]

/-- The Status Writer once its write has ended, before a follow-up. -/
def State.statusDone (s : State) (w : StatusWrite) : State :=
  { s with
    mem := writeWords s.mem w.base w.words
    sup := { s.sup with status := { s.sup.status with writing := none } } }

theorem State.statusWritten_eq (w : StatusWrite) : s.statusWritten w
    = if s.sup.take ≠ none ∨ s.goReady = true then s.statusDone w else (s.statusDone w).beginFollowUp := by
  have hready : (s.statusDone w).goReady = s.goReady := rfl
  have hcond : ((s.statusDone w).sup.take.isSome || (s.statusDone w).goReady) = true
      ↔ s.sup.take ≠ none ∨ s.goReady = true := by
    rw [hready, Bool.or_eq_true, Option.isSome_iff_ne_none]
    rfl
  exact ite_of_iff hcond rfl rfl

end

/-- Settles O41: the write that ends, then the follow-up with its words read off the record. -/
theorem statusRecord : Obligations.StatusRecord := by
  intro s
  refine ⟨fun h => ?_, fun n => s.statusEnd_took n, fun w n k hw hk => ?_, fun w hw => ?_⟩
  · simp only [exec, execStatusWriteEnd, h]
  · rw [State.tookStatus_eq hw, ← hk]
  · have hwords := fun i (hi : i < w.words.length) => readWord_writeWords w.words s.mem w.base hi
    have hout := fun x (hx : x < w.base ∨ w.base + 4 * w.words.length ≤ x) =>
      readByte_writeWords_of_outside w.words s.mem w.base hx
    have hdone : s.statusDone w = { s with
        mem := writeWords s.mem w.base w.words
        sup := { s.sup with status := { s.sup.status with writing := none } } } := rfl
    generalize writeWords s.mem w.base w.words = m at hwords hout hdone
    have hexec := exec_statusWriteEnd hw
    rw [State.statusWritten_eq, hdone] at hexec
    by_cases hstay : s.sup.take ≠ none ∨ s.goReady = true
    · rw [if_pos hstay] at hexec
      refine ⟨_, hexec, rfl, hwords, hout, fun _ => rfl, fun _ _ _ _ => rfl, fun a _ htake _ hgo => ?_⟩
      obtain ⟨hpend, hidle, htd, harm, hrun⟩ := State.goReady_iff.1 (hstay.resolve_left fun h => h htake)
      rcases hgo with h | h | h | h | h
      · rw [hpend] at h
        cases h
      · exact absurd hidle h
      · exact absurd htd h
      · exact absurd h harm
      · exact absurd h hrun
    · rw [if_neg hstay] at hexec
      have hkept := State.beginFollowUp_eq { s with
        mem := m, sup := { s.sup with status := { s.sup.status with writing := none } } }
      have hmem := congrArg State.mem hkept
      refine ⟨_, hexec, ?_, fun i hi => ?_, fun x hx => ?_, fun h => ?_, fun hpend hidle htd hs => ?_,
        fun a hfollow htake ha hgo => ?_⟩
      · rw [hmem]
        exact hkept
      · rw [hmem]
        exact hwords i hi
      · rw [hmem]
        exact hout x hx
      · have hnone : s.sup.status.followUp = false ∨ s.sup.anchor = none := by
          rcases h with h | h | h
          · exact .inl h
          · exact absurd (.inl h) hstay
          · exact .inr h
        rw [State.beginFollowUp_none (by exact hnone)]
      · refine absurd (.inr (State.goReady_iff.2 ⟨hpend, hidle, htd, ?_, ?_⟩)) hstay
        · rcases hs with hs | hs <;> rw [hs] <;> exact nofun
        · rcases hs with hs | hs <;> rw [hs] <;> exact nofun
      · rw [State.beginFollowUp_some (by exact hfollow) (by exact ha)]
        exact ⟨rfl, rfl, _, rfl, rfl, State.length_statusWords _ _, State.statusWords_read _ _⟩

end Sys2Proof.Machine
end

section
/-! # The result of a command entry (R170, R180)

Word 10, the result data and word 0 are written in that order. Words 10 to 15 stand together, so what is left of the write
is one run of words and then word 0. -/

namespace Sys2Proof.Machine

/-! ### Writes that stand together -/

section
variable (m : Memory) (a : Nat) (w : Word) (ws : List Word) (rest : List (Nat × List Word))

/-- A word and the words behind it, written one after the other, are one write. -/
theorem takeWrites_joined (l : Nat) : takeWrites m (afterWords l ((a, [w]) :: (a + 4, ws) :: rest))
    = takeWrites m (afterWords l ((a, w :: ws) :: rest)) := by
  cases l with
  | zero => simp [afterWords, takeWrites, writeWords]
  | succ l =>
    have hplace : a + 4 + 4 * min l ws.length = a + 4 * min (l + 1) (ws.length + 1) := by omega
    simp [afterWords, takeWrites, writeWords, hplace]

theorem landFirst_joined (k : Nat) : landFirst m k ((a, [w]) :: (a + 4, ws) :: rest)
    = landFirst m k ((a, w :: ws) :: rest) := by
  cases k with
  | zero => simp [landFirst, firstWords, takeWrites, writeWords]
  | succ k => simp [landFirst, firstWords, takeWrites, writeWords]

end

/-! ### Words 10 to 15 of an entry -/

section
variable (u : CommandUnit)

/-- The words of the result from word 10 on: the result code, and its data where the rule gives some. -/
def CommandUnit.resultRun (u : CommandUnit) : List Word :=
  Sys2Proof.Machine.word u.result.code :: if u.result = .done ∨ u.result = .noContext then u.resultData else []

theorem CommandUnit.takeWrites_result (m : Memory) {l : Nat} (e : Nat) (h : l ≤ u.resultRun.length) :
    takeWrites m (afterWords l (u.resultWrites e))
      = writeWord (writeWords m (e + 40 + 4 * l) (u.resultRun.drop l)) e u.word0Back := by
  rw [← takeWrites_entry m (e + 40) e l u.resultRun _ h]
  unfold CommandUnit.resultWrites CommandUnit.resultRun
  split
  · exact takeWrites_joined m (e + 40) _ _ _ l
  · rfl

theorem CommandUnit.landFirst_result (m : Memory) {k : Nat} (e : Nat) (h : k ≤ u.resultRun.length) :
    landFirst m k (u.resultWrites e) = writeWords m (e + 40) (u.resultRun.take k) := by
  have hentry := landFirst_entry m (e + 40) e 0 u.resultRun u.word0Back (k := k) (by omega)
  rw [afterWords_zero] at hentry
  refine Eq.trans ?_ hentry
  unfold CommandUnit.resultWrites CommandUnit.resultRun
  split
  · exact landFirst_joined m (e + 40) _ _ _ k
  · rfl

theorem CommandUnit.wordCount_result (e : Nat) : wordCount (u.resultWrites e) = u.resultRun.length + 1 := by
  unfold CommandUnit.resultWrites CommandUnit.resultRun
  split <;> simp [wordCount]
  omega

theorem ResultCode.code_lt (r : ResultCode) : r.code < 4294967296 := by cases r <;> decide

end

/-- Bits 0 to 7, 16 to 23 and 30 of a word. -/
theorem and_kindGroupNotify (w : Word) :
    packBytes (byteOf w 0) 0 (byteOf w 2) (64 * flag (w.getLsbD 30)) = w &&& 0x40FF00FF := by
  have hlow : (w.toNat &&& 0x40FF00FF) % 65536 = w.toNat % 256 := by
    rw [show 65536 = 2 ^ 16 from rfl, Nat.and_mod_two_pow, show 0x40FF00FF % 2 ^ 16 = 2 ^ 8 - 1 from rfl,
      Nat.and_two_pow_sub_one_eq_mod]
    omega
  have hmid : (w.toNat &&& 0x40FF00FF) / 65536 % 256 = w.toNat / 65536 % 256 := by
    rw [show 65536 = 2 ^ 16 from rfl, Nat.and_div_two_pow, show 256 = 2 ^ 8 from rfl, Nat.and_mod_two_pow,
      show 0x40FF00FF / 2 ^ 16 % 2 ^ 8 = 2 ^ 8 - 1 from rfl, Nat.and_two_pow_sub_one_eq_mod]
    omega
  have hhigh : (w.toNat &&& 0x40FF00FF) / 16777216 = 64 * flag (w.getLsbD 30) := by
    rw [show 16777216 = 2 ^ 24 from rfl, Nat.and_div_two_pow, show 0x40FF00FF / 2 ^ 24 = 2 ^ 6 from rfl, and_bit,
      Nat.testBit_div_two_pow, BitVec.getLsbD]
    cases w.toNat.testBit (24 + 6) <;> rfl
  refine BitVec.eq_of_toNat_eq ?_
  rw [toNat_packBytes, BitVec.toNat_and]
  have hflag : flag (w.getLsbD 30) ≤ 1 := by cases w.getLsbD 30 <;> decide
  simp only [byteOf, Nat.pow_zero, Nat.div_one, show (256 : Nat) ^ 2 = 65536 from rfl]
  have hall : (0x40FF00FF : Word).toNat = 0x40FF00FF := rfl
  rw [hall]
  omega

/-! ### What the row leaves -/

section
variable {s : State}

theorem State.requestStatus_eq : s.requestStatus = { s with sup := { s.sup with status := s.requestStatus.sup.status } } := by
  unfold State.requestStatus
  repeat' split
  all_goals rfl

theorem exec_commandResultWritten (h : s.sup.command.phase = .writing) :
    exec .commandResultWritten s = .next s.resultWritten := congrArg Host.Outcome.next (if_pos h)

theorem State.resultInFlight_eq {a : Anchor} (ha : s.sup.anchor = some a) (h : s.sup.command.phase = .writing) :
    s.resultInFlight = afterWords s.landed.result
      (s.sup.command.resultWrites (a.commandRingBase + 64 * s.sup.command.next)) := by
  rw [State.resultInFlight, if_pos h, State.entryAddr, ha, ← Anchor.entryAddr_eq]

/-- The Command Unit once the entry is finished. -/
theorem State.resultWritten_eq : s.resultWritten = { s with
    mem := s.resultWritten.mem
    notices := s.resultWritten.notices
    landed := { s.landed with result := 0 }
    sup := { s.sup with
      command := s.sup.command.finished s.commandEntries s.sup.goPending
      status := s.resultWritten.sup.status } } := by
  unfold State.resultWritten
  dsimp only
  rw [State.requestStatus_eq]
  unfold State.postCommandDone
  dsimp only
  split <;> rfl

theorem State.mem_resultWritten : s.resultWritten.mem = takeWrites s.mem s.resultInFlight := by
  unfold State.resultWritten
  dsimp only
  rw [State.requestStatus_eq]
  unfold State.postCommandDone
  dsimp only
  split <;> rfl

theorem State.notices_resultWritten : s.resultWritten.notices
    = if (s.sup.command.entry.getD 0 0).getLsbD 30 = true ∧ s.part.state ≠ .quiet then
        s.notices.post { group := none, source := none, period := s.part.period
                         body := .commandDone s.sup.command.next s.sup.command.kind s.sup.command.groupField
                           s.sup.command.result }
      else s.notices := by
  have hposted : ∀ t : State, t.postCommandDone.notices = if t.sup.command.notify = true ∧ t.part.state ≠ .quiet then
      t.notices.post { group := none, source := none, period := t.part.period
                       body := .commandDone t.sup.command.next t.sup.command.kind t.sup.command.groupField
                         t.sup.command.result } else t.notices := by
    intro t
    unfold State.postCommandDone
    by_cases hn : t.sup.command.notify = true
    · by_cases hq : t.part.state = .quiet
      · rw [if_pos hn, State.notices_post_quiet hq, if_neg (fun h => h.2 hq)]
      · rw [if_pos hn, if_pos ⟨hn, hq⟩, State.post_outside_quiet hq]
    · rw [if_neg hn, if_neg (fun h => hn h.1)]
  unfold State.resultWritten
  dsimp only
  rw [State.requestStatus_eq]
  exact hposted _

theorem State.status_resultWritten {a : Anchor} (ha : s.sup.anchor = some a) (hw : s.sup.status.writing = none)
    (ht : s.sup.take = none) : s.resultWritten.sup.status.sequence = s.sup.status.sequence + 1
      ∧ ∃ w, s.resultWritten.sup.status.writing = some w ∧ w.base = a.statusBase := by
  have hposted : ∀ t : State, t.postCommandDone.sup = t.sup := by
    intro t
    unfold State.postCommandDone
    dsimp only
    split <;> rfl
  unfold State.resultWritten
  dsimp only
  rw [State.requestStatus_begins (by rw [hposted]; exact ha) (by rw [hposted]; exact hw) (by rw [hposted]; exact ht)]
  refine ⟨?_, _, rfl, rfl⟩
  exact congrArg (fun u : Supervisor => u.status.sequence + 1) (hposted _)

end

/-! ### What stands in DRAM -/

section
variable {u : CommandUnit} {m : Memory} {e l : Nat}

theorem CommandUnit.length_resultRun (hdata : u.resultData.length = 5) :
    u.resultRun.length = if u.result = .done ∨ u.result = .noContext then 6 else 1 := by
  unfold CommandUnit.resultRun
  split <;> simp [hdata]

/-- Word `10 + i` of the entry, where `l` words were taken before. -/
theorem CommandUnit.readWord_result {i : Nat} (hi : l ≤ i) (hlen : i < u.resultRun.length) (w : Word) :
    readWord (writeWord (writeWords m (e + 40 + 4 * l) (u.resultRun.drop l)) e w) (e + 40 + 4 * i) = u.resultRun.getD i 0 := by
  have hpart := readWord_writeWords_part m (e + 40) l u.resultRun hi (k := u.resultRun.length - l) (by omega) hlen
  rw [List.take_of_length_le (Nat.le_of_eq List.length_drop)] at hpart
  rw [readWord_writeWord_of_outside _ _ (by omega), hpart]

theorem CommandUnit.readByte_result {x : Nat} (hx : x < e + 40 + 4 * l ∨ e + 40 + 4 * u.resultRun.length ≤ x)
    (hword : x < e ∨ e + 4 ≤ x) (hl : l ≤ u.resultRun.length) (w : Word) :
    readByte (writeWord (writeWords m (e + 40 + 4 * l) (u.resultRun.drop l)) e w) x = readByte m x := by
  rw [readByte_writeWord_of_outside _ _ hword]
  refine readByte_writeWords_of_outside _ _ _ ?_
  rw [List.length_drop]
  omega

end

/-- Settles O26, by the run of words from word 10 and by what the row does besides. -/
theorem commandResultWritten : Obligations.CommandResultWritten := by
  intro s a e ha hphase he hdata hl
  have hlen := CommandUnit.length_resultRun hdata
  rw [← hlen] at hl
  refine ⟨fun n => ⟨s.resultEnd_took n, fun hn h0 => ?_⟩, ?_⟩
  · have hflight := State.resultInFlight_eq ha hphase
    rw [h0, afterWords_zero, ← he] at hflight
    have hpos : 0 < beforeLast n s.resultInFlight ∧ beforeLast n s.resultInFlight ≤ s.sup.command.resultRun.length := by
      have hne : s.sup.command.resultRun.length ≠ 0 := by
        rw [hlen]
        split <;> decide
      rw [hflight, beforeLast, CommandUnit.wordCount_result]
      omega
    have hmem : (s.took n .result).mem = landFirst s.mem (beforeLast n s.resultInFlight) s.resultInFlight := rfl
    have hfirst := readWord_writeWords_part s.mem (e + 40) 0 s.sup.command.resultRun (i := 0) (Nat.le_refl 0)
      (k := beforeLast n s.resultInFlight) (by omega) (by omega)
    rw [hmem]
    generalize beforeLast n s.resultInFlight = k at hpos hfirst
    rw [hflight, CommandUnit.landFirst_result _ _ _ hpos.2]
    exact (congrArg BitVec.toNat hfirst).trans (toNat_word s.sup.command.result.code_lt)
  · have hmem := s.mem_resultWritten
    rw [State.resultInFlight_eq ha hphase, ← he, CommandUnit.takeWrites_result _ _ _ hl] at hmem
    have heq := s.resultWritten_eq
    have hnotices := s.notices_resultWritten
    have hstatus := State.status_resultWritten (s := s) ha
    rw [show s.commandEntries = a.commandRingEntries from State.commandEntries_of_some ha] at heq
    have hexec := exec_commandResultWritten hphase
    generalize s.resultWritten = t at hmem heq hnotices hstatus hexec
    have hcommand : t.sup.command = s.sup.command.finished a.commandRingEntries s.sup.goPending := by rw [heq]
    have hread : ∀ i, s.landed.result ≤ i → i < s.sup.command.resultRun.length →
        readWord t.mem (e + 40 + 4 * i) = s.sup.command.resultRun.getD i 0 := fun i hi h => by
      rw [hmem, CommandUnit.readWord_result hi h]
    have hbyte : ∀ x, x < e + 40 + 4 * s.landed.result ∨ e + 40 + 4 * s.sup.command.resultRun.length ≤ x →
        x < e ∨ e + 4 ≤ x → readByte t.mem x = readByte s.mem x := fun x hx hword => by
      rw [hmem, CommandUnit.readByte_result hx hword hl]
    refine ⟨t, hexec, by rw [hcommand]; exact heq, fun h0 => ?_, fun h0 x hlo hhi => ?_, fun hd i hi => ⟨fun hli => ?_, fun hli => ?_⟩,
      fun hnd hnc x hlo hhi => ?_, ?_, fun x hx => ?_, hnotices, fun ht => ?_, fun j ht hj hgo => ?_, fun j ht hj hgo => ?_, hstatus⟩
    · have hpos : 0 < s.sup.command.resultRun.length := Nat.succ_pos _
      exact (congrArg BitVec.toNat (hread 0 (by omega) hpos)).trans (toNat_word s.sup.command.result.code_lt)
    · exact hbyte x (by omega) (by omega)
    · rw [if_pos hd] at hlen
      have hword := hread (i + 1) hli (by omega)
      rw [show e + 40 + 4 * (i + 1) = e + 44 + 4 * i by omega] at hword
      rw [hword, CommandUnit.resultRun, if_pos hd, List.getD_cons_succ]
    · exact readWord_congr fun x hlo hhi => hbyte x (by omega) (by omega)
    · rw [if_neg (fun h => h.elim hnd hnc)] at hlen
      exact hbyte x (by omega) (by omega)
    · rw [hmem, readWord_writeWord]
      exact and_kindGroupNotify _
    · refine hbyte x ?_ (by omega)
      have hsix : s.sup.command.resultRun.length ≤ 6 := by
        rw [hlen]
        split <;> omega
      omega
    · rw [hcommand, CommandUnit.finished, if_pos ht]
    · rw [hcommand, CommandUnit.finished, if_neg (by rw [ht]; exact fun h => hj (Option.some.inj h)), hgo,
        show s.sup.command.target.isSome = true by rw [ht]; rfl]
      rfl
    · rw [hcommand, CommandUnit.finished, if_neg (by rw [ht]; exact fun h => hj (Option.some.inj h)), hgo,
        show s.sup.command.target.isSome = true by rw [ht]; rfl]
      rfl

end Sys2Proof.Machine
end

section
/-! # Empty slot records and the end of an anchor take (R18, R52, R82, R166)

The records are cleared and their headers written, each within its 4,096 bytes, so a word of them reads as the header says
and every word behind the header as 0. -/

namespace Sys2Proof.Machine

/-! ### Headers of EMPTY records -/

section
variable (m : Memory) (base lo hi : Nat)

theorem readWord_writeEmptyHeaders {i j : Nat} (hj : j < 1024) (hlo : lo ≤ 1024 * i + j) (hhi : 1024 * i + j < hi) : ∀ n,
    readWord (writeEmptyHeaders m base lo hi n) (base + 4096 * i + 4 * j)
      = if i < n ∧ j < 16 then emptyHeader.getD j 0 else readWord m (base + 4096 * i + 4 * j)
  | 0 => by simp [writeEmptyHeaders]
  | n + 1 => by
    have hlen : emptyHeader.length = 16 := rfl
    have hrun : ((emptyHeader.take (hi - n * 1024)).drop (lo - n * 1024)).length
        = min (hi - n * 1024) 16 - (lo - n * 1024) := by
      rw [List.length_drop, List.length_take, hlen]
    rw [writeEmptyHeaders]
    by_cases hin : i = n ∧ j < 16
    · obtain ⟨rfl, hj16⟩ := hin
      have hword := readWord_writeWords ((emptyHeader.take (hi - i * 1024)).drop (lo - i * 1024))
        (writeEmptyHeaders m base lo hi i) (base + i * 4096 + 4 * (lo - i * 1024)) (i := j - (lo - i * 1024)) (by omega)
      rw [show base + i * 4096 + 4 * (lo - i * 1024) + 4 * (j - (lo - i * 1024)) = base + 4096 * i + 4 * j by omega] at hword
      rw [hword, if_pos ⟨Nat.lt_succ_self i, hj16⟩, List.getD_eq_getElem?_getD, List.getElem?_drop,
        List.getElem?_take_of_lt (by omega), show lo - i * 1024 + (j - (lo - i * 1024)) = j by omega,
        List.getD_eq_getElem?_getD]
    · rw [readWord_writeWords_of_outside _ _ (by rw [hrun]; omega), readWord_writeEmptyHeaders hj hlo hhi n]
      have hsame : i < n ∧ j < 16 ↔ i < n + 1 ∧ j < 16 := by omega
      rw [ite_of_iff hsame rfl rfl]

theorem readByte_writeEmptyHeaders {x : Nat} (h : x < base + 4 * lo ∨ base + 4 * hi ≤ x) : ∀ n,
    readByte (writeEmptyHeaders m base lo hi n) x = readByte m x
  | 0 => rfl
  | n + 1 => by
    rw [writeEmptyHeaders, readByte_writeWords_of_outside _ _ _ ?_, readByte_writeEmptyHeaders h n]
    rw [List.length_drop, List.length_take, show emptyHeader.length = 16 from rfl]
    omega

/-- A word of the records that are cleared. -/
theorem readWord_writeEmptyRange {i j : Nat} (hi128 : i < 128) (hj : j < 1024) (hlo : lo ≤ 1024 * i + j)
    (hhi : 1024 * i + j < hi) : readWord (writeEmptyRange m base lo hi) (base + 4096 * i + 4 * j) = emptyHeader.getD j 0 := by
  rw [writeEmptyRange, readWord_writeEmptyHeaders _ _ _ _ hj hlo hhi]
  by_cases hj16 : j < 16
  · rw [if_pos ⟨hi128, hj16⟩]
  · rw [if_neg (fun h => hj16 h.2), getD_beyond (Nat.not_lt.1 hj16)]
    refine readWord_of_readByte_zero fun x hx hx' => ?_
    rw [readByte_zeroFill, if_pos (by omega)]

theorem readByte_writeEmptyRange {x : Nat} (h : x < base + 4 * lo ∨ base + 4 * hi ≤ x) :
    readByte (writeEmptyRange m base lo hi) x = readByte m x := by
  rw [writeEmptyRange, readByte_writeEmptyHeaders _ _ _ _ h, readByte_zeroFill, if_neg (by omega)]

/-- The header of an EMPTY record, word by word. -/
theorem getD_emptyHeader (j : Nat) : emptyHeader.getD j 0
    = if j = 1 ∨ j = 3 then 0xFFFFFFFF else if j = 2 then 0xFFFF else if j = 4 then 1 else 0 := by
  by_cases hj : j < 16
  · exact (by decide : ∀ j < 16, emptyHeader.getD j 0
      = if j = 1 ∨ j = 3 then 0xFFFFFFFF else if j = 2 then 0xFFFF else if j = 4 then 1 else 0) j hj
  · rw [getD_beyond (Nat.not_lt.1 hj), if_neg (by omega), if_neg (by omega), if_neg (by omega)]

end

/-! ### The regions of a take -/

/-- Where the regions that a take clears lie. -/
structure Anchor.TakeRegions (a : Anchor) : Prop where
  pool_low : 64 ≤ a.poolBase
  directory_low : 64 ≤ a.channelDirectoryBase
  live_low : 64 ≤ a.liveDirectoryBase
  pool_directory : a.poolBase + 512 ≤ a.channelDirectoryBase ∨ a.channelDirectoryBase + 24576 ≤ a.poolBase
  pool_live : a.poolBase + 512 ≤ a.liveDirectoryBase ∨ a.liveDirectoryBase + 524288 ≤ a.poolBase
  directory_live : a.channelDirectoryBase + 24576 ≤ a.liveDirectoryBase
    ∨ a.liveDirectoryBase + 524288 ≤ a.channelDirectoryBase

theorem Anchor.takeRegions {a : Anchor} {dram : Nat} (h : a.ok dram = true) : a.TakeRegions := by
  obtain ⟨hranges, -, hregions⟩ := (anchorChecks a dram).1 h
  obtain ⟨-, hlow, hapart⟩ := hregions _ rfl
  simp only [List.pairwise_cons, List.forall_mem_cons, List.not_mem_nil, false_imp_iff, implies_true, and_true] at hlow hapart
  obtain ⟨-, -, -, hcd, hlive, hpool⟩ := hlow
  obtain ⟨-, -, -, ⟨hcdlive, hcdpool⟩, hlivepool, -⟩ := hapart
  have hbuckets : 512 ≤ a.poolBuckets * 512 := by omega
  exact ⟨hpool, hcd, hlive, by omega, by omega, hcdlive⟩

section
variable {a : Anchor} {x : Landed} {m : Memory} {z d l : Nat}

theorem readByte_landTake_pool (h : a.TakeRegions) {y : Nat} (hlo : a.poolBase + 4 * x.zeroBucket ≤ y)
    (hhi : y < a.poolBase + 4 * (x.zeroBucket + min z (128 - x.zeroBucket))) : readByte (landTake m a x z d l) y = 0 := by
  have hpd := h.pool_directory
  have hpl := h.pool_live
  rw [landTake, readByte_writeEmptyRange _ _ _ _ (by omega), readByte_zeroFill, readByte_zeroFill]
  split
  · rfl
  · rw [if_pos (by omega)]

theorem readByte_landTake_directory (h : a.TakeRegions) {y : Nat} (hlo : a.channelDirectoryBase + 4 * x.directory ≤ y)
    (hhi : y < a.channelDirectoryBase + 4 * (x.directory + min d (6144 - x.directory))) :
    readByte (landTake m a x z d l) y = 0 := by
  have hdl := h.directory_live
  rw [landTake, readByte_writeEmptyRange _ _ _ _ (by omega), readByte_zeroFill, if_pos (by omega)]

theorem readWord_landTake_live {i j : Nat} (hi : i < 128) (hj : j < 1024) (hlo : x.liveDirectory ≤ 1024 * i + j)
    (hhi : 1024 * i + j < x.liveDirectory + l) :
    readWord (landTake m a x z d l) (a.liveDirectoryBase + 4096 * i + 4 * j) = emptyHeader.getD j 0 := by
  rw [landTake, readWord_writeEmptyRange _ _ _ _ hi hj hlo (by omega)]

theorem readByte_landTake_other {y : Nat}
    (hpool : y < a.poolBase + 4 * x.zeroBucket ∨ a.poolBase + 4 * (x.zeroBucket + min z (128 - x.zeroBucket)) ≤ y)
    (hdir : y < a.channelDirectoryBase + 4 * x.directory
      ∨ a.channelDirectoryBase + 4 * (x.directory + min d (6144 - x.directory)) ≤ y)
    (hlive : y < a.liveDirectoryBase + 4 * x.liveDirectory
      ∨ a.liveDirectoryBase + 4 * min (x.liveDirectory + l) 131072 ≤ y) :
    readByte (landTake m a x z d l) y = readByte m y := by
  rw [landTake, readByte_writeEmptyRange _ _ _ _ hlive, readByte_zeroFill, if_neg (by omega), readByte_zeroFill,
    if_neg (by omega)]

end

/-! ### The end of the take (R166) -/

section
variable {s : State} {a : Anchor}

theorem exec_anchorTakeEnd (h : s.sup.take = some (.initialising a)) : exec .anchorTakeEnd s = .next (s.endTake a) := by
  simp only [exec, execAnchorTakeEnd, h]

/-- Words of the three regions that are taken before the end (R162). -/
theorem State.tookTake_eq (h : s.sup.take = some (.initialising a)) (z d l : Nat) :
    s.tookTake z d l = { s with mem := landTake s.mem a s.landed z d l, landed := s.landed.takeMore z d l } := by
  simp only [State.tookTake, h]

end

/-- What the end of a take leaves, as its statement in the obligation spells it. -/
theorem State.endTake_spec {s : State} {a : Anchor} {empty : Nat → Word} (ha : s.sup.take = some (.initialising a))
    (hregions : a.TakeRegions) (hw : s.sup.status.writing = none)
    (hz : s.landed.zeroBucket ≤ 128) (hd : s.landed.directory ≤ 6144)
    (hempty : ∀ j, empty j = if j = 1 ∨ j = 3 then 0xFFFFFFFF else if j = 2 then 0xFFFF else if j = 4 then 1 else 0) :
    ∃ t, exec .anchorTakeEnd s = .next t
      ∧ t = { s with
        part := { s.part with state := .standby, period := 0, startBlock := 0, startGuard := false }
        lines := { s.lines with interrupt := false }
        sup := { s.sup with
          anchor := some a, take := none, command := .initial
          status := t.sup.status }
        notices := s.notices.taken a.noticeRingEntries
        mem := t.mem
        landed := { s.landed with zeroBucket := 0, directory := 0, liveDirectory := 0 } }
      ∧ t.sup.status.sequence = s.sup.status.sequence + 1
      ∧ (∃ w, t.sup.status.writing = some w ∧ w.base = a.statusBase)
      ∧ readWord t.mem 4 = 1
      ∧ (∀ x, a.poolBase + 4 * s.landed.zeroBucket ≤ x → x < a.poolBase + 512 → readByte t.mem x = 0)
      ∧ (∀ x, a.channelDirectoryBase + 4 * s.landed.directory ≤ x → x < a.channelDirectoryBase + 24576 →
          readByte t.mem x = 0)
      ∧ (∀ i j, i < 128 → j < 1024 → s.landed.liveDirectory ≤ 1024 * i + j →
          readWord t.mem (a.liveDirectoryBase + 4096 * i + 4 * j) = empty j)
      ∧ (∀ x, x < 4 ∨ 8 ≤ x → x < a.poolBase + 4 * s.landed.zeroBucket ∨ a.poolBase + 512 ≤ x →
          x < a.channelDirectoryBase + 4 * s.landed.directory ∨ a.channelDirectoryBase + 24576 ≤ x →
          x < a.liveDirectoryBase + 4 * s.landed.liveDirectory ∨ a.liveDirectoryBase + 524288 ≤ x →
          readByte t.mem x = readByte s.mem x) := by
  have hpool : ∀ y, a.poolBase + 4 * s.landed.zeroBucket ≤ y → y < a.poolBase + 512 →
      readByte (landTake s.mem a s.landed 128 6144 131072) y = 0 :=
    fun y hlo hhi => readByte_landTake_pool hregions hlo (by omega)
  have hdir : ∀ y, a.channelDirectoryBase + 4 * s.landed.directory ≤ y → y < a.channelDirectoryBase + 24576 →
      readByte (landTake s.mem a s.landed 128 6144 131072) y = 0 :=
    fun y hlo hhi => readByte_landTake_directory hregions hlo (by omega)
  have hlive : ∀ i j, i < 128 → j < 1024 → s.landed.liveDirectory ≤ 1024 * i + j →
      readWord (landTake s.mem a s.landed 128 6144 131072) (a.liveDirectoryBase + 4096 * i + 4 * j) = empty j :=
    fun i j hi hj hlo => by rw [readWord_landTake_live hi hj hlo (by omega), getD_emptyHeader, hempty]
  have hother : ∀ y, y < a.poolBase + 4 * s.landed.zeroBucket ∨ a.poolBase + 512 ≤ y →
      y < a.channelDirectoryBase + 4 * s.landed.directory ∨ a.channelDirectoryBase + 24576 ≤ y →
      y < a.liveDirectoryBase + 4 * s.landed.liveDirectory ∨ a.liveDirectoryBase + 524288 ≤ y →
      readByte (landTake s.mem a s.landed 128 6144 131072) y = readByte s.mem y :=
    fun y hp hc hlv => readByte_landTake_other (by omega) (by omega) (by omega)
  obtain ⟨hlow, hdlow, hllow, -, -, -⟩ := hregions
  have hexec := exec_anchorTakeEnd ha
  rw [State.endTake] at hexec
  generalize landTake s.mem a s.landed 128 6144 131072 = m at hpool hdir hlive hother hexec
  rw [State.requestStatus_begins (a := a) (by rfl) (by exact hw) (by rfl)] at hexec
  have hone := readWord_writeWord m 4 (word ResultCode.done.code)
  have hword := fun y (h : y + 4 ≤ 4 ∨ 4 + 4 ≤ y) => readWord_writeWord_of_outside m (word ResultCode.done.code) h
  have hbyte := fun y (h : y < 4 ∨ 4 + 4 ≤ y) => readByte_writeWord_of_outside m (word ResultCode.done.code) h
  generalize writeWord m 4 (word ResultCode.done.code) = w at hone hword hbyte hexec
  refine ⟨_, hexec, rfl, rfl, ⟨_, rfl, rfl⟩, hone, fun y hlo hhi => ?_, fun y hlo hhi => ?_, fun i j hi hj hlo => ?_,
    fun y hy hp hc hlv => ?_⟩
  · exact (hbyte y (by omega)).trans (hpool y hlo hhi)
  · exact (hbyte y (by omega)).trans (hdir y hlo hhi)
  · exact (hword _ (by omega)).trans (hlive i j hi hj hlo)
  · exact (hbyte y (by omega)).trans (hother y hp hc hlv)

/-- The words that a part of a take leaves, region by region. -/
theorem State.tookTake_spec {s : State} {a : Anchor} {empty : Nat → Word} (ha : s.sup.take = some (.initialising a))
    (hregions : a.TakeRegions) (hz : s.landed.zeroBucket ≤ 128) (hd : s.landed.directory ≤ 6144)
    (hl : s.landed.liveDirectory ≤ 131072)
    (hempty : ∀ j, empty j = if j = 1 ∨ j = 3 then 0xFFFFFFFF else if j = 2 then 0xFFFF else if j = 4 then 1 else 0)
    (n : Nat) : ∃ z d l : State, z = s.took n .zeroBucket ∧ d = s.took n .directory ∧ l = s.took n .liveDirectory
      ∧ z = { s with mem := z.mem, landed := { s.landed with zeroBucket := min (s.landed.zeroBucket + n) 128 } }
      ∧ d = { s with mem := d.mem, landed := { s.landed with directory := min (s.landed.directory + n) 6144 } }
      ∧ l = { s with
          mem := l.mem, landed := { s.landed with liveDirectory := min (s.landed.liveDirectory + n) 131072 } }
      ∧ (∀ x, (a.poolBase + 4 * s.landed.zeroBucket ≤ x → x < a.poolBase + 4 * z.landed.zeroBucket →
            readByte z.mem x = 0)
          ∧ (x < a.poolBase + 4 * s.landed.zeroBucket ∨ a.poolBase + 4 * z.landed.zeroBucket ≤ x →
            readByte z.mem x = readByte s.mem x)
          ∧ (a.channelDirectoryBase + 4 * s.landed.directory ≤ x →
            x < a.channelDirectoryBase + 4 * d.landed.directory → readByte d.mem x = 0)
          ∧ (x < a.channelDirectoryBase + 4 * s.landed.directory ∨ a.channelDirectoryBase + 4 * d.landed.directory ≤ x →
            readByte d.mem x = readByte s.mem x)
          ∧ (x < a.liveDirectoryBase + 4 * s.landed.liveDirectory
              ∨ a.liveDirectoryBase + 4 * l.landed.liveDirectory ≤ x → readByte l.mem x = readByte s.mem x))
      ∧ ∀ i j, i < 128 → j < 1024 → s.landed.liveDirectory ≤ 1024 * i + j → 1024 * i + j < l.landed.liveDirectory →
          readWord l.mem (a.liveDirectoryBase + 4096 * i + 4 * j) = empty j := by
  have hcountz : s.landed.takeMore n 0 0 = { s.landed with zeroBucket := min (s.landed.zeroBucket + n) 128 } := by
    simp only [Landed.takeMore, Landed.withTake, Nat.add_zero, Nat.min_eq_left hd, Nat.min_eq_left hl]
  have hcountd : s.landed.takeMore 0 n 0 = { s.landed with directory := min (s.landed.directory + n) 6144 } := by
    simp only [Landed.takeMore, Landed.withTake, Nat.add_zero, Nat.min_eq_left hz, Nat.min_eq_left hl]
  have hcountl : s.landed.takeMore 0 0 n = { s.landed with liveDirectory := min (s.landed.liveDirectory + n) 131072 } := by
    simp only [Landed.takeMore, Landed.withTake, Nat.add_zero, Nat.min_eq_left hz, Nat.min_eq_left hd]
  have hzeroed : ∀ x, a.poolBase + 4 * s.landed.zeroBucket ≤ x → x < a.poolBase + 4 * min (s.landed.zeroBucket + n) 128 →
      readByte (landTake s.mem a s.landed n 0 0) x = 0 :=
    fun x hlo hhi => readByte_landTake_pool hregions hlo (by omega)
  have hzkept : ∀ x, x < a.poolBase + 4 * s.landed.zeroBucket ∨ a.poolBase + 4 * min (s.landed.zeroBucket + n) 128 ≤ x →
      readByte (landTake s.mem a s.landed n 0 0) x = readByte s.mem x :=
    fun x hx => readByte_landTake_other (by omega) (by omega) (by omega)
  have hdzeroed : ∀ x, a.channelDirectoryBase + 4 * s.landed.directory ≤ x →
      x < a.channelDirectoryBase + 4 * min (s.landed.directory + n) 6144 →
      readByte (landTake s.mem a s.landed 0 n 0) x = 0 :=
    fun x hlo hhi => readByte_landTake_directory hregions hlo (by omega)
  have hdkept : ∀ x, x < a.channelDirectoryBase + 4 * s.landed.directory
      ∨ a.channelDirectoryBase + 4 * min (s.landed.directory + n) 6144 ≤ x →
      readByte (landTake s.mem a s.landed 0 n 0) x = readByte s.mem x :=
    fun x hx => readByte_landTake_other (by omega) (by omega) (by omega)
  have hlkept : ∀ x, x < a.liveDirectoryBase + 4 * s.landed.liveDirectory
      ∨ a.liveDirectoryBase + 4 * min (s.landed.liveDirectory + n) 131072 ≤ x →
      readByte (landTake s.mem a s.landed 0 0 n) x = readByte s.mem x :=
    fun x hx => readByte_landTake_other (by omega) (by omega) hx
  have hlive : ∀ i j, i < 128 → j < 1024 → s.landed.liveDirectory ≤ 1024 * i + j →
      1024 * i + j < min (s.landed.liveDirectory + n) 131072 →
      readWord (landTake s.mem a s.landed 0 0 n) (a.liveDirectoryBase + 4096 * i + 4 * j) = empty j :=
    fun i j hi hj hlo hhi => by rw [readWord_landTake_live hi hj hlo (by omega), getD_emptyHeader, hempty]
  have htz : s.took n .zeroBucket = _ := State.tookTake_eq ha n 0 0
  have htd : s.took n .directory = _ := State.tookTake_eq ha 0 n 0
  have htl : s.took n .liveDirectory = _ := State.tookTake_eq ha 0 0 n
  rw [htz, htd, htl, hcountz, hcountd, hcountl]
  generalize landTake s.mem a s.landed n 0 0 = vz at hzeroed hzkept
  generalize landTake s.mem a s.landed 0 n 0 = vd at hdzeroed hdkept
  generalize landTake s.mem a s.landed 0 0 n = vl at hlkept hlive
  exact ⟨_, _, _, rfl, rfl, rfl, rfl, rfl, rfl,
    fun x => ⟨hzeroed x, hzkept x, hdzeroed x, hdkept x, hlkept x⟩, hlive⟩

/-- Settles O23, by what the end of a take and a part of it leave in each region. -/
theorem anchorTakeEnd : Obligations.AnchorTakeEnd := by
  refine ⟨fun s h => ?_, fun s a empty ha hok hw hz hd hl hempty => ?_⟩
  · show execAnchorTakeEnd s = _
    unfold execAnchorTakeEnd
    split
    next b hb => exact absurd hb (h b)
    next => rfl
  · have hregions := Anchor.takeRegions hok
    obtain ⟨t, hexec, ht, hsequence, hwriting, hone, hpool, hdir, hlive, hother⟩ :=
      State.endTake_spec ha hregions hw hz hd hempty
    refine ⟨t, hexec, by rw [ht], by rw [ht], by rw [ht], by rw [ht], by rw [ht], by rw [ht], by rw [ht], by rw [ht],
      by rw [ht], by rw [ht], by rw [ht]; rfl, by rw [ht]; rfl, by rw [ht]; rfl, by rw [ht]; rfl, by rw [ht]; rfl,
      by rw [ht]; rfl, by rw [ht]; rfl, by rw [ht]; rfl, by rw [ht]; rfl, hsequence, hwriting, hone, by rw [ht], hpool, hdir,
      hlive, hother, fun n => State.tookTake_spec ha hregions hz hd hl hempty n⟩

end Sys2Proof.Machine
end

section
/-! # Reset (R10, R182)

A reset takes every figure of the part to its value of reset and lands a part of each write in flight. From a part held in
reset, whose figures stand at those values, no row finds anything to do. -/

namespace Sys2Proof.Machine

/-! ### DRAM after a reset -/

/-- A byte that no write in flight was to reach. -/
theorem State.readByte_memAfterReset {s : State} {x : Nat} (htake : ∀ an, s.sup.take ≠ some (.initialising an))
    (h : ∀ w ∈ s.statusInFlight ++ s.noticeInFlight ++ s.resultInFlight ++ s.teardownInFlight ++ s.evictionsInFlight
      ++ s.blendInFlight ++ s.slotsInFlight, x < w.1 ∨ w.1 + 4 * w.2.length ≤ x) :
    readByte s.memAfterReset x = readByte s.mem x := by
  have hnone : ∀ m, s.landTakeWrites m = m := by
    intro m
    unfold State.landTakeWrites
    split
    next an han => exact absurd han (htake an)
    next => rfl
  simp only [List.forall_mem_append] at h
  obtain ⟨⟨⟨⟨⟨⟨hstatus, hnotice⟩, hresult⟩, hteardown⟩, hevictions⟩, hblend⟩, hslots⟩ := h
  rw [State.memAfterReset, hnone, readByte_landFirst_of_outside _ _ _ hslots, readByte_landFirst_of_outside _ _ _ hblend,
    readByte_landFirst_of_outside _ _ _ hevictions, readByte_landFirst_of_outside _ _ _ hteardown,
    readByte_landFirst_of_outside _ _ _ hresult, readByte_landFirst_of_outside _ _ _ hnotice,
    readByte_landFirst_of_outside _ _ _ hstatus]

/-! ### A part held in reset -/

section
variable {s : State}

/-- Only the timer and the count of free values drawn differ. -/
def State.OnlyTime (s t : State) : Prop := t = { s with timer := t.timer, freeCount := t.freeCount }

/-- A part whose figures stand at their values of reset. -/
theorem State.Fresh.eq (h : s.Fresh) : s = { State.reset with
    pending := s.pending, freeCount := s.freeCount, timer := s.timer, lines := s.lines, mem := s.mem } := by
  have hs : s = { ({ s with
      pending := [], freeCount := 0, timer := State.reset.timer, lines := State.reset.lines, mem := [] } : State) with
      pending := s.pending, freeCount := s.freeCount, timer := s.timer, lines := s.lines, mem := s.mem } := rfl
  rw [hs, (h : _ = State.reset)]

/-- What a low RESET_N lets through: no request and no edge, so only time passes. -/
theorem exec_held (h : s.lines.resetLow = true) :
    (∀ dt early, exec (.blockClockEdge dt true early) s = .next (s.advance dt)
      ∧ exec (.blockClockEdge dt false early) s = .next { s.advance dt with freeCount := s.freeCount + 1 })
    ∧ (∀ dt, exec (.showSync dt true) s = .next (s.advance dt)
      ∧ exec (.showSync dt false) s = .next { s.advance dt with freeCount := s.freeCount + 1 }
      ∧ exec (.takeoverFallingEdge dt) s = .next (s.advance dt)
      ∧ exec (.takeoverRisingEdge dt) s = .next (s.advance dt))
    ∧ (∀ v en, exec (.goWrite v en) s = .next s ∧ exec (.commandKick v en) s = .next s
      ∧ exec (.noticeReturn v en) s = .next s ∧ (∀ g k, exec (.readerRelease g k v en) s = .next s)
      ∧ (∀ x, exec (.localPortWrite x v en) s = .next s)
      ∧ ∀ r a, exec (.payloadWrite r a v en) s = .next s ∧ exec (.headerWrite r a v en) s = .next s
        ∧ exec (.commit r a v en) s = .next s ∧ exec (.rigPortUnusedWrite r a v en) s = .next s)
    ∧ ∀ p n ev, exec (.liveWindowRead p n ev) s = .next s := by
  have hs := State.unlessHeld_low h
  have hadvance : ∀ dt t, (s.advance dt).unlessHeld t = s.advance dt := fun dt => State.unlessHeld_low (by exact h)
  have hheld : ∀ t, (.next (s.unlessHeld t) : Host.Outcome State Fault Refusal) = .next s := fun t => by rw [hs]
  refine ⟨fun dt early => ⟨?_, ?_⟩, fun dt => ⟨?_, ?_, ?_, ?_⟩, fun v en => ⟨hheld _, hheld _, hheld _, fun g k => ?_,
    fun x => hheld _, fun r a => ⟨hheld _, hheld _, hheld _, hheld _⟩⟩, fun p n ev => hheld _⟩
  · simp only [exec, execBlockClockEdge, State.pulse, if_true, hadvance, ite_self]
  · simp only [exec, execBlockClockEdge, State.pulse, Bool.false_eq_true, if_false, State.drawn,
      State.unlessHeld_low (s := { s.advance dt with freeCount := _ }) h, State.advance_freeCount, ite_self]
  · simp only [exec, execShowSync, State.pulse, if_true, hadvance, ite_self]
  · simp only [exec, execShowSync, State.pulse, Bool.false_eq_true, if_false, State.drawn,
      State.unlessHeld_low (s := { s.advance dt with freeCount := _ }) h, State.advance_freeCount, ite_self]
  · simp only [exec, execTakeoverFallingEdge, hadvance]
  · simp only [exec, execTakeoverRisingEdge, hadvance]
  · show execReaderRelease g k v en s = _
    unfold execReaderRelease
    split
    · rfl
    · exact hheld _

theorem State.lossDue_initial (h : s.clock = .initial) : s.lossDue = false := by
  simp [State.lossDue, h, Clock.initial]

theorem State.beatDue_initial (h : s.clock = .initial) : s.beatDue = none := by
  simp [State.beatDue, h, Clock.initial]

theorem State.windowCloseDueNow_initial (h : s.clock = .initial) : s.windowCloseDueNow = false := by
  simp [State.windowCloseDueNow, h, Clock.initial]

/-- Figures at their values of reset, with RESET_N low. -/
def State.heldFresh (pending : List Instr) (freeCount : Nat) (timer : LocalTimer) (lines : Lines) (mem : Memory) : State :=
  { State.reset with
    pending := pending, freeCount := freeCount, timer := timer, lines := { lines with resetLow := true }, mem := mem }

/-- A row that finds nothing to do in a part held in reset. -/
theorem exec_heldFresh (c : Instr) (hreset : ∀ b a l h, c ≠ .reset b a l h) (pending : List Instr) (freeCount : Nat)
    (timer : LocalTimer) (lines : Lines) (mem : Memory) :
    ∃ t, exec c (State.heldFresh pending freeCount timer lines mem) = .next t
      ∧ State.OnlyTime (State.heldFresh pending freeCount timer lines mem) t := by
  cases c with
  | reset b a l h => exact absurd rfl (hreset b a l h)
  | blockClockEdge dt wide early =>
    obtain ⟨hedge, -, -, -⟩ := exec_held (s := State.heldFresh pending freeCount timer lines mem) rfl
    cases wide
    · exact ⟨_, (hedge dt early).2, rfl⟩
    · exact ⟨_, (hedge dt early).1, rfl⟩
  | showSync dt wide =>
    obtain ⟨-, hsync, -, -⟩ := exec_held (s := State.heldFresh pending freeCount timer lines mem) rfl
    cases wide
    · exact ⟨_, (hsync dt).2.1, rfl⟩
    · exact ⟨_, (hsync dt).1, rfl⟩
  | refclkStop =>
    refine ⟨_, rfl, ?_⟩
    split <;> rfl
  | clockLoss dt early =>
    have hnot : ¬((State.heldFresh pending freeCount timer lines mem).advance dt).lossDue = true := by
      rw [State.lossDue_initial rfl]
      exact nofun
    exact ⟨_, congrArg Host.Outcome.next (if_neg hnot), rfl⟩
  | synthesizedBeat dt early =>
    have hnone : ((State.heldFresh pending freeCount timer lines mem).advance dt).closeOverdueWindow.beatDue = none :=
      State.beatDue_initial rfl
    refine ⟨(State.heldFresh pending freeCount timer lines mem).advance dt, ?_, rfl⟩
    simp only [exec, execSynthesizedBeat, hnone]
    rfl
  | acceptanceWindowClose dt =>
    have hnot : ¬((State.heldFresh pending freeCount timer lines mem).advance dt).windowCloseDueNow = true := by
      rw [State.windowCloseDueNow_initial rfl]
      exact nofun
    exact ⟨_, congrArg Host.Outcome.next (if_neg hnot), rfl⟩
  | coalesceTimeout dt =>
    exact ⟨_, congrArg Host.Outcome.next State.assertInterrupt_false, rfl⟩
  | slotHeaderWritten g header =>
    cases header <;> exact ⟨_, rfl, rfl⟩
  | _ => exact ⟨_, rfl, rfl⟩

end

/-- Settles O7: the two levels of the line, the rows a low line turns away, and the rows that find a fresh part at rest. -/
theorem resetCommand : Obligations.ResetCommand := by
  refine ⟨fun b a low s => ⟨s.afterReset b a low, rfl, rfl, rfl, rfl, ?size, fun x htake hx => ?kept, fun hhigh => ⟨?falls, ?pulse⟩,
    fun hlow => ⟨?stays, ?ignored⟩⟩, fun s hlow => exec_held hlow, fun c s hlow hfresh hc => ?rows⟩
  case size => cases b <;> cases a <;> rfl
  case kept => exact State.readByte_memAfterReset htake hx
  case falls => exact congrArg Host.Outcome.next (State.unlessHeld_high hhigh _)
  case pulse =>
    refine ⟨if s.pulseTaken false then s.afterReset b a low else s.drawn,
      congrArg Host.Outcome.next (State.unlessHeld_high hhigh _), ?_⟩
    split
    · exact .inr rfl
    · exact .inl rfl
  case stays => exact congrArg Host.Outcome.next (State.unlessHeld_low hlow _)
  case ignored => exact congrArg Host.Outcome.next (State.unlessHeld_low hlow _)
  case rows =>
    have hs : s = State.heldFresh s.pending s.freeCount s.timer s.lines s.mem := by
      have hline : { s.lines with resetLow := true } = s.lines := by rw [← hlow]
      rw [State.heldFresh, hline]
      exact hfresh.eq
    rw [hs]
    exact exec_heldFresh c hc _ _ _ _ _

end Sys2Proof.Machine
end

section
/-! # End Show (R15, R16, R34, R67, R105)

What is done at once leaves the ports empty and the queued jobs gone; with no job left, steps 3 and 4 clear lanes, lists and
slots, and with no load left step 5 writes the contexts back. -/

namespace Sys2Proof.Machine

/-! ### A table with every entry changed -/

theorem Table.get_map {α : Type} [DecidableEq α] {d : α} {f : α → α} (hf : f d = d) (k : Nat) :
    ∀ t : Table α, Table.get d (Table.map d f t) k = f (Table.get d t k)
  | [] => hf.symm
  | (k', v) :: t => by
    rw [Table.map, Table.get_set, Table.get_map hf k t, Table.get]
    split <;> rfl

theorem Table.mem_iff_get {α : Type} [DecidableEq α] {d : α} {t : Table α} (h : Table.wf d t) (k : Nat) (v : α) :
    (k, v) ∈ t ↔ v ≠ d ∧ Table.get d t k = v := by
  refine ⟨fun hm => ⟨h.2 _ hm, Table.get_of_mem d h hm⟩, fun ⟨hne, hg⟩ => ?_⟩
  exact hg ▸ Table.mem_of_get d t k (hg ▸ hne)

/-! ### The valid contexts -/

section
variable {x y : Cache}

theorem Cache.mem_validContexts (h : Table.wf Context.initial x.contexts) (k : Nat) :
    k ∈ x.validContexts ↔ (x.context k).residence = .valid := by
  simp only [Cache.validContexts, List.mem_map, List.mem_filter, beq_iff_eq, Prod.exists, exists_and_right, exists_eq_right]
  constructor
  · rintro ⟨v, hm, hv⟩
    rw [Cache.context, ((Table.mem_iff_get h k v).1 hm).2]
    exact hv
  · intro hv
    refine ⟨x.context k, (Table.mem_iff_get h k _).2 ⟨fun hd => ?_, rfl⟩, hv⟩
    rw [hd] at hv
    cases hv

theorem Cache.validContexts_ascend (h : Table.wf Context.initial x.contexts) : x.validContexts.Pairwise (· < ·) := by
  rw [Cache.validContexts, List.pairwise_map]
  exact h.1.filter _

/-- The valid contexts are those that read so. -/
theorem Cache.validContexts_congr (hx : Table.wf Context.initial x.contexts) (hy : Table.wf Context.initial y.contexts)
    (h : ∀ k, (x.context k).residence = .valid ↔ (y.context k).residence = .valid) : x.validContexts = y.validContexts :=
  eq_of_ascend (Cache.validContexts_ascend hx) (Cache.validContexts_ascend hy) fun k => by
    rw [Cache.mem_validContexts hx, Cache.mem_validContexts hy, h]

end

/-! ### What is done at once (R15, R16, R115) -/

section
variable (s : State)

/-- A drained port holds nothing; its reads are answered. -/
theorem State.drainPort_eq (r : Rig) : ∀ (qs : List RigRequest) (s : State), s.drainPort r qs = { s with
    cache := { s.cache with ports := s.cache.ports.set r [] }, rigAnswers := (s.drainPort r qs).rigAnswers }
  | [], _ => rfl
  | .read a n :: qs, s => State.drainPort_eq r qs (s.answerRig r a n)
  | .write _ :: qs, s => State.drainPort_eq r qs s

theorem State.dropHeldWrites_eq : s.dropHeldWrites = { s with
    cache := { s.cache with
      ports := ⟨[], []⟩, loads := s.cache.loads.map (fun q => { q with waiting := ⟨false, false⟩ }), exhaustReported := false }
    rigAnswers := s.dropHeldWrites.rigAnswers } := by
  unfold State.dropHeldWrites
  rw [State.drainPort_eq .rig2, State.drainPort_eq .rig1]
  rfl

/-- The state as step 3 finds it: steps 1 and 2 begun. -/
def State.torn (s : State) : State :=
  (({ s with part := { s.part with state := .standby, startGuard := false } }.dropHeldWrites).flushQueued).setTeardown
    (some .flushing)

theorem State.torn_eq : s.torn = { s with
    part := { s.part with state := .standby, startGuard := false }
    cache := { s.cache with
      ports := ⟨[], []⟩, loads := s.cache.loads.map (fun q => { q with waiting := ⟨false, false⟩ }), exhaustReported := false }
    blend := s.blend.filter (fun j => j.phase != .queued)
    sup := { s.sup with teardown := some .flushing }
    pool := s.torn.pool
    rigAnswers := s.torn.rigAnswers } := by
  unfold State.torn
  rw [State.dropHeldWrites_eq]
  rfl

end

/-! ### Steps 3 to 5 (R15, R34, R67, R105) -/

section
variable (s : State)

theorem Lane.closed_initial : Lane.closed .initial = .initial := rfl
theorem Slot.emptied_initial : Slot.emptied .initial = .initial := rfl
theorem Ring.emptied_initial : Ring.emptied .initial = .initial := rfl
theorem Context.dropped_initial : Context.dropped .initial = .initial := rfl

theorem State.mem_dropShow : s.dropShow.mem
    = writeEmptyRecords (takeWrites s.mem (s.resolver.writes.map (fun w => (w.addr, w.words)))) s.liveBase := by
  rw [State.dropShow]

/-- Steps 3 and 4 leave the rest of the part as it is. -/
theorem State.dropShow_eq : s.dropShow = { s with
    pool := s.dropShow.pool
    cache := { s.cache with contexts := Table.map Context.initial Context.dropped s.cache.contexts }
    resolver := { s.resolver with rings := Table.map Ring.initial Ring.emptied s.resolver.rings, writes := [] }
    mem := s.dropShow.mem } := by
  unfold State.dropShow
  generalize writeEmptyRecords _ s.liveBase = m
  rfl

theorem State.sup_dropShow : s.dropShow.sup = s.sup := by rw [State.dropShow_eq]

theorem State.context_dropShow (k : Nat) : s.dropShow.context k = (s.context k).dropped :=
  Table.get_map Context.dropped_initial k s.cache.contexts

theorem State.ring_dropShow (g : Nat) : s.dropShow.ring g = (s.ring g).emptied :=
  Table.get_map Ring.emptied_initial g s.resolver.rings

theorem State.slot_dropShow (g k : Nat) : s.dropShow.slot g k = (s.slot g k).emptied := by
  rw [State.slot, State.slot, State.ring_dropShow]
  exact Table.get_map Slot.emptied_initial k (s.ring g).slots

/-- The lanes of a dropped context are closed. -/
theorem Context.lane_dropped (x : Context) (r : Rig) (l : Nat) : x.dropped.lane r l = (x.lane r l).closed := by
  cases r
  · exact Table.get_map Lane.closed_initial l x.lanes.rig1
  · exact Table.get_map Lane.closed_initial l x.lanes.rig2

theorem Context.dirEntry_dropped (x : Context) : x.dropped.dirEntry = x.dirEntry := rfl

/-- Steps 3 and 4 keep every context's residence and channel, so the same write-backs are sent. -/
theorem State.writebacks_dropShow (h : Table.wf Context.initial s.cache.contexts) : s.dropShow.writebacks
    = s.cache.validContexts.map (fun k => (s.dirEntryAddr (s.context k).channel, (s.context k).dirEntry.words)) := by
  have hvalid : s.dropShow.cache.validContexts = s.cache.validContexts :=
    Cache.validContexts_congr (Table.wf_map _ _ _) h fun k => by
      rw [show s.dropShow.cache.context k = (s.cache.context k).dropped from s.context_dropShow k]
      rfl
  have haddr : ∀ c, s.dropShow.dirEntryAddr c = s.dirEntryAddr c := by
    intro c
    unfold State.dirEntryAddr State.dirBase
    rw [State.sup_dropShow]
  unfold State.writebacks
  rw [hvalid]
  refine List.map_congr_left fun k _ => ?_
  rw [State.context_dropShow, haddr, Context.dirEntry_dropped]
  exact congrArg (fun c => (s.dirEntryAddr c, _)) (show (s.context k).dropped.channel = _ from rfl)

theorem State.advanceTeardown_flushing (h : s.sup.teardown = some .flushing) : s.advanceTeardown
    = if s.blend = [] then (s.dropShow.setTeardown (some .waitingLoads)).invalidateContexts else s := by
  unfold State.advanceTeardown
  rw [h]
  simp only [List.isEmpty_iff]

theorem State.invalidateContexts_waits (h : s.cache.loads ≠ []) : s.invalidateContexts = s := by
  rw [State.invalidateContexts, if_neg (by rwa [List.isEmpty_iff])]

theorem State.invalidateContexts_sends (h : s.cache.loads = []) : s.invalidateContexts = { s with
    cache := { s.cache with contexts := [], channelMap := [], lru := [] }
    sup := { s.sup with teardown := some (.writingBack s.writebacks) } } := by
  rw [State.invalidateContexts, if_pos (by rw [h]; rfl)]
  rfl

/-- The words of a write-back (R52). -/
theorem Context.words_dirEntry (x : Context) : x.dirEntry.words
    = [packBytes (1 + (if x.kind = .data then 4 else 0)) (x.group % 8) 0 0, packHalves x.accepted.rig1 x.accepted.rig2,
       packHalves x.damaged.rig1 x.damaged.rig2, 0, 0, 0, 0, 0] := by
  cases hk : x.kind <;> simp [DirEntry.words, DirEntry.word0, Context.dirEntry, hk, flag, ChannelKind.code]

end

/-- Settles O35: steps 1 and 2 at once, then by whether a job and by whether a load is left. -/
theorem endShow : Obligations.EndShow := by
  intro s a empty hh hlocked hs ha hempty
  have hexec : exec .endShow s = .next s.torn.advanceTeardown := by
    have hshowing : ¬(s.part.state ≠ .armed ∧ s.part.state ≠ .running) := fun h => hs.elim h.1 h.2
    rw [exec_endShow hh, State.endShow, hlocked, if_neg nofun, if_neg hshowing]
    rfl
  have htorn := s.torn_eq
  generalize s.torn = q at hexec htorn
  have hflush : q.sup.teardown = some .flushing := by rw [htorn]
  have hblend : q.blend = s.blend.filter (fun j => j.phase != .queued) := by rw [htorn]
  rw [State.advanceTeardown_flushing _ hflush] at hexec
  by_cases hjobs : q.blend = []
  · rw [if_pos hjobs] at hexec
    have hlive : q.liveBase = a.liveDirectoryBase := by rw [State.liveBase, show q.sup.anchor = some a by rw [htorn]; exact ha]
    have hmem : q.dropShow.mem = writeEmptyRecords (takeWrites s.mem (s.resolver.writes.map (fun w => (w.addr, w.words))))
        a.liveDirectoryBase := by
      rw [State.mem_dropShow, hlive, show q.mem = s.mem by rw [htorn], show q.resolver = s.resolver by rw [htorn]]
    have hrecords : ∀ i j, i < 128 → j < 1024 →
        readWord q.dropShow.mem (a.liveDirectoryBase + 4096 * i + 4 * j) = empty j := fun i j hi hj => by
      rw [hmem, writeEmptyRecords, readWord_writeEmptyRange _ _ _ _ hi hj (Nat.zero_le _) (by omega), getD_emptyHeader, hempty]
    have hkept : ∀ x, x < a.liveDirectoryBase ∨ a.liveDirectoryBase + 524288 ≤ x → readByte q.dropShow.mem x
        = readByte (takeWrites s.mem (s.resolver.writes.map (fun w => (w.addr, w.words)))) x := fun x hx => by
      rw [hmem, writeEmptyRecords, readByte_writeEmptyRange _ _ _ _ (by omega)]
    have hcontext : ∀ k, q.dropShow.context k = (s.context k).dropped := fun k => by
      rw [State.context_dropShow, show q.context k = s.context k by rw [htorn]; rfl]
    have hslot : ∀ g k, q.dropShow.slot g k = (q.slot g k).emptied := q.slot_dropShow
    have hring : ∀ g, (q.dropShow.ring g).playBase = (s.ring g).playBase := fun g => by
      rw [State.ring_dropShow, show q.ring g = s.ring g by rw [htorn]; rfl]
      rfl
    have hsent : Table.wf Context.initial s.cache.contexts → q.dropShow.writebacks = s.cache.validContexts.map (fun k =>
        (a.channelDirectoryBase + 32 * (s.context k).channel,
          [packBytes (1 + (if (s.context k).kind = .data then 4 else 0)) ((s.context k).group % 8) 0 0,
           packHalves (s.context k).accepted.rig1 (s.context k).accepted.rig2,
           packHalves (s.context k).damaged.rig1 (s.context k).damaged.rig2, 0, 0, 0, 0, 0])) := fun hwf => by
      have hanchor : q.sup.anchor = some a := by rw [htorn]; exact ha
      rw [State.writebacks_dropShow q (by rw [htorn]; exact hwf), show q.cache.validContexts = s.cache.validContexts by rw [htorn]; rfl]
      refine List.map_congr_left fun k _ => ?_
      rw [State.dirEntryAddr_of_some hanchor, Context.words_dirEntry, show q.context k = s.context k by rw [htorn]; rfl]
    have hu := q.dropShow_eq
    generalize q.dropShow = u at hexec hrecords hkept hcontext hslot hring hsent hu
    rw [htorn] at hu
    have hloads : u.cache.loads = [] ↔ s.cache.loads = [] := by
      rw [hu]
      exact List.map_eq_nil_iff
    have hempties : ∀ g k, (u.slot g k).state = .empty ∧ (u.slot g k).map = [] := fun g k => by
      rw [hslot]
      exact ⟨rfl, rfl⟩
    by_cases hnone : s.cache.loads = []
    · rw [State.invalidateContexts_sends _ (by exact hloads.2 hnone)] at hexec
      refine ⟨_, hexec, by rw [hu]; rfl, by rw [hu]; rfl, by rw [hu]; rfl, by rw [hu]; rfl, by rw [hu]; rfl, by rw [hu]; rfl,
        by rw [hu]; rfl, by rw [hu]; rfl, by rw [hu]; rfl, by rw [hu]; rfl, hring, fun hne => ?_, fun _ => ⟨hempties, by rw [hu]; rfl,
        fun k r l => ?_, hrecords, hkept, fun hne => absurd hnone hne, fun _ => ⟨rfl, rfl, rfl, fun hwf => ?_⟩⟩⟩
      · exact absurd (by rw [hu]; exact hblend.symm.trans hjobs) hne
      · cases r <;> rfl
      · exact congrArg (fun ws => some (Teardown.writingBack ws)) (hsent hwf)
    · rw [State.invalidateContexts_waits _ (by exact fun h => hnone (hloads.1 h))] at hexec
      refine ⟨_, hexec, by rw [hu]; rfl, by rw [hu]; rfl, by rw [hu]; rfl, by rw [hu]; rfl, by rw [hu]; rfl, by rw [hu]; rfl,
        by rw [hu]; rfl, by rw [hu]; rfl, by rw [hu]; rfl, by rw [hu]; rfl, hring, fun hne => ?_, fun _ => ⟨hempties, by rw [hu]; rfl,
        fun k r l => ?_, hrecords, hkept, fun _ => ⟨rfl, by rw [hu]; rfl, fun k => ?_⟩, fun h => absurd h hnone⟩⟩
      · exact absurd (by rw [hu]; exact hblend.symm.trans hjobs) hne
      · rw [show ((u.setTeardown (some .waitingLoads)).lane k r l) = (u.context k).lane r l from rfl, hcontext,
          Context.lane_dropped]
        rfl
      · rw [show ((u.setTeardown (some .waitingLoads)).context k) = u.context k from rfl, hcontext]
        exact ⟨rfl, rfl, rfl⟩
  · rw [if_neg hjobs] at hexec
    exact ⟨q, hexec, by rw [htorn], by rw [htorn], by rw [htorn], by rw [htorn], by rw [htorn], by rw [htorn], by rw [htorn],
      hblend, by rw [htorn], by rw [htorn], fun g => by rw [htorn]; rfl, fun _ => ⟨hflush, by rw [htorn], by rw [htorn],
      by rw [htorn]⟩, fun h => absurd h hjobs⟩

end Sys2Proof.Machine
end

section
/-! # The rig ports (R35, R36, R55, R57, R157)

A write is an arrival at the port, by its address alone; a port that holds a write keeps what comes behind it; a port that
holds nothing takes a read at once and holds a lane write whose channel has no context. -/

namespace Sys2Proof.Machine

/-! ### The Source Window (R35) -/

theorem rigPlace_window {a : Word} {c l o : Nat} (hc : c < 768) (hl : l < 4) (ho : o < 1024)
    (ha : a.toNat = 4096 * c + 1024 * l + o) : rigPlace a = lanePlace c l o := by
  rw [rigPlace, if_pos (by omega), show a.toNat / 4096 = c by omega, show a.toNat % 4096 / 1024 = l by omega,
    show a.toNat % 1024 = o by omega]

/-- A lane's place names its channel and lane. -/
theorem RigPlace.lane_of {p : RigPlace} {c l i : Nat} (h : p = .payload c l i ∨ p = .header c l i ∨ p = .commit c l) :
    p.lane = some (c, l) := by
  rcases h with rfl | rfl | rfl <;> rfl

theorem RigPlace.lane_dropped {p : RigPlace} (h : p = .unused ∨ p = .outside) : p.lane = none := by
  rcases h with rfl | rfl <;> rfl

/-- A read's answer has Error when its last word lies above the window. -/
theorem rigPortRead_eq {x n : Nat} {er : Bool} (h : er = true ↔ 0 < n ∧ 3145728 ≤ x + 4 * (n - 1)) :
    rigPortRead x n = { data := List.replicate n 0, error := er } := by
  have herror : (List.range n).any (fun i => decide (3145728 ≤ x + 4 * i)) = er := by
    rw [Bool.eq_iff_iff, h, List.any_eq_true]
    simp only [List.mem_range, decide_eq_true_eq]
    exact ⟨fun ⟨i, hi, hx⟩ => ⟨by omega, by omega⟩, fun ⟨hn, hx⟩ => ⟨n - 1, by omega, hx⟩⟩
  rw [rigPortRead, herror]

/-! ### A load that opens (R55, R56) -/

/-- The read of a load is sent unless an eviction of its channel is in flight; with nothing in flight it is taken at once. -/
theorem Cache.openRequest_eq (x : Cache) (c : Nat) (r : Rig) (l : Nat) : x.openRequest c r l = { x with
    loads := x.loads ++ [x.newRequest c r l]
    sends := if x.evicting c = true ∨ x.sends = [] then x.sends else x.sends ++ [.read c] } := by
  unfold Cache.openRequest Cache.sendRead
  dsimp only
  by_cases hev : x.evicting c = true
  · rw [if_pos hev, if_pos (Or.inl hev)]
  · rw [if_neg hev]
    by_cases hs : x.sends = []
    · simp only [hs, List.isEmpty_nil, or_true, if_true]
    · simp only [hs, hev, List.isEmpty_iff, or_false, if_false, Bool.false_eq_true]

/-! ### Arrivals at a port (R36, R157) -/

section
variable {s : State} {r : Rig}

theorem State.capturing_iff : s.capturing = true ↔ s.part.state = .armed ∨ s.part.state = .running := by
  simp [State.capturing]

theorem State.rigWrite_dropped (h : s.part.state = .quiet ∨ s.part.state = .standby) (w : RigWrite) : s.rigWrite r w = s := by
  have hnot : ¬s.capturing = true := by
    rw [State.capturing_iff]
    rcases h with h | h <;> rw [h] <;> decide
  rw [State.rigWrite, if_neg hnot]

theorem State.rigWrite_arrives (h : s.part.state = .armed ∨ s.part.state = .running) (w : RigWrite) :
    s.rigWrite r w = s.rigRequest r (.write w) := if_pos (State.capturing_iff.2 h)

/-- The four write rows are one arrival. -/
theorem exec_rigWrites (hrst : s.lines.resetLow = false) (r : Rig) (a v : Word) (en : Enables) {t : State}
    (h : s.rigWrite r ⟨a, v, en⟩ = t) :
    exec (.payloadWrite r a v en) s = .next t ∧ exec (.headerWrite r a v en) s = .next t
      ∧ exec (.commit r a v en) s = .next t ∧ exec (.rigPortUnusedWrite r a v en) s = .next t := by
  have hrow : (.next (s.unlessHeld (s.rigWrite r ⟨a, v, en⟩)) : Host.Outcome State Fault Refusal) = .next t := by
    rw [State.unlessHeld_high hrst, h]
  exact ⟨hrow, hrow, hrow, hrow⟩

/-- Behind a held write a request waits. -/
theorem State.rigRequest_waits (h : s.cache.ports.get r ≠ []) (q : RigRequest) :
    s.rigRequest r q = s.setPort r (s.cache.ports.get r ++ [q]) := by
  rw [State.rigRequest, if_neg (by rwa [List.isEmpty_iff])]

theorem State.rigRequest_serves (h : s.cache.ports.get r = []) (q : RigRequest) : s.rigRequest r q = s.serve r [q] := by
  rw [State.rigRequest, if_pos (by rw [h]; rfl)]

theorem State.rigRequest_read (h : s.cache.ports.get r = []) (x n : Nat) :
    s.rigRequest r (.read x n) = s.answerRig r x n := by
  rw [State.rigRequest_serves h, State.serve, State.serve]
  exact State.setPort_same _ r [] h

/-- A word dropped at the port. -/
theorem State.rigRequest_dropped (h : s.cache.ports.get r = []) {w : RigWrite} (hw : (rigPlace w.addr).lane = none) :
    s.rigRequest r (.write w) = s := by
  rw [State.rigRequest_serves h, State.serve, hw]
  exact State.setPort_same s r [] h

/-- A lane write whose channel has no context is held and asks for a load. -/
theorem State.rigRequest_holds (h : s.cache.ports.get r = []) {w : RigWrite} {c l : Nat}
    (hw : (rigPlace w.addr).lane = some (c, l)) (hc : s.cache.mapEntry c = none) :
    s.rigRequest r (.write w) = s.holding r [.write w] c l := by
  rw [State.rigRequest_serves h, State.serve, hw]
  simp only [hc]
  rfl

/-- Reads that arrive one after another are answered in their order. -/
theorem State.arrive_reads (answer : Nat × Nat → ReadAnswer) (hanswer : ∀ q, rigPortRead q.1 q.2 = answer q) :
    ∀ (reads : List (Nat × Nat)) (s : State), s.cache.ports.get r = [] →
      s.arrive r (reads.map (fun q => .read q.1 q.2))
        = { s with rigAnswers := s.rigAnswers.set r (s.rigAnswers.get r ++ reads.map answer) }
  | [], s, _ => by
    rw [List.map_nil, List.map_nil, List.append_nil, PerRig.set_same _ _ _ rfl]
    rfl
  | q :: reads, s, h => by
    have hrest := State.arrive_reads answer hanswer reads (s.answerRig r q.1 q.2) h
    rw [List.map_cons, List.map_cons, State.arrive, List.foldl_cons, State.rigRequest_read h]
    refine hrest.trans ?_
    simp only [State.answerRig, PerRig.get_set_eq, PerRig.set_set, hanswer, List.append_assoc, List.singleton_append]

theorem exec_rigRead (hrst : s.lines.resetLow = false) (r : Rig) (x n : Nat) :
    exec (.liveWindowRead (.rigPort r x) n []) s = .next (s.rigRequest r (.read x n)) :=
  congrArg Host.Outcome.next (State.unlessHeld_high hrst _)

end

/-- Settles O42, by the place of a word and by what the port holds. -/
theorem rigPorts : Obligations.RigPorts := by
  refine ⟨fun a c l o hc hl ho ha => rigPlace_window hc hl ho ha, fun a ha => if_neg (Nat.not_lt.2 ha),
    fun s r a v en hrst => ⟨fun hs => exec_rigWrites hrst r a v en (State.rigWrite_dropped hs _), fun hs => ?writes⟩,
    fun s r x n hrst => ⟨exec_rigRead hrst r x n, fun hp er her => ?answered, fun hp => ?waits⟩,
    fun s r reads answer hp hanswer => ?reads⟩
  case writes =>
    have harrives := State.rigWrite_arrives (r := r) hs ⟨a, v, en⟩
    refine ⟨fun t ht => exec_rigWrites hrst r a v en (harrives.trans ht.symm), fun hp hplace => ?_, fun hp => ?_,
      fun c l i hp hplace hc => ⟨fun hload => ?_, fun hload => ?_⟩⟩
    · exact (exec_rigWrites hrst r a v en (harrives.trans (State.rigRequest_dropped hp (RigPlace.lane_dropped hplace)))).2.2.2
    · exact (exec_rigWrites hrst r a v en (harrives.trans (State.rigRequest_waits hp _))).1
    · refine (exec_rigWrites hrst r a v en (harrives.trans (State.rigRequest_holds hp (RigPlace.lane_of hplace) hc))).1.trans ?_
      have hopen : ¬(s.setPort r [.write ⟨a, v, en⟩]).cache.loading c = true := by
        rw [show (s.setPort r [.write ⟨a, v, en⟩]).cache.loading c = s.cache.loading c from rfl, hload]
        exact nofun
      rw [State.holding, Cache.askLoad, if_neg hopen, Cache.openRequest_eq]
      rfl
    · refine (exec_rigWrites hrst r a v en (harrives.trans (State.rigRequest_holds hp (RigPlace.lane_of hplace) hc))).1.trans ?_
      rw [State.holding, Cache.askLoad, if_pos (show (s.setPort r _).cache.loading c = true from hload)]
      rfl
  case answered =>
    rw [exec_rigRead hrst, State.rigRequest_read hp, State.answerRig, rigPortRead_eq her]
  case waits => rw [exec_rigRead hrst, State.rigRequest_waits hp, State.setPort]
  case reads =>
    exact State.arrive_reads answer (fun q => by
      obtain ⟨er, her, hq⟩ := hanswer q
      rw [hq, rigPortRead_eq her]) reads s hp

end Sys2Proof.Machine
end

section
/-! # Lane writes (R25, R37 to R41)

A lane write whose channel has a context is handled there. What it changes of the contexts is one lane of that context; an
IDLE lane is opened first with the answer of a Lane Allocate. -/

namespace Sys2Proof.Machine

/-! ### The write is handled (R36) -/

section
variable {s : State} {r : Rig}

theorem State.rigRequest_handled (h : s.cache.ports.get r = []) {w : RigWrite} {c l k : Nat}
    (hw : (rigPlace w.addr).lane = some (c, l)) (hc : s.cache.mapEntry c = some k) :
    s.rigRequest r (.write w) = s.handleLaneWrite k r w := by
  rw [State.rigRequest_serves h, State.serve, hw]
  simp only [hc]
  rw [State.serve]
  exact State.setPort_same _ r [] (by rw [State.ports_handleLaneWrite]; exact h)

/-- Each write row hands the write to its context. -/
theorem exec_laneWrites (hrst : s.lines.resetLow = false) (hs : s.part.state = .armed ∨ s.part.state = .running)
    (hp : s.cache.ports.get r = []) {a v : Word} {en : Enables} {c l k : Nat} (hw : (rigPlace a).lane = some (c, l))
    (hc : s.cache.mapEntry c = some k) {t : State} (ht : s.handleLaneWrite k r ⟨a, v, en⟩ = t) :
    exec (.payloadWrite r a v en) s = .next t ∧ exec (.headerWrite r a v en) s = .next t
      ∧ exec (.commit r a v en) s = .next t ∧ exec (.rigPortUnusedWrite r a v en) s = .next t :=
  exec_rigWrites hrst r a v en ((State.rigWrite_arrives hs _).trans ((State.rigRequest_handled hp hw hc).trans ht))

theorem State.handleLaneWrite_payload {k c l i : Nat} {w : RigWrite} (h : rigPlace w.addr = .payload c l i) :
    s.handleLaneWrite k r w = (s.openIfIdle k r l).fillPayload k r l i w.value w.enables := by
  rw [State.handleLaneWrite, h]

theorem State.handleLaneWrite_header {k c l i : Nat} {w : RigWrite} (h : rigPlace w.addr = .header c l i) :
    s.handleLaneWrite k r w = (s.openIfIdle k r l).fillHeader k r l i w.value w.enables := by
  rw [State.handleLaneWrite, h]

theorem State.handleLaneWrite_commit {k c l : Nat} {w : RigWrite} (h : rigPlace w.addr = .commit c l) :
    s.handleLaneWrite k r w = s.commitLane k r l w.value w.enables := by
  rw [State.handleLaneWrite, h]

end

/-! ### One lane changes -/

theorem lane_apart {j k i l : Nat} {q r : Rig} (h : j ≠ k ∨ q ≠ r ∨ i ≠ l) : ¬(j = k ∧ q = r ∧ i = l) :=
  fun ⟨hj, hq, hi⟩ => h.elim (fun h => h hj) fun h => h.elim (fun h => h hq) fun h => h hi

/-- Of the contexts only lane `l` of rig port `r` in context `k` differs. -/
structure State.LaneMoved (k : Nat) (r : Rig) (l : Nat) (s t : State) : Prop where
  context : t.context k = { s.context k with lanes := (t.context k).lanes }
  contexts : ∀ k', k' ≠ k → t.context k' = s.context k'
  lanes : ∀ k' r' l', k' ≠ k ∨ r' ≠ r ∨ l' ≠ l → t.lane k' r' l' = s.lane k' r' l'

section
variable {k : Nat} {r : Rig} {l : Nat} {s t u : State}

theorem State.LaneMoved.of_cache (h : t.cache.contexts = s.cache.contexts) : State.LaneMoved k r l s t := by
  have hc : ∀ j, t.context j = s.context j := fun j => by
    rw [State.context, State.context, Cache.context, Cache.context, h]
  exact ⟨by rw [hc], fun j _ => hc j, fun j _ _ _ => by rw [State.lane, State.lane, hc]⟩

theorem State.LaneMoved.trans (h : State.LaneMoved k r l s t) (h' : State.LaneMoved k r l t u) :
    State.LaneMoved k r l s u :=
  ⟨by rw [h'.context, h.context], fun j hj => (h'.contexts j hj).trans (h.contexts j hj),
    fun j q i hj => (h'.lanes j q i hj).trans (h.lanes j q i hj)⟩

theorem State.laneMoved_setLane (s : State) (k : Nat) (r : Rig) (l : Nat) (v : Lane) :
    State.LaneMoved k r l s (s.setLane k r l v) := by
  refine ⟨?_, fun j hj => ?_, fun j q i hj => ?_⟩
  · rw [State.setLane, State.context_modifyContext, if_pos rfl]
    rfl
  · rw [State.setLane, State.context_modifyContext, if_neg hj]
  · rw [State.lane_setLane, if_neg (lane_apart hj)]

theorem State.lane_setLane_same (s : State) (k : Nat) (r : Rig) (l : Nat) (v : Lane) :
    (s.setLane k r l v).lane k r l = v := by
  rw [State.lane_setLane, if_pos ⟨rfl, rfl, rfl⟩]

/-! ### Filling (R38 to R41) -/

theorem State.openIfIdle_open (h : (s.lane k r l).state ≠ .idle) : s.openIfIdle k r l = s := if_neg h

theorem State.openIfIdle_idle (h : (s.lane k r l).state = .idle) : s.openIfIdle k r l = s.openLane k r l := if_pos h

/-- A lane that is not FILLING takes a write without effect. -/
theorem State.fillPayload_closed (h : (s.lane k r l).state ≠ .filling) (i : Nat) (v : Word) (en : Enables) :
    s.fillPayload k r l i v en = s := if_neg h

theorem State.fillHeader_closed (h : (s.lane k r l).state ≠ .filling) (i : Nat) (v : Word) (en : Enables) :
    s.fillHeader k r l i v en = s := if_neg h

theorem Lane.expects_iff (ln : Lane) (i : Nat) (en : Enables) :
    ln.expects i en = true ↔ en = 15 ∧ i = ln.nextWord ∧ ln.nextWord < 128 := by
  simp [Lane.expects, wholeWord, and_assoc]

theorem State.fillPayload_expected {ln : Lane} (hln : s.lane k r l = ln) (h : ln.state = .filling) {i : Nat} {en : Enables}
    (he : ln.expects i en = true) (v : Word) :
    s.fillPayload k r l i v en = (s.storePayload ln v).setLane k r l (ln.taken v) := by
  subst hln
  rw [State.fillPayload]
  rw [if_pos h, if_pos he]

theorem State.fillPayload_spoils {ln : Lane} (hln : s.lane k r l = ln) (h : ln.state = .filling) {i : Nat} {en : Enables}
    (he : ¬ln.expects i en = true) (v : Word) : s.fillPayload k r l i v en = s.setLane k r l ln.spoiled := by
  subst hln
  rw [State.fillPayload]
  rw [if_pos h, if_neg he]

theorem State.fillHeader_whole {ln : Lane} (hln : s.lane k r l = ln) (h : ln.state = .filling) (i : Nat) (v : Word) :
    s.fillHeader k r l i v 15 = s.setLane k r l { ln with header := Table.set 0 ln.header i v } := by
  subst hln
  rw [State.fillHeader]
  rw [if_pos h, if_pos ((wholeWord_iff 15).2 rfl)]

theorem State.fillHeader_spoils {ln : Lane} (hln : s.lane k r l = ln) (h : ln.state = .filling) {en : Enables} (he : en ≠ 15)
    (i : Nat) (v : Word) : s.fillHeader k r l i v en = s.setLane k r l ln.spoiled := by
  subst hln
  rw [State.fillHeader]
  rw [if_pos h, if_neg (fun hw => he ((wholeWord_iff en).1 hw))]

/-- Header word `i` is written, the others stay. -/
theorem Lane.headerWord_set (ln : Lane) (i : Nat) (v : Word) (h : Nat) :
    Lane.headerWord { ln with header := Table.set 0 ln.header i v } h = if h = i then v else ln.headerWord h :=
  Table.get_set 0 ln.header i h v

end

/-- Settles O43, by the lane's state and by whether the write is the one it expects. -/
theorem openLaneWrites : Obligations.OpenLaneWrites := by
  intro s r a v en c l i k ln hrst hs hp hc hln
  have hrow := fun hw t => exec_laneWrites hrst hs hp (a := a) (v := v) (en := en) (c := c) (l := l) hw hc (t := t)
  have hopen : ln.state ≠ .idle → s.openIfIdle k r l = s := fun h => State.openIfIdle_open (by rwa [← hln])
  have hpayload : rigPlace a = .payload c l i → ln.state ≠ .idle →
      exec (.payloadWrite r a v en) s = .next (s.fillPayload k r l i v en) := fun ha hi =>
    (hrow (RigPlace.lane_of (.inl ha)) _ ((State.handleLaneWrite_payload ha).trans (by rw [hopen hi]))).1
  have hheader : rigPlace a = .header c l i → ln.state ≠ .idle →
      exec (.headerWrite r a v en) s = .next (s.fillHeader k r l i v en) := fun ha hi =>
    (hrow (RigPlace.lane_of (.inr (.inl ha))) _ ((State.handleLaneWrite_header ha).trans (by rw [hopen hi]))).2.1
  have hnot : ln.state = .filling → ln.state ≠ .idle := fun h => by rw [h]; exact nofun
  have hclosed : ln.state = .spoiled ∨ ln.state = .starved → ln.state ≠ .idle ∧ ln.state ≠ .filling := by
    rintro (h | h) <;> rw [h] <;> exact ⟨nofun, nofun⟩
  refine ⟨fun ha hst => ?_, fun ha hst => ?_, fun b ha hf hb hen hi h128 => ?_, fun ha hf hbad => ?_, fun ha hf => ?_⟩
  · rw [hpayload ha (hclosed hst).1, State.fillPayload_closed (by rw [← hln]; exact (hclosed hst).2)]
  · rw [hheader ha (hclosed hst).1, State.fillHeader_closed (by rw [← hln]; exact (hclosed hst).2)]
  · have hexpects : ln.expects i en = true := (ln.expects_iff i en).2 ⟨hen, hi, by omega⟩
    have hexec := hpayload ha (hnot hf)
    have haddr : s.pool.byteAddr (ln.bucket.getD 0) (4 * ln.nextWord) = s.pool.base + b * 512 + 4 * i := by
      rw [hb, ← hi]
      rfl
    rw [State.fillPayload_expected hln.symm hf hexpects, State.storePayload, haddr] at hexec
    have hread := readWord_writeWord s.mem (s.pool.base + b * 512 + 4 * i) v
    have hbyte := fun x hx => readByte_writeWord_of_outside s.mem (a := s.pool.base + b * 512 + 4 * i) (x := x) v hx
    generalize writeWord s.mem (s.pool.base + b * 512 + 4 * i) v = m at hexec hread hbyte
    have hmoved := (State.LaneMoved.of_cache (k := k) (r := r) (l := l) (s := s) (t := { s with mem := m }) rfl).trans
      (State.laneMoved_setLane _ k r l (ln.taken v))
    refine ⟨_, hexec, rfl, hmoved.context, ?_, hmoved.contexts, hmoved.lanes, hread, hbyte⟩
    rw [State.lane_setLane_same, Lane.taken, hi]
  · have hexpects : ¬ln.expects i en = true := by
      rw [ln.expects_iff]
      rintro ⟨h1, h2, h3⟩
      rcases hbad with h | h | h
      · exact h h1
      · exact h h2
      · omega
    have hexec := hpayload ha (hnot hf)
    rw [State.fillPayload_spoils hln.symm hf hexpects] at hexec
    have hmoved := State.laneMoved_setLane s k r l ln.spoiled
    exact ⟨_, hexec, rfl, hmoved.context, State.lane_setLane_same s k r l _, hmoved.contexts, hmoved.lanes⟩
  · have hexec := hheader ha (hnot hf)
    by_cases hen : en = 15
    · rw [hen, State.fillHeader_whole hln.symm hf] at hexec
      have hmoved := State.laneMoved_setLane s k r l { ln with header := Table.set 0 ln.header i v }
      have hlane := State.lane_setLane_same s k r l { ln with header := Table.set 0 ln.header i v }
      refine ⟨_, by rw [hen]; exact hexec, rfl, hmoved.context, fun h => absurd hen h, fun _ => ⟨?_, ?_, fun h hh => ?_⟩,
        hmoved.contexts, hmoved.lanes⟩
      · rw [hlane]
      · rw [hlane, Lane.headerWord_set, if_pos rfl]
      · rw [hlane, Lane.headerWord_set, if_neg hh]
    · rw [State.fillHeader_spoils hln.symm hf hen] at hexec
      have hmoved := State.laneMoved_setLane s k r l ln.spoiled
      exact ⟨_, hexec, rfl, hmoved.context, fun _ => State.lane_setLane_same s k r l _, fun h => absurd h hen,
        hmoved.contexts, hmoved.lanes⟩

end Sys2Proof.Machine
end

section
/-! # A lane that opens (R25 to R28, R37) -/

namespace Sys2Proof.Machine

/-! ### The Lane Allocate -/

section
variable {p : Pool} {r : Rig} {target : Bool} {ch : Charge} {b : Nat} {rest : List Nat}

/-- The bucket at the head of the free list is FILLING. -/
theorem Pool.laneAllocate_some (h : p.laneCharge r target = some ch) (hf : p.freeList = b :: rest) :
    p.laneAllocate r target = (some (b, ch),
      { p.setBucket b { state := .filling, pinCount := 0, charged := ch } with freeList := rest }) := by
  simp only [Pool.laneAllocate, h, Pool.allocate, hf]

theorem Pool.laneAllocate_none (h : p.laneCharge r target = none) : p.laneAllocate r target = (none, p) := by
  simp only [Pool.laneAllocate, h]

end

/-! ### The lane-open event -/

section
variable {s : State} {k : Nat} {r : Rig} {l : Nat}

/-- A lane opens on a bucket. -/
theorem State.openLane_some {ch : Charge} {b : Nat} {rest : List Nat}
    (h : s.pool.laneCharge r (s.isTarget r (s.context k).group) = some ch) (hf : s.pool.freeList = b :: rest) :
    s.openLane k r l = { s with
      pool := { s.pool.setBucket b { state := .filling, pinCount := 0, charged := ch } with
        freeList := rest, exhaustReported := s.pool.exhaustReported.set r false }
      health := (s.sampleDraw r (s.context k).group ch).health
      cache := { s.cache with
        contexts := (s.setLane k r l (Lane.opened (some b) s.part.period)).cache.contexts
        lru := s.cache.lru.filter (fun j => j != k) ++ [k] } } := by
  unfold State.openLane State.laneAllocate
  rw [Pool.laneAllocate_some h hf]
  unfold State.sampleDraw State.sample
  by_cases hc : ch = .common r
  · by_cases hrun : s.part.state = .running
    · simp only [hc, if_true, show (s.claim _).part.state = .running from hrun, hrun]
      rfl
    · simp only [hc, if_true, if_neg hrun, if_neg (show ¬(s.claim _).part.state = .running from hrun)]
      rfl
  · simp only [if_neg hc]
    rfl

/-- A lane opens without a bucket, and the want is reported once (R28). -/
theorem State.openLane_none (hs : s.part.state ≠ .quiet)
    (h : s.pool.laneCharge r (s.isTarget r (s.context k).group) = none) :
    s.openLane k r l = { s with
      pool := { s.pool with exhaustReported := s.pool.exhaustReported.set r true }
      notices := if s.pool.exhaustReported.get r then s.notices else s.notices.post
        { group := some (s.context k).group, source := some r, period := s.part.period
          body := .poolExhausted (s.context k).channel l (s.roleOf r) (s.pool.inUse (.quota r)) s.pool.commonFree }
      cache := { s.cache with
        contexts := (s.setLane k r l (Lane.opened none s.part.period)).cache.contexts
        lru := s.cache.lru.filter (fun j => j != k) ++ [k] } } := by
  unfold State.openLane State.laneAllocate
  rw [Pool.laneAllocate_none h]
  unfold State.reportExhausted
  by_cases hrep : s.pool.exhaustReported.get r = true
  · simp only [if_pos hrep]
    rw [PerRig.set_same _ r true hrep]
    rfl
  · simp only [if_neg hrep, State.post_outside_quiet hs]
    rfl

/-! ### The write that opens it -/

/-- What a write leaves of a state whose lane has just opened. -/
structure State.Filled (k : Nat) (r : Rig) (l : Nat) (u t : State) : Prop where
  frame : t = { u with mem := t.mem, cache := { u.cache with contexts := t.cache.contexts } }
  moved : State.LaneMoved k r l u t

variable {u : State}

theorem State.filled_setLane (m : Memory) (v : Lane) : State.Filled k r l u ({ u with mem := m }.setLane k r l v) :=
  ⟨rfl, (State.LaneMoved.of_cache (s := u) (t := { u with mem := m }) rfl).trans (State.laneMoved_setLane { u with mem := m } k r l v)⟩

theorem State.fillPayload_opened {b p : Nat} (hlane : u.lane k r l = Lane.opened (some b) p) (i : Nat) (v : Word) (en : Enables) :
    State.Filled k r l u (u.fillPayload k r l i v en)
      ∧ (en = 15 → i = 0 →
        (u.fillPayload k r l i v en).lane k r l
          = { state := .filling, bucket := some b, nextWord := 1, crc := crcWord 0xFFFFFFFF v, header := [], openPeriod := p }
        ∧ readWord (u.fillPayload k r l i v en).mem (u.pool.base + b * 512) = v
        ∧ ∀ x, x < u.pool.base + b * 512 ∨ u.pool.base + b * 512 + 4 ≤ x →
          readByte (u.fillPayload k r l i v en).mem x = readByte u.mem x)
      ∧ (en ≠ 15 ∨ i ≠ 0 → (u.fillPayload k r l i v en).lane k r l
          = { state := .spoiled, bucket := some b, nextWord := 0, crc := 0xFFFFFFFF, header := [], openPeriod := p }
        ∧ (u.fillPayload k r l i v en).mem = u.mem) := by
  by_cases he : (Lane.opened (some b) p).expects i en = true
  · obtain ⟨hen, hi, -⟩ := (Lane.expects_iff _ _ _).1 he
    rw [State.fillPayload_expected hlane rfl he, State.storePayload,
      show u.pool.byteAddr ((Lane.opened (some b) p).bucket.getD 0) (4 * (Lane.opened (some b) p).nextWord)
        = u.pool.base + b * 512 from rfl]
    have hread := readWord_writeWord u.mem (u.pool.base + b * 512) v
    have hbyte := fun x hx => readByte_writeWord_of_outside u.mem (a := u.pool.base + b * 512) (x := x) v hx
    generalize writeWord u.mem (u.pool.base + b * 512) v = m at hread hbyte
    refine ⟨State.filled_setLane m _, fun _ _ => ⟨?_, hread, hbyte⟩, fun h => (h.elim (fun h => h hen) fun h => h hi).elim⟩
    rw [State.lane_setLane_same]
    rfl
  · rw [State.fillPayload_spoils hlane rfl he]
    refine ⟨State.filled_setLane u.mem _, fun hen hi => absurd ((Lane.expects_iff _ _ _).2 ⟨hen, hi, ?_⟩) he, fun _ => ⟨?_, rfl⟩⟩
    · exact Nat.succ_pos _
    · rw [State.lane_setLane_same]
      rfl

theorem State.fillHeader_opened {b p : Nat} (hlane : u.lane k r l = Lane.opened (some b) p) (i : Nat) (v : Word) (en : Enables) :
    State.Filled k r l u (u.fillHeader k r l i v en)
      ∧ (u.fillHeader k r l i v en).mem = u.mem
      ∧ (en = 15 → (u.fillHeader k r l i v en).lane k r l
          = { state := .filling, bucket := some b, nextWord := 0, crc := 0xFFFFFFFF
              header := ((u.fillHeader k r l i v en).lane k r l).header, openPeriod := p }
        ∧ ((u.fillHeader k r l i v en).lane k r l).headerWord i = v
        ∧ ∀ h, h ≠ i → ((u.fillHeader k r l i v en).lane k r l).headerWord h = 0)
      ∧ (en ≠ 15 → (u.fillHeader k r l i v en).lane k r l
          = { state := .spoiled, bucket := some b, nextWord := 0, crc := 0xFFFFFFFF, header := [], openPeriod := p }) := by
  by_cases hen : en = 15
  · subst hen
    rw [State.fillHeader_whole hlane rfl]
    refine ⟨State.filled_setLane u.mem _, rfl, fun _ => ?_, fun h => absurd rfl h⟩
    rw [State.lane_setLane_same]
    refine ⟨rfl, ?_, fun h hh => ?_⟩
    · rw [Lane.headerWord_set, if_pos rfl]
    · rw [Lane.headerWord_set, if_neg hh]
      rfl
  · rw [State.fillHeader_spoils hlane rfl hen]
    refine ⟨State.filled_setLane u.mem _, rfl, fun h => absurd h hen, fun _ => ?_⟩
    rw [State.lane_setLane_same]
    rfl

end

section
variable {s : State} {k : Nat} {r : Rig} {l : Nat}

/-- The sample of a charge to the common account, while RUNNING (R26). -/
theorem State.healthOf_sampleDraw (hrun : s.part.state = .running) (g : Nat) :
    (s.sampleDraw r g (.common r)).healthOf g
        = (s.healthOf g).modifyRecord (fun m => { m with commonDraws := sat16 m.commonDraws }) (s.roleOf r)
      ∧ ∀ g', g' ≠ g → (s.sampleDraw r g (.common r)).healthOf g' = s.healthOf g' := by
  rw [State.sampleDraw, if_pos rfl, State.sample, if_pos hrun]
  refine ⟨?_, fun g' hg' => ?_⟩
  · rw [State.healthOf_modifyHealth, if_pos rfl]
    rfl
  · rw [State.healthOf_modifyHealth, if_neg hg']

theorem State.health_sampleDraw {g : Nat} {ch : Charge} (h : ch = .quota r ∨ s.part.state = .armed) :
    (s.sampleDraw r g ch).health = s.health := by
  unfold State.sampleDraw State.sample
  rcases h with rfl | h
  · rw [if_neg nofun]
  · rw [if_neg (show ¬s.part.state = .running by rw [h]; exact nofun), ite_self]

/-- A state that holds the contexts of another reads the same lanes. -/
theorem State.lane_congr {t : State} (h : t.cache.contexts = s.cache.contexts) : t.lane k r l = s.lane k r l := by
  rw [State.lane, State.lane, State.context, State.context, Cache.context, Cache.context, h]

end

/-- Settles O44: the order of accounts, then the lane that opens and the write it takes. -/
theorem laneOpens : Obligations.LaneOpens := by
  refine ⟨fun p r target free hfree => ?accounts, fun s r a v en c l i k g write payload hrst hs hp hc hwrite hidle hg =>
    ⟨fun ch b rest hch hlist => ?bucket, fun hch => ?starved⟩⟩
  case accounts =>
    subst hfree
    rfl
  all_goals
    subst hg
    have hexec : exec write s = .next (if payload = true then (s.openLane k r l).fillPayload k r l i v en
        else (s.openLane k r l).fillHeader k r l i v en) := by
      have hopen := State.openIfIdle_idle hidle
      rcases hwrite with ⟨rfl, rfl, ha⟩ | ⟨rfl, rfl, ha⟩
      · exact (exec_laneWrites hrst hs hp (RigPlace.lane_of (.inl ha)) hc
          ((State.handleLaneWrite_payload ha).trans (by rw [hopen]; rfl))).1
      · exact (exec_laneWrites hrst hs hp (RigPlace.lane_of (.inr (.inl ha))) hc
          ((State.handleLaneWrite_header ha).trans (by rw [hopen]; rfl))).2.1
  case bucket =>
    have hu := State.openLane_some (k := k) (l := l) (s := s) hch hlist
    generalize s.openLane k r l = u at hexec hu
    have hcontexts : u.cache.contexts = (s.setLane k r l (Lane.opened (some b) s.part.period)).cache.contexts := by rw [hu]
    have hlane : u.lane k r l = Lane.opened (some b) s.part.period :=
      (State.lane_congr hcontexts).trans (State.lane_setLane_same s k r l _)
    have hmoved := (State.laneMoved_setLane s k r l (Lane.opened (some b) s.part.period)).trans
      (State.LaneMoved.of_cache hcontexts)
    have hbase : u.pool.base = s.pool.base := by rw [hu]; rfl
    have humem : u.mem = s.mem := by rw [hu]
    have hfilled : ∃ t, exec write s = .next t ∧ State.Filled k r l u t
        ∧ (payload = true → en = 15 → i = 0 →
            t.lane k r l = { state := .filling, bucket := some b, nextWord := 1, crc := crcWord 0xFFFFFFFF v, header := []
                             openPeriod := s.part.period }
            ∧ readWord t.mem (s.pool.base + b * 512) = v
            ∧ ∀ x, x < s.pool.base + b * 512 ∨ s.pool.base + b * 512 + 4 ≤ x → readByte t.mem x = readByte s.mem x)
        ∧ ((payload = true ∧ (en ≠ 15 ∨ i ≠ 0)) ∨ (payload = false ∧ en ≠ 15) →
            t.lane k r l = { state := .spoiled, bucket := some b, nextWord := 0, crc := 0xFFFFFFFF, header := []
                             openPeriod := s.part.period }
            ∧ t.mem = s.mem)
        ∧ (payload = false → en = 15 →
            t.lane k r l = { state := .filling, bucket := some b, nextWord := 0, crc := 0xFFFFFFFF
                             header := (t.lane k r l).header, openPeriod := s.part.period }
            ∧ (t.lane k r l).headerWord i = v ∧ (∀ h, h ≠ i → (t.lane k r l).headerWord h = 0) ∧ t.mem = s.mem) := by
      cases payload with
      | true =>
        obtain ⟨hf, hwhole, hspoilt⟩ := State.fillPayload_opened hlane i v en
        rw [hbase, humem] at hwhole
        rw [humem] at hspoilt
        exact ⟨_, hexec, hf, fun _ => hwhole, fun h => hspoilt (h.elim (fun h => h.2) fun h => nomatch h.1), nofun⟩
      | false =>
        obtain ⟨hf, hmem, hwhole, hspoilt⟩ := State.fillHeader_opened hlane i v en
        rw [humem] at hmem
        refine ⟨_, hexec, hf, nofun, fun h => ⟨hspoilt (h.elim (fun h => nomatch h.1) fun h => h.2), hmem⟩, fun _ hen => ?_⟩
        obtain ⟨h1, h2, h3⟩ := hwhole hen
        exact ⟨h1, h2, h3, hmem⟩
    obtain ⟨t, ht, ⟨hframe, hfmoved⟩, hpayload, hspoilt, hheader⟩ := hfilled
    have hall := hmoved.trans hfmoved
    have htpool : t.pool = u.pool := by rw [hframe]
    have hthealth : t.health = (s.sampleDraw r (s.context k).group ch).health := by rw [hframe, hu]
    have hhealthOf : ∀ g', t.healthOf g' = (s.sampleDraw r (s.context k).group ch).healthOf g' := fun g' => by
      rw [State.healthOf, State.healthOf, hthealth]
    have hbucket : ∀ b', t.pool.bucket b' = if b' = b then ⟨.filling, 0, ch⟩ else s.pool.bucket b' := fun b' => by
      rw [htpool, hu]
      exact s.pool.bucket_setBucket b b' { state := .filling, pinCount := 0, charged := ch }
    refine ⟨t, ht, ?_, hall.context, hpayload, hspoilt, hheader, hall.contexts, hall.lanes, ?_, fun b' hb' => ?_,
      fun hcommon hrun => ?_, fun h => ?_⟩
    · have hframe' := hframe
      rw [hu] at hframe'
      rw [htpool, hthealth, hu]
      exact hframe'
    · rw [hbucket, if_pos rfl]
    · rw [hbucket, if_neg hb']
    · subst hcommon
      obtain ⟨hhere, hothers⟩ := State.healthOf_sampleDraw (r := r) hrun (s.context k).group
      exact ⟨(hhealthOf _).trans hhere, fun g' hg' => (hhealthOf g').trans (hothers g' hg')⟩
    · rw [hthealth, State.health_sampleDraw h]
  case starved =>
    have hquiet : s.part.state ≠ .quiet := by rcases hs with hs | hs <;> rw [hs] <;> exact nofun
    have hu := State.openLane_none (k := k) (l := l) (s := s) hquiet hch
    generalize s.openLane k r l = u at hexec hu
    have hcontexts : u.cache.contexts = (s.setLane k r l (Lane.opened none s.part.period)).cache.contexts := by rw [hu]
    have hlane : u.lane k r l = Lane.opened none s.part.period :=
      (State.lane_congr hcontexts).trans (State.lane_setLane_same s k r l _)
    have hmoved := (State.laneMoved_setLane s k r l (Lane.opened none s.part.period)).trans
      (State.LaneMoved.of_cache hcontexts)
    have hclosed : (u.lane k r l).state ≠ .filling := by rw [hlane]; exact nofun
    rw [State.fillPayload_closed hclosed, State.fillHeader_closed hclosed, ite_self] at hexec
    exact ⟨u, hexec, by rw [hcontexts]; exact hu, hmoved.context, hlane, hmoved.contexts, hmoved.lanes⟩

end Sys2Proof.Machine
end

section
/-! # Commits (R42 to R46, R48)

A lane closes in three acts: the lane record, the block it held, the report of its outcome. Each act is said once, of the
contexts, of the pool and of the health records, and a commit is their sum. -/

namespace Sys2Proof.Machine

/-! ### Claims that move buckets only -/

/-- Only the Bucket Table and the free list differ. -/
def Pool.Rebooked (p q : Pool) : Prop := q = { p with table := q.table, freeList := q.freeList }

section
variable {p q : Pool} {b : Nat}

theorem Pool.Rebooked.refl (p : Pool) : p.Rebooked p := rfl

theorem Pool.Rebooked.trans {o : Pool} (h : p.Rebooked q) (h' : q.Rebooked o) : p.Rebooked o := by
  unfold Pool.Rebooked at h h' ⊢
  rw [h] at h'
  exact h'

theorem Pool.rebooked_retain (p : Pool) (b : Nat) : p.Rebooked (p.retain b) := by
  unfold Pool.retain
  split <;> rfl

theorem Pool.rebooked_free (p : Pool) (b : Nat) : p.Rebooked (p.free b) := by
  unfold Pool.free
  split <;> rfl

theorem Pool.rebooked_freeOpt (p : Pool) (b : Option Nat) : p.Rebooked (p.freeOpt b) := by
  cases b with
  | none => exact .refl p
  | some b => exact p.rebooked_free b

/-- The block's bucket is retained (R20, R45). -/
theorem Pool.retain_filling (h : (p.bucket b).state = .filling) :
    (p.retain b).freeList = p.freeList
      ∧ ∀ b', (p.retain b).bucket b' = if b' = b then { p.bucket b with state := .retained } else p.bucket b' := by
  rw [Pool.retain, if_pos h]
  exact ⟨rfl, fun b' => p.bucket_setBucket b b' _⟩

/-- A bucket in use goes to the tail of the free list (R20, R22). -/
theorem Pool.free_busy (h : (p.bucket b).state = .filling ∨ (p.bucket b).state = .retained) :
    (p.free b).freeList = p.freeList ++ [b]
      ∧ ∀ b', (p.free b).bucket b' = if b' = b then ⟨.free, 0, .none⟩ else p.bucket b' := by
  rw [Pool.free, if_pos h]
  exact ⟨rfl, fun b' => p.bucket_setBucket b b' Bucket.initial⟩

end

/-! ### The report of an outcome (R48) -/

section
variable (s : State) (k : Nat) (r : Rig) (o : LaneOutcome)

theorem State.reportOutcome_eq : s.reportOutcome k r o = { s with
    cache := { s.cache with contexts := (s.modifyContext k (fun x => x.count r o)).cache.contexts }
    health := (s.sample (s.roleOf r) (s.context k).group o.enter).health } := by
  unfold State.reportOutcome State.sample
  split <;> rfl

theorem State.health_sample_armed {s : State} (h : s.part.state = .armed) (ρ : Role) (g : Nat) (f : HealthRecord → HealthRecord) :
    (s.sample ρ g f).health = s.health := by
  rw [State.sample, if_neg (by rw [h]; exact nofun)]

theorem State.healthOf_sample {s : State} (h : s.part.state = .running) (ρ : Role) (g g' : Nat)
    (f : HealthRecord → HealthRecord) :
    (s.sample ρ g f).healthOf g' = if g' = g then (s.healthOf g).modifyRecord f ρ else s.healthOf g' := by
  rw [State.sample, if_pos h, State.healthOf_modifyHealth]

theorem State.context_reportOutcome (j : Nat) :
    (s.reportOutcome k r o).context j = if j = k then (s.context k).count r o else s.context j := by
  rw [State.reportOutcome_eq]
  exact s.context_modifyContext k j (fun x => x.count r o)

/-- What an outcome raises, as a record. -/
theorem GroupHealth.modifyRecord_const (h : GroupHealth) (f : HealthRecord → HealthRecord) (ρ : Role) :
    h.modifyRecord f ρ = h.modifyRecord (fun _ => f (h.record ρ)) ρ := by cases ρ <;> rfl

/-- The counters an outcome raises. -/
theorem Context.count_eq (x : Context) : x.count r o = { x with
    accepted := if o.isAccepted = true then x.accepted.set r (sat16 (x.accepted.get r)) else x.accepted
    damaged := if o.isDamaged = true then x.damaged.set r (sat16 (x.damaged.get r)) else x.damaged } := by
  unfold Context.count
  cases o <;> rfl

end

/-! ### The block of a lane that closes (R42, R45) -/

/-- The context once the block of lane record `ln` is settled. -/
def Context.settled (x : Context) (r : Rig) (ln : Lane) (period : Nat) : LaneOutcome → Context
  | .accepted => (x.setList r (insertEntry ln.entry (x.lists.get r))).committed period
  | .replaced => (x.setList r (replaceEntry ln.entry (x.lists.get r))).committed period
  | _ => x

section
variable (s : State) (k : Nat) (r : Rig) (ln : Lane) (o : LaneOutcome)

theorem State.context_settleBlock (j : Nat) : (s.settleBlock k r ln o).context j
    = if j = k then (s.context k).settled r ln s.part.period o else s.context j := by
  have hsame : s.context j = if j = k then s.context k else s.context j := by
    split
    next h => rw [h]
    next => rfl
  cases o with
  | accepted =>
    exact s.context_modifyContext k j (fun x => (x.setList r (insertEntry ln.entry (x.lists.get r))).committed s.part.period)
  | replaced =>
    exact s.context_modifyContext k j (fun x => (x.setList r (replaceEntry ln.entry (x.lists.get r))).committed s.part.period)
  | _ => exact hsame

/-- The block goes to the list or to the pool; the rest of the part stays. -/
theorem State.settleBlock_eq : s.settleBlock k r ln o = { s with
    pool := (s.settleBlock k r ln o).pool
    cache := { s.cache with
      contexts := (s.settleBlock k r ln o).cache.contexts, lru := (s.settleBlock k r ln o).cache.lru } } := by
  cases o <;> rfl

theorem State.rebooked_settleBlock : s.pool.Rebooked (s.settleBlock k r ln o).pool := by
  cases o with
  | accepted => exact s.pool.rebooked_retain _
  | replaced => exact (s.pool.rebooked_retain _).trans (Pool.rebooked_freeOpt _ _)
  | _ => exact s.pool.rebooked_freeOpt _

theorem State.lru_settleBlock : (s.settleBlock k r ln o).cache.lru
    = if o.isAccepted = true then s.cache.lru.filter (fun j => j != k) ++ [k] else s.cache.lru := by
  cases o <;> rfl

theorem State.pool_settleBlock_dropped (h : o.isAccepted = false) :
    (s.settleBlock k r ln o).pool = s.pool.freeOpt ln.bucket := by
  cases o with
  | accepted => cases h
  | replaced => cases h
  | _ => rfl

theorem State.pool_settleBlock_accepted : (s.settleBlock k r ln .accepted).pool = s.pool.retain ln.entry.bucket := rfl

theorem State.pool_settleBlock_replaced {old : Entry} (h : findEntry ln.blockNumber ((s.context k).lists.get r) = some old) :
    (s.settleBlock k r ln .replaced).pool = (s.pool.retain ln.entry.bucket).free old.bucket := by
  show (s.pool.retain ln.entry.bucket).freeOpt ((findEntry ln.entry.block ((s.context k).lists.get r)).map (·.bucket)) = _
  rw [show ln.entry.block = ln.blockNumber from rfl, h]
  rfl

end

/-! ### A lane closes -/

section
variable (s : State) (k : Nat) (r : Rig) (l : Nat) (o : LaneOutcome)

/-- Context `k` once lane `l` of rig port `r` has closed. -/
theorem State.context_closeLane (j : Nat) : (s.closeLane k r l o).context j = if j = k
    then (((s.context k).setLane r l (s.lane k r l).closed).settled r (s.lane k r l) s.part.period o).count r o
    else s.context j := by
  have hlane := s.context_modifyContext k
  rw [State.closeLane, State.context_reportOutcome, State.context_settleBlock, State.context_settleBlock, if_pos rfl,
    State.setLane, hlane k, hlane j, if_pos rfl]
  split <;> rfl

theorem State.closeLane_eq : s.closeLane k r l o = { s with
    pool := (s.closeLane k r l o).pool
    cache := { s.cache with
      contexts := (s.closeLane k r l o).cache.contexts, lru := (s.closeLane k r l o).cache.lru }
    health := (s.sample (s.roleOf r) (s.context k).group o.enter).health } := by
  have hgroup : (((s.setLane k r l (s.lane k r l).closed).settleBlock k r (s.lane k r l) o).context k).group
      = (s.context k).group := by
    rw [State.context_settleBlock, if_pos rfl, State.setLane, State.context_modifyContext, if_pos rfl]
    cases o <;> rfl
  unfold State.closeLane
  rw [State.reportOutcome_eq, hgroup, State.settleBlock_eq]
  unfold State.sample
  by_cases hrun : s.part.state = .running
  · rw [if_pos hrun, if_pos (show ({ s.setLane k r l (s.lane k r l).closed with
      pool := _, cache := _ } : State).part.state = .running from hrun)]
    rfl
  · rw [if_neg hrun, if_neg (show ¬({ s.setLane k r l (s.lane k r l).closed with
      pool := _, cache := _ } : State).part.state = .running from hrun)]
    rfl

theorem State.pool_closeLane : (s.closeLane k r l o).pool
    = ((s.setLane k r l (s.lane k r l).closed).settleBlock k r (s.lane k r l) o).pool := by
  rw [State.closeLane, State.reportOutcome_eq]

theorem State.lru_closeLane : (s.closeLane k r l o).cache.lru
    = if o.isAccepted = true then s.cache.lru.filter (fun j => j != k) ++ [k] else s.cache.lru := by
  rw [State.closeLane, State.reportOutcome_eq, State.lru_settleBlock]
  rfl

theorem Context.lanes_settled (x : Context) (ln : Lane) (period : Nat) : (x.settled r ln period o).lanes = x.lanes := by
  cases o <;> rfl

theorem Context.lane_congr {x y : Context} (h : x.lanes = y.lanes) (q : Rig) (i : Nat) : x.lane q i = y.lane q i := by
  rw [Context.lane, Context.lane, h]

theorem State.lane_closeLane (j : Nat) (q : Rig) (i : Nat) : (s.closeLane k r l o).lane j q i
    = if j = k ∧ q = r ∧ i = l then (s.lane k r l).closed else s.lane j q i := by
  rw [← s.lane_setLane k j r q l i (s.lane k r l).closed, State.lane, State.lane, State.context_closeLane, State.setLane,
    State.context_modifyContext]
  by_cases hj : j = k
  · rw [if_pos hj, if_pos hj]
    refine Context.lane_congr ?_ q i
    rw [Context.count_eq]
    exact Context.lanes_settled r o _ _ _
  · rw [if_neg hj, if_neg hj]

/-- A bucket that no list takes is freed. -/
theorem State.pool_closeLane_dropped (h : o.isAccepted = false) :
    (s.closeLane k r l o).pool = s.pool.freeOpt (s.lane k r l).bucket := by
  rw [State.pool_closeLane, State.pool_settleBlock_dropped _ _ _ _ _ h]
  rfl

theorem State.rebooked_closeLane : s.pool.Rebooked (s.closeLane k r l o).pool := by
  rw [State.pool_closeLane]
  exact State.rebooked_settleBlock (s.setLane k r l (s.lane k r l).closed) k r _ o

/-- What the closing of a lane leaves as it was. -/
theorem State.closeLane_frame : s.closeLane k r l o = { s with
    pool := { s.pool with table := (s.closeLane k r l o).pool.table, freeList := (s.closeLane k r l o).pool.freeList }
    cache := { s.cache with
      contexts := (s.closeLane k r l o).cache.contexts, lru := (s.closeLane k r l o).cache.lru }
    health := (s.closeLane k r l o).health } := by
  have heq := s.closeLane_eq k r l o
  have hpool := s.rebooked_closeLane k r l o
  have hhealth := congrArg State.health heq
  rw [← (hpool : (s.closeLane k r l o).pool = _), hhealth]
  exact heq

/-- The outcome's sample reaches one record, while RUNNING. -/
theorem State.healthOf_closeLane (hrun : s.part.state = .running) (g : Nat) : (s.closeLane k r l o).healthOf g
    = if g = (s.context k).group then (s.healthOf g).modifyRecord o.enter (s.roleOf r) else s.healthOf g := by
  have heq := congrArg State.health (s.closeLane_eq k r l o)
  rw [State.healthOf, heq]
  refine (State.healthOf_sample hrun (s.roleOf r) (s.context k).group g o.enter).trans ?_
  split
  next h => rw [h]
  next => rfl

/-- The freed bucket of a lane. -/
theorem State.closeLane_frees (h : o.isAccepted = false) : ((s.lane k r l).bucket = none → (s.closeLane k r l o).pool = s.pool)
    ∧ ∀ b, (s.lane k r l).bucket = some b → (s.pool.bucket b).state = .filling →
      (s.closeLane k r l o).pool.freeList = s.pool.freeList ++ [b] ∧ (s.closeLane k r l o).pool.bucket b = ⟨.free, 0, .none⟩
      ∧ ∀ b', b' ≠ b → (s.closeLane k r l o).pool.bucket b' = s.pool.bucket b' := by
  rw [State.pool_closeLane_dropped _ _ _ _ _ h]
  refine ⟨fun hb => by rw [hb]; rfl, fun b hb hfilling => ?_⟩
  obtain ⟨hlist, hbucket⟩ := Pool.free_busy (p := s.pool) (.inl hfilling)
  rw [hb]
  exact ⟨hlist, (hbucket b).trans (if_pos rfl), fun b' hb' => (hbucket b').trans (if_neg hb')⟩

end

/-! ### The outcome of a commit (R42) -/

section
variable (ln : Lane) (c front limit : Nat) (es : List Entry) (v : Word) (en : Enables)

theorem findEntry_isSome_iff (n : Nat) (es : List Entry) : (findEntry n es).isSome = true ↔ ∃ e ∈ es, e.block = n := by
  simp [findEntry]

theorem Lane.commitOutcome_eq : ln.commitOutcome c front limit es v en
    = if ¬(en = 15 ∧ v = 1) then .abandoned else if ln.state = .starved then .starved
      else if ln.state = .spoiled then .spoiled else if ln.nextWord < 128 then .incomplete
      else if (ln.headerWord 0).toNat % 65536 ≠ 1 ∨ (ln.headerWord 1).toNat ≠ c
          ∨ (ln.headerWord 3).toNat / 65536 ≠ 0 then .malformed
      else if ln.crc ^^^ 0xFFFFFFFF ≠ ln.headerWord 4 then .crcMismatch
      else if ln.blockNumber < front then .late
      else if limit ≤ ln.blockNumber then .tooEarly
      else if ∃ e ∈ es, e.block = ln.blockNumber then .replaced else .accepted := by
  have hrequest : (!commitRequest v en) = true ↔ ¬(en = 15 ∧ v = 1) := by simp [commitRequest, wholeWord, Decidable.imp_iff_not_or]
  have hmalformed : ln.malformed c = true ↔ (ln.headerWord 0).toNat % 65536 ≠ 1 ∨ (ln.headerWord 1).toNat ≠ c
      ∨ (ln.headerWord 3).toNat / 65536 ≠ 0 := by simp [Lane.malformed, lowHalf, highHalf, or_assoc]
  have hcrc : (ln.computedCrc != ln.headerWord 4) = true ↔ ln.crc ^^^ 0xFFFFFFFF ≠ ln.headerWord 4 := bne_iff_ne
  exact ite_of_iff hrequest rfl (ite_of_iff Iff.rfl rfl (ite_of_iff Iff.rfl rfl (ite_of_iff Iff.rfl rfl (ite_of_iff hmalformed rfl
    (ite_of_iff hcrc rfl (ite_of_iff Iff.rfl rfl (ite_of_iff Iff.rfl rfl
      (ite_of_iff (findEntry_isSome_iff ln.blockNumber es) rfl rfl))))))))

/-- A commit is never Stale and never Stray. -/
theorem Lane.commitOutcome_ne : ln.commitOutcome c front limit es v en ≠ .stale
    ∧ ln.commitOutcome c front limit es v en ≠ .stray := by
  unfold Lane.commitOutcome
  repeat' split
  all_goals exact ⟨nofun, nofun⟩

/-- An outcome of a commit is counted as Damaged where R48 says so. -/
theorem LaneOutcome.isDamaged_iff {o : LaneOutcome} (h : o ≠ .stale ∧ o ≠ .stray) : o.isDamaged = true
    ↔ o = .starved ∨ o = .spoiled ∨ o = .incomplete ∨ o = .malformed ∨ o = .crcMismatch := by
  obtain ⟨h1, h2⟩ := h
  cases o <;> simp_all [LaneOutcome.isDamaged]

theorem LaneOutcome.isAccepted_iff (o : LaneOutcome) : o.isAccepted = true ↔ o = .accepted ∨ o = .replaced := by
  cases o <;> simp [LaneOutcome.isAccepted]

/-- What the outcome of a commit raises (R48). -/
theorem LaneOutcome.enter_eq {o : LaneOutcome} (m : HealthRecord) : o.enter m = if o = .abandoned then m
    else if o = .late ∨ o = .tooEarly then { m with offTime := sat16 m.offTime }
    else if o = .replaced then { m with commits := sat16 m.commits, repeats := sat16 m.repeats }
    else if o = .accepted then { m with commits := sat16 m.commits }
    else { m with damaged := sat16 m.damaged } := by
  cases o <;> rfl

end

end Sys2Proof.Machine
end

section
/-! # Commits, stale lanes and expiry (R42, R46 to R48, R63) -/

namespace Sys2Proof.Machine

section
variable {s : State} {k : Nat} {r : Rig} {l : Nat}

/-- A commit to an IDLE lane is only reported (R46). -/
theorem State.reportOutcome_stray : s.reportOutcome k r .stray = { s with
      cache := { s.cache with contexts := (s.reportOutcome k r .stray).cache.contexts }
      health := (s.reportOutcome k r .stray).health }
    ∧ (s.reportOutcome k r .stray).context k
      = { s.context k with damaged := (s.context k).damaged.set r (sat16 ((s.context k).damaged.get r)) }
    ∧ (∀ j, j ≠ k → (s.reportOutcome k r .stray).context j = s.context j) := by
  refine ⟨?_, ?_, fun j hj => ?_⟩
  · rw [State.reportOutcome_eq]
  · rw [State.context_reportOutcome, if_pos rfl]
    rfl
  · rw [State.context_reportOutcome, if_neg hj]

/-- The sample an outcome makes of the record of its rig's role. -/
theorem State.healthOf_reportOutcome (hrun : s.part.state = .running) (o : LaneOutcome) (g : Nat) :
    (s.reportOutcome k r o).healthOf g
      = if g = (s.context k).group then (s.healthOf g).modifyRecord o.enter (s.roleOf r) else s.healthOf g := by
  have heq := congrArg State.health (State.reportOutcome_eq s k r o)
  rw [State.healthOf, heq]
  refine (State.healthOf_sample hrun (s.roleOf r) (s.context k).group g o.enter).trans ?_
  split
  next h => rw [h]
  next => rfl

theorem State.commitLane_idle (h : (s.lane k r l).state = .idle) (v : Word) (en : Enables) :
    s.commitLane k r l v en = s.reportOutcome k r .stray := if_pos h

theorem State.commitLane_closes (h : (s.lane k r l).state ≠ .idle) (v : Word) (en : Enables) :
    s.commitLane k r l v en = s.closeLane k r l (s.commitOutcome k r l v en) := if_neg h

end

/-- What a closing lane with outcome `o` leaves of context `k`: the lists of the other port, and of its own unless the block
is taken (R45). -/
theorem State.lists_closeLane (s : State) (k : Nat) (r : Rig) (l : Nat) (o : LaneOutcome) {x : Context} (hx : x = s.context k)
    {ln : Lane} (hln : ln = s.lane k r l) :
    ((s.closeLane k r l o).context k = { x with
        lanes := ((s.closeLane k r l o).context k).lanes, lists := ((s.closeLane k r l o).context k).lists
        streaming := ((s.closeLane k r l o).context k).streaming
        lastCommit := ((s.closeLane k r l o).context k).lastCommit
        accepted := ((s.closeLane k r l o).context k).accepted
        damaged := ((s.closeLane k r l o).context k).damaged })
    ∧ (∀ q, q ≠ r → ((s.closeLane k r l o).context k).lists.get q = x.lists.get q)
    ∧ (o.isAccepted = false → ((s.closeLane k r l o).context k).lists = x.lists
        ∧ ((s.closeLane k r l o).context k).streaming = x.streaming
        ∧ ((s.closeLane k r l o).context k).lastCommit = x.lastCommit)
    ∧ (o.isAccepted = true → ((s.closeLane k r l o).context k).streaming = true
        ∧ ((s.closeLane k r l o).context k).lastCommit = s.part.period)
    ∧ (o = .accepted → ((s.closeLane k r l o).context k).lists.get r = insertEntry ln.entry (x.lists.get r))
    ∧ (o = .replaced → ((s.closeLane k r l o).context k).lists.get r = replaceEntry ln.entry (x.lists.get r))
    ∧ ((s.closeLane k r l o).context k).accepted
        = (if o.isAccepted = true then x.accepted.set r (sat16 (x.accepted.get r)) else x.accepted)
    ∧ ((s.closeLane k r l o).context k).damaged
        = (if o.isDamaged = true then x.damaged.set r (sat16 (x.damaged.get r)) else x.damaged) := by
  subst hx hln
  have hother : ∀ (es : List Entry) (q : Rig), q ≠ r → ((s.context k).lists.set r es).get q = (s.context k).lists.get q :=
    fun es q hq => (PerRig.get_set _ r q es).trans (if_neg hq)
  have hsame : ∀ es : List Entry, ((s.context k).lists.set r es).get r = es := fun es => PerRig.get_set_eq _ r es
  rw [State.context_closeLane, if_pos rfl, Context.count_eq]
  cases o with
  | accepted =>
    exact ⟨rfl, hother _, nofun, fun _ => ⟨rfl, rfl⟩, fun _ => hsame _, nofun, rfl, rfl⟩
  | replaced =>
    exact ⟨rfl, hother _, nofun, fun _ => ⟨rfl, rfl⟩, nofun, fun _ => hsame _, rfl, rfl⟩
  | _ => exact ⟨rfl, fun _ _ => rfl, fun _ => ⟨rfl, rfl, rfl⟩, nofun, nofun, nofun, rfl, rfl⟩

/-- Settles O45: the outcome is that of R42's table, and the lane closes with it. -/
theorem commitWrite : Obligations.CommitWrite := by
  intro s r a v en c l k n ln x o hrst hs hp hc ha hx hln hn
  subst hx hn
  have hlane : ln = s.lane k r l := hln
  have hexec : exec (.commit r a v en) s = .next (s.commitLane k r l v en) :=
    (exec_laneWrites hrst hs hp (RigPlace.lane_of (i := 0) (.inr (.inr ha))) hc (State.handleLaneWrite_commit ha)).2.2.1
  refine ⟨fun hidle => ?_, fun hopen ho => ?_⟩
  · rw [State.commitLane_idle (by rw [← hlane]; exact hidle)] at hexec
    obtain ⟨hframe, hcontext, hothers⟩ := State.reportOutcome_stray (s := s) (k := k) (r := r)
    refine ⟨_, hexec, hframe, hcontext, hothers, fun harm => ?_, fun m hrun hm => ⟨?_, fun g hg => ?_⟩⟩
    · rw [State.reportOutcome_eq]
      exact State.health_sample_armed harm _ _ _
    · rw [State.healthOf_reportOutcome hrun, if_pos rfl, GroupHealth.modifyRecord_const, hm]
      rfl
    · rw [State.healthOf_reportOutcome hrun, if_neg hg]
  · have hout : s.commitOutcome k r l v en = o := by
      rw [State.commitOutcome, ← hlane, Lane.commitOutcome_eq, ho]
    have hne : o ≠ .stale ∧ o ≠ .stray := by
      rw [← hout]
      exact Lane.commitOutcome_ne _ _ _ _ _ _ _
    rw [State.commitLane_closes (by rw [← hlane]; exact hopen), hout] at hexec
    obtain ⟨hcontext, hlists, hdropped, htaken, haccepted, hreplaced, hacc, hdam⟩ := s.lists_closeLane k r l o rfl hlane
    have hlru := s.lru_closeLane k r l o
    have hfrees := s.closeLane_frees k r l o
    rw [← hlane] at hfrees
    have hnot : o ≠ .accepted → o ≠ .replaced → o.isAccepted = false := fun h1 h2 => by
      rw [Bool.eq_false_iff, Ne, LaneOutcome.isAccepted_iff]
      exact fun h => h.elim h1 h2
    have hentry : ∀ b, ln.bucket = some b → ln.entry = ⟨ln.blockNumber, b, ln.headerWord 5, (ln.headerWord 0).getLsbD 16⟩ :=
      fun b hb => by rw [Lane.entry, hb]; rfl
    refine ⟨_, hexec, s.closeLane_frame k r l o, ?_, fun j q i hj => ?_, fun j hj => ?_, hcontext, hlists, fun h1 h2 => ?_,
      fun h => ?_, fun b hoa hb => ?_, fun b hor hb => ?_, ?_, ?_, fun harm => ?_, fun m m' hrun hm hm' => ?_⟩
    · rw [State.lane_closeLane, if_pos ⟨rfl, rfl, rfl⟩, ← hlane]
      rfl
    · rw [State.lane_closeLane, if_neg (lane_apart hj)]
    · rw [State.context_closeLane, if_neg hj]
    · obtain ⟨hl1, hl2, hl3⟩ := hdropped (hnot h1 h2)
      obtain ⟨hnone, hsome⟩ := hfrees (hnot h1 h2)
      exact ⟨hl1, hl2, hl3, by rw [hlru, hnot h1 h2, if_neg nofun], hnone, hsome⟩
    · have hacc := (LaneOutcome.isAccepted_iff o).2 h
      exact ⟨(htaken hacc).1, (htaken hacc).2, by rw [hlru, if_pos hacc]⟩
    · have hnew : findEntry ln.blockNumber ((s.context k).lists.get r) = none := by
        rw [State.commitOutcome, ← hlane, hoa] at hout
        exact findEntry_none_of_accepted hout
      rw [haccepted hoa, ← hentry b hb]
      refine ⟨fun e => mem_insertEntry _ _ _, fun hrising => insertEntry_rising hrising ((findEntry_none_iff _ _).1 hnew),
        fun hfilling => ?_⟩
      have hbucket : ln.entry.bucket = b := by rw [hentry b hb]
      obtain ⟨hlist, hread⟩ := Pool.retain_filling (p := s.pool) hfilling
      rw [State.pool_closeLane, ← hlane, hoa, State.pool_settleBlock_accepted, hbucket]
      exact ⟨(hread b).trans (if_pos rfl), hlist, fun b' hb' => (hread b').trans (if_neg hb')⟩
    · rw [hreplaced hor]
      refine ⟨by rw [replaceEntry, hentry b hb], fun old hold hfilling hretained => ?_⟩
      have hbucket : ln.entry.bucket = b := by rw [hentry b hb]
      have hdiffer : old.bucket ≠ b := fun h => by rw [h, hfilling] at hretained; cases hretained
      have hlists : ((s.setLane k r l ln.closed).context k).lists.get r = (s.context k).lists.get r := by
        rw [State.setLane, State.context_modifyContext, if_pos rfl]
        rfl
      obtain ⟨hlist, hread⟩ := Pool.retain_filling (p := s.pool) hfilling
      have hbusy : ((s.pool.retain b).bucket old.bucket).state = .retained := by rw [hread, if_neg hdiffer, hretained]
      obtain ⟨hlist', hread'⟩ := Pool.free_busy (p := s.pool.retain b) (.inr hbusy)
      rw [State.pool_closeLane, ← hlane, hor, State.pool_settleBlock_replaced _ _ _ _ (by rw [hlists]; exact hold), hbucket]
      refine ⟨?_, ?_, ?_, fun b' hb' hold' => ?_⟩
      · exact (hread' b).trans ((if_neg hdiffer.symm).trans ((hread b).trans (if_pos rfl)))
      · exact (hread' old.bucket).trans (if_pos rfl)
      · exact hlist'.trans (congrArg (· ++ [old.bucket]) hlist)
      · exact (hread' b').trans ((if_neg hold').trans ((hread b').trans (if_neg hb')))
    · rw [hacc, ite_of_iff (LaneOutcome.isAccepted_iff o) rfl rfl]
    · rw [hdam, ite_of_iff (LaneOutcome.isDamaged_iff hne) rfl rfl]
    · have heq := congrArg State.health (s.closeLane_eq k r l o)
      exact heq.trans (State.health_sample_armed harm _ _ _)
    · refine ⟨?_, fun g hg => ?_⟩
      · rw [State.healthOf_closeLane _ _ _ _ _ hrun, if_pos rfl, GroupHealth.modifyRecord_const, ← hm, hm',
          LaneOutcome.enter_eq]
      · rw [State.healthOf_closeLane _ _ _ _ _ hrun, if_neg hg]

/-! ### The period checks (R47, R63) -/

section
variable {s : State} {c k : Nat} {r : Rig} {l : Nat}

theorem State.staleDue_iff : s.staleDue k r l = true ↔ s.part.state = .running ∧ (s.lane k r l).state ≠ .idle
    ∧ (s.lane k r l).openPeriod + 8 < s.part.period := by
  simp [State.staleDue, and_assoc]

theorem State.expiryDue_iff : s.expiryDue k = true ↔ s.part.state = .running ∧ (s.context k).streaming = true
    ∧ (s.context k).lastCommit + s.cache.expectSpan < s.part.period := by
  simp [State.expiryDue, and_assoc]

theorem exec_laneStale (h : s.cache.mapEntry c = some k) :
    exec (.laneStale c r l) s = .next (if s.staleDue k r l then s.closeLane k r l .stale else s) := by
  simp only [exec, execLaneStale, State.laneStale, h]

theorem exec_streamingExpiry (h : s.cache.mapEntry c = some k) : exec (.streamingExpiry c) s = .next (if s.expiryDue k then
    (s.claim (fun p => p.unpinOpt (s.context k).lastServed)).modifyContext k Context.expired else s) := by
  simp only [exec, execStreamingExpiry, State.streamingExpiry, h]

end

/-- Settles O46: a stale lane closes as a commit closes it, and an expiry changes one context. -/
theorem staleLanesAndExpiry : Obligations.StaleLanesAndExpiry := by
  intro s c l k r x ln hx hln
  subst hx
  have hlane : ln = s.lane k r l := hln
  refine ⟨fun hc => ⟨?_, ?_⟩, fun hc => ⟨fun h => ?_, fun hrun hopen hold => ?_, fun h => ?_, fun hrun hstream hold => ?_⟩⟩
  · simp only [exec, execLaneStale, State.laneStale, hc]
  · simp only [exec, execStreamingExpiry, State.streamingExpiry, hc]
  · have hnot : ¬s.staleDue k r l = true := by
      rw [State.staleDue_iff, ← hlane]
      rintro ⟨h1, h2, h3⟩
      rcases h with h | h | h
      · exact h h1
      · exact h2 h
      · omega
    rw [exec_laneStale hc, if_neg hnot]
  · have hdue : s.staleDue k r l = true := State.staleDue_iff.2 (by rw [← hlane]; exact ⟨hrun, hopen, hold⟩)
    obtain ⟨hcontext, -, hdropped, -, -, -, hacc, hdam⟩ := s.lists_closeLane k r l .stale rfl hlane
    obtain ⟨hlists, hstream, hcommit⟩ := hdropped rfl
    obtain ⟨hnone, hfrees⟩ := s.closeLane_frees k r l .stale rfl
    have hframe := s.closeLane_frame k r l .stale
    rw [s.lru_closeLane k r l .stale, if_neg nofun] at hframe
    refine ⟨_, (exec_laneStale hc).trans (congrArg _ (if_pos hdue)), hframe, ?_, ?_, fun j hj => ?_, fun j q i hj => ?_,
      by rw [hlane]; exact hfrees, by rw [hlane]; exact hnone, ?_, fun g hg => ?_⟩
    · rw [State.lane_closeLane, if_pos ⟨rfl, rfl, rfl⟩, ← hlane]
      rfl
    · rw [hlists, hstream, hcommit, hacc, hdam] at hcontext
      exact hcontext
    · rw [State.context_closeLane, if_neg hj]
    · rw [State.lane_closeLane, if_neg (lane_apart hj)]
    · rw [State.healthOf_closeLane _ _ _ _ _ hrun, if_pos rfl]
      rfl
    · rw [State.healthOf_closeLane _ _ _ _ _ hrun, if_neg hg]
  · have hnot : ¬s.expiryDue k = true := by
      rw [State.expiryDue_iff]
      rintro ⟨h1, h2, h3⟩
      rcases h with h | h | h
      · exact h h1
      · rw [h2] at h
        cases h
      · omega
    rw [exec_streamingExpiry hc, if_neg hnot]
  · have hdue : s.expiryDue k = true := State.expiryDue_iff.2 ⟨hrun, hstream, hold⟩
    have hcontext := State.context_modifyContext s k
    refine ⟨_, (exec_streamingExpiry hc).trans (congrArg _ (if_pos hdue)), rfl, ?_, fun j hj => ?_, fun h => ?_, fun b h => ?_⟩
    · exact (hcontext k Context.expired).trans (if_pos rfl)
    · exact (hcontext j Context.expired).trans (if_neg hj)
    · rw [h]
      rfl
    · rw [h]
      rfl

end Sys2Proof.Machine
end

section
/-! # Loads and the ports that wait on them (R55, R57 to R62)

A load that ends, with a context or without one, empties the queue of each port that waited on it and lets the queue's
requests arrive anew. What it makes of the rest is told before they arrive. -/

namespace Sys2Proof.Machine

/-! ### Which context a load finds (R59, R60) -/

theorem Cache.lowestFree_eq_some (x : Cache) (k : Nat) : x.lowestFree = some k ↔
    k < 96 ∧ (x.context k).residence = .free ∧ ∀ j, j < k → (x.context j).residence ≠ .free := by
  simp only [Cache.lowestFree, List.find?_range_eq_some, beq_iff_eq, List.mem_range, Bool.not_eq_true', beq_eq_false_iff_ne]
  exact and_left_comm

theorem Cache.lowestFree_eq_none (x : Cache) : x.lowestFree = none ↔ ∀ k, k < 96 → (x.context k).residence ≠ .free := by
  simp only [Cache.lowestFree, List.find?_range_eq_none, Bool.not_eq_true', beq_eq_false_iff_ne]

theorem Cache.victim_eq_some (x : Cache) (k : Nat) : x.victim = some k ↔ ∃ before behind, x.lru = before ++ k :: behind
    ∧ (x.context k).evictable = true ∧ ∀ j ∈ before, (x.context j).evictable = false := by
  rw [Cache.victim, List.find?_eq_some_iff_append]
  constructor
  · rintro ⟨hk, before, behind, hlru, hbefore⟩
    exact ⟨before, behind, hlru, hk, fun j hj => by simpa using hbefore j hj⟩
  · rintro ⟨before, behind, hlru, hk, hbefore⟩
    exact ⟨hk, before, behind, hlru, fun j hj => by rw [hbefore j hj]; rfl⟩

theorem Cache.victim_eq_none (x : Cache) : x.victim = none ↔ ∀ k ∈ x.lru, (x.context k).evictable = false := by
  rw [Cache.victim, List.find?_eq_none]
  exact forall₂_congr fun _ _ => Bool.eq_false_iff.symm

theorem Context.evictable_iff (y : Context) : y.evictable = true ↔ y.residence = .valid
    ∧ (∀ r, ∀ e ∈ y.lanes.get r, e.2.state = .idle) ∧ y.lists = ⟨[], []⟩ ∧ y.streaming = false ∧ y.lastServed = none := by
  have hlists : y.lists = ⟨[], []⟩ ↔ y.lists.rig1 = [] ∧ y.lists.rig2 = [] := by
    cases y.lists
    simp
  have hlanes : (∀ r, ∀ e ∈ y.lanes.get r, e.2.state = .idle)
      ↔ (∀ e ∈ y.lanes.rig1, e.2.state = .idle) ∧ ∀ e ∈ y.lanes.rig2, e.2.state = .idle :=
    ⟨fun h => ⟨h .rig1, h .rig2⟩, fun ⟨h1, h2⟩ r => by cases r <;> assumption⟩
  rw [hlists, hlanes]
  simp only [Context.evictable, Bool.and_eq_true, beq_iff_eq, List.all_eq_true, List.isEmpty_iff, Bool.not_eq_true',
    Option.isNone_iff_eq_none, and_assoc]

/-- What every entry of a table has, and the default, each number reads. -/
theorem Table.get_of_forall {α : Type} {P : α → Prop} {d : α} (hd : P d) (k : Nat) : ∀ (t : Table α), (∀ e ∈ t, P e.2) →
    P (Table.get d t k)
  | [], _ => hd
  | e :: t, h => by
    rw [Table.get]
    split
    · exact h e List.mem_cons_self
    · exact Table.get_of_forall hd k t fun f hf => h f (List.mem_cons_of_mem _ hf)

/-- An evictable context has no lane open. -/
theorem Context.lane_of_evictable {y : Context} (h : y.evictable = true) (r : Rig) (l : Nat) : (y.lane r l).state = .idle :=
  Table.get_of_forall (P := fun ln : Lane => ln.state = .idle) rfl l _ ((y.evictable_iff.1 h).2.1 r)

/-! ### A port does not see the other (R36) -/

theorem PerRig.set_comm {α : Type} {q r : Rig} (h : q ≠ r) (p : PerRig α) (v w : α) :
    (p.set q v).set r w = (p.set r w).set q v := by
  cases q <;> cases r
  case rig1.rig1 | rig2.rig2 => exact absurd rfl h
  case rig1.rig2 | rig2.rig1 => rfl

theorem Cache.askLoad_ports (x : Cache) (p : PerRig (List RigRequest)) (c : Nat) (r : Rig) (l : Nat) :
    Cache.askLoad { x with ports := p } c r l = { x.askLoad c r l with ports := p } := by
  unfold Cache.askLoad
  split
  · rw [if_pos (show x.loading c = true by assumption)]
  · rw [if_neg (show ¬x.loading c = true by assumption), Cache.openRequest_eq, Cache.openRequest_eq]
    rfl

theorem Cache.ports_askLoad (x : Cache) (c : Nat) (r : Rig) (l : Nat) : (x.askLoad c r l).ports = x.ports := by
  rw [show x.askLoad c r l = _ from x.askLoad_ports x.ports c r l]

section
variable {s : State} {q r : Rig}

/-- A write that is held at a port leaves the other port's queue. -/
theorem State.askLoad_setPort (x : List RigRequest) (c l : Nat) :
    ({ s.setPort q x with cache := (s.setPort q x).cache.askLoad c r l } : State)
      = State.setPort { s with cache := s.cache.askLoad c r l } q x := by
  have hports : (s.setPort q x).cache.askLoad c r l
      = { s.cache.askLoad c r l with ports := (s.cache.askLoad c r l).ports.set q x } := by
    rw [Cache.ports_askLoad, ← Cache.askLoad_ports]
    rfl
  rw [hports]
  rfl

theorem State.setPort_comm (h : q ≠ r) (x y : List RigRequest) :
    (s.setPort q x).setPort r y = (s.setPort r y).setPort q x := by
  simp only [State.setPort, PerRig.set_comm h]

theorem State.serve_setPort_other (h : q ≠ r) (x : List RigRequest) : ∀ (qs : List RigRequest) (s : State),
    (s.setPort q x).serve r qs = (s.serve r qs).setPort q x
  | [], _ => State.setPort_comm h x []
  | .read a n :: qs, s => State.serve_setPort_other h x qs (s.answerRig r a n)
  | .write w :: qs, s => by
    unfold State.serve
    split
    · exact State.serve_setPort_other h x qs s
    · rename_i c l _
      rw [show (s.setPort q x).cache.mapEntry c = s.cache.mapEntry c from rfl]
      split
      · rw [State.setPort_handleLaneWrite, State.serve_setPort_other h x qs]
      · dsimp only
        rw [State.setPort_comm h]
        exact State.askLoad_setPort x c l

theorem State.rigRequest_setPort_other (h : q ≠ r) (x : List RigRequest) (y : RigRequest) :
    (s.setPort q x).rigRequest r y = (s.rigRequest r y).setPort q x := by
  have hport : (s.setPort q x).cache.ports.get r = s.cache.ports.get r := by
    rw [State.setPort, PerRig.get_set, if_neg h.symm]
  rw [State.rigRequest, State.rigRequest, hport]
  split
  · exact State.serve_setPort_other h x _ s
  · exact State.setPort_comm h x _

theorem State.arrive_setPort_other (h : q ≠ r) (x : List RigRequest) : ∀ (qs : List RigRequest) (s : State),
    (s.setPort q x).arrive r qs = (s.arrive r qs).setPort q x
  | [], _ => rfl
  | y :: qs, s => by
    rw [State.arrive, List.foldl_cons, State.rigRequest_setPort_other h]
    exact State.arrive_setPort_other h x qs _

/-- What arrives at a port leaves the other port's queue. -/
theorem State.ports_arrive_other (h : q ≠ r) (qs : List RigRequest) (s : State) :
    (s.arrive r qs).cache.ports.get q = s.cache.ports.get q := by
  conv =>
    lhs
    rw [← s.setPort_same q _ rfl]
  rw [State.arrive_setPort_other h]
  exact PerRig.get_set_eq _ _ _

end

/-! ### The ports that waited go on (R55) -/

/-- The queues once each port that waited on the request is empty, and what arrives there anew. -/
def LoadRequest.Resumes (q : LoadRequest) (ports emptied next : PerRig (List RigRequest)) : Prop :=
  ∀ r, emptied.get r = (if q.waiting.get r then [] else ports.get r)
    ∧ next.get r = (if q.waiting.get r then ports.get r else [])

section
variable {s : State} {q : LoadRequest} {emptied next : PerRig (List RigRequest)}

theorem State.resumePort_eq {r : Rig} (he : emptied.get r = (if q.waiting.get r then [] else s.cache.ports.get r))
    (hn : next.get r = (if q.waiting.get r then s.cache.ports.get r else [])) :
    s.resumePort q r = (s.setPort r (emptied.get r)).arrive r (next.get r) := by
  rw [State.resumePort]
  split
  · rw [he, hn, if_pos ‹_›, if_pos ‹_›, State.serve_eq_emptied]
  · rw [he, hn, if_neg ‹_›, if_neg ‹_›, State.setPort_same s r _ rfl]
    rfl

theorem State.resumePorts_eq (h : q.Resumes s.cache.ports emptied next) : s.resumePorts q
    = (State.arrive { s with cache := { s.cache with ports := emptied } } .rig1 next.rig1).arrive .rig2 next.rig2 := by
  have hne : Rig.rig2 ≠ Rig.rig1 := nofun
  have hport : ((s.setPort .rig1 emptied.rig1).arrive .rig1 next.rig1).cache.ports.get .rig2 = s.cache.ports.rig2 :=
    State.ports_arrive_other hne _ _
  rw [State.resumePorts, State.resumePort_eq (h .rig1).1 (h .rig1).2, State.resumePort_eq (r := .rig2) (emptied := emptied)
    (next := next) (by rw [(h .rig2).1]; exact congrArg (ite _ _) hport.symm)
    (by rw [(h .rig2).2]; exact congrArg (fun p => ite _ p _) hport.symm)]
  exact congrArg (fun t : State => t.arrive .rig2 next.rig2) (State.arrive_setPort_other hne emptied.rig2 next.rig1 _).symm

/-- A port that alone waited, on a write alone, hands it to the context that was found. -/
theorem State.arrive_single {u : State} {k c l : Nat} {w : RigWrite} {r : Rig} {p : PerRig (List RigRequest)}
    (hu : u.cache.ports = emptied) (h : q.Resumes p emptied next) (hq : q.waiting = (⟨false, false⟩ : PerRig Bool).set r true)
    (hp : p.get r = [.write w]) (hw : (rigPlace w.addr).lane = some (c, l)) (hc : u.cache.mapEntry c = some k) :
    (u.arrive .rig1 next.rig1).arrive .rig2 next.rig2 = u.handleLaneWrite k r w := by
  have hempty : u.cache.ports.get r = [] := by rw [hu, (h r).1, hq, PerRig.get_set_eq, if_pos rfl]
  have hnext : next.get r = [.write w] := by rw [(h r).2, hq, PerRig.get_set_eq, if_pos rfl, hp]
  have hother : ∀ r', r' ≠ r → next.get r' = [] := fun r' hr => by
    rw [(h r').2, hq, PerRig.get_set, if_neg hr]
    cases r' <;> rfl
  have harrive : u.arrive r [.write w] = u.handleLaneWrite k r w := State.rigRequest_handled hempty hw hc
  cases r with
  | rig1 =>
    rw [show next.rig1 = _ from hnext, show next.rig2 = _ from hother .rig2 nofun, harrive]
    rfl
  | rig2 =>
    rw [show next.rig2 = _ from hnext, show next.rig1 = _ from hother .rig1 nofun]
    exact harrive

end

/-! ### A load that ends without a context (R58, R59) -/

section
variable {s : State} {q : LoadRequest} {emptied behind : PerRig (List RigRequest)}

/-- The queues once each port that waited on the request is empty, and what arrives there anew but for the held write. -/
def LoadRequest.Drops (q : LoadRequest) (ports emptied behind : PerRig (List RigRequest)) : Prop :=
  ∀ r, emptied.get r = (if q.waiting.get r then [] else ports.get r)
    ∧ behind.get r = (if q.waiting.get r then (ports.get r).tail else [])

/-- What is counted at a port when its held write is dropped (R58). -/
def State.StrayAt (s : State) (r : Rig) (v : Nat) : Prop :=
  ((∃ w ws c l, s.cache.ports.get r = .write w :: ws ∧ rigPlace w.addr = .commit c l) →
      v = sat16 (s.cache.strayWrites.get r))
    ∧ ((∀ w ws c l, s.cache.ports.get r = .write w :: ws → rigPlace w.addr ≠ .commit c l) →
      v = s.cache.strayWrites.get r)

theorem State.countStray_eq {r : Rig} {v : Nat} (h : s.StrayAt r v) :
    s.countStray r = { s with cache := { s.cache with strayWrites := s.cache.strayWrites.set r v } } := by
  have hnone (hn : ∀ w ws c l, s.cache.ports.get r = .write w :: ws → rigPlace w.addr ≠ .commit c l) :
      s = { s with cache := { s.cache with strayWrites := s.cache.strayWrites.set r v } } := by
    rw [h.2 hn, PerRig.set_same _ _ _ rfl]
  unfold State.countStray
  split
  next w ws hp =>
    split
    next c l hplace => rw [h.1 ⟨w, ws, c, l, hp, hplace⟩]
    next hplace =>
      refine hnone fun w' ws' c l hp' hplace' => ?_
      rw [hp] at hp'
      cases hp'
      exact hplace c l hplace'
  next hp => exact hnone fun w ws c l hp' _ => hp w ws hp'

theorem State.dropHeld_other {u : Bool} {r : Rig} (hw : ¬q.waiting.get r = true) : s.dropHeld q u r = s := by
  rw [State.dropHeld, if_neg hw]

end

end Sys2Proof.Machine
end

section
/-! # The end of a load (R57 to R62)

What a load that ends leaves, before the ports that waited on it go on: without a context, in a context just filled, or in
none because each is in use. -/

namespace Sys2Proof.Machine

/-! ### A load that ends without a context (R58, R59) -/

section
variable {s : State} {q : LoadRequest} {emptied behind : PerRig (List RigRequest)} {stray : PerRig Nat}

/-- What both ports count, if each that waited counts its held write, `undefined` or not. -/
def State.StrayCounts (s : State) (q : LoadRequest) (undefined : Bool) (stray : PerRig Nat) : Prop :=
  ∀ r, (undefined = true ∧ q.waiting.get r = true → s.StrayAt r (stray.get r))
    ∧ (¬(undefined = true ∧ q.waiting.get r = true) → stray.get r = s.cache.strayWrites.get r)

theorem State.strayCounts_defined (s : State) (q : LoadRequest) : s.StrayCounts q false s.cache.strayWrites :=
  fun _ => ⟨fun h => absurd h.1 nofun, fun _ => rfl⟩

theorem State.dropHeld_eq {u : Bool} {r : Rig} {v : Nat} (hc : u = true ∧ q.waiting.get r = true → s.StrayAt r v)
    (hn : ¬(u = true ∧ q.waiting.get r = true) → v = s.cache.strayWrites.get r) : s.dropHeld q u r
      = { s with cache := { s.cache with
          strayWrites := s.cache.strayWrites.set r v
          ports := s.cache.ports.set r (if q.waiting.get r then (s.cache.ports.get r).tail else s.cache.ports.get r) } } := by
  by_cases hw : q.waiting.get r = true
  · rw [State.dropHeld, if_pos hw, if_pos hw]
    cases u with
    | true =>
      rw [if_pos rfl, State.countStray_eq (hc ⟨rfl, hw⟩)]
      rfl
    | false =>
      rw [hn (fun h => nomatch h.1), PerRig.set_same _ _ _ rfl]
      rfl
  · rw [State.dropHeld_other hw, if_neg hw, hn (fun h => hw h.2), PerRig.set_same _ _ _ rfl, PerRig.set_same _ _ _ rfl]

/-- The queues without the writes that were held for the request. -/
def LoadRequest.unheld (q : LoadRequest) (ports : PerRig (List RigRequest)) : PerRig (List RigRequest) :=
  ⟨if q.waiting.rig1 then ports.rig1.tail else ports.rig1, if q.waiting.rig2 then ports.rig2.tail else ports.rig2⟩

theorem LoadRequest.unheld_get (q : LoadRequest) (ports : PerRig (List RigRequest)) (r : Rig) : (q.unheld ports).get r
    = if q.waiting.get r then (ports.get r).tail else ports.get r := by cases r <;> rfl

theorem State.dropHeld_both {u : Bool} (hs : s.StrayCounts q u stray) : (s.dropHeld q u .rig1).dropHeld q u .rig2
    = { s with cache := { s.cache with strayWrites := stray, ports := q.unheld s.cache.ports } } := by
  rw [State.dropHeld_eq (v := stray.get .rig1) (hs .rig1).1 (hs .rig1).2]
  exact State.dropHeld_eq (v := stray.get .rig2) (hs .rig2).1 (hs .rig2).2

/-- A load that ends without a context, up to what stands behind the dropped writes. -/
theorem State.abandonLoad_eq {u : Bool} (hd : q.Drops s.cache.ports emptied behind) (hs : s.StrayCounts q u stray) :
    s.abandonLoad q u = (State.arrive { s with cache := { s.cache with
      loads := s.cache.loads.filter (fun p => p.channel != q.channel), ports := emptied, strayWrites := stray } }
        .rig1 behind.rig1).arrive .rig2 behind.rig2 := by
  have hdrop := State.dropHeld_both (s := { s with cache := s.cache.closeRequest q.channel }) hs
  rw [State.abandonLoad, hdrop]
  refine State.resumePorts_eq (s := { s with cache := { s.cache.closeRequest q.channel with
    strayWrites := stray, ports := q.unheld s.cache.ports } }) fun r => ?_
  rw [(hd r).1, (hd r).2, show (q.unheld s.cache.ports).get r = _ from q.unheld_get _ r]
  by_cases hw : q.waiting.get r = true <;> simp [hw]

end

/-! ### Memory that takes accesses in flight (R162) -/

theorem State.takeSends_frame : ∀ (sends : List CacheSend) (s : State), s.takeSends sends = { s with
    mem := (s.takeSends sends).mem
    cache := { s.cache with sends := (s.takeSends sends).cache.sends } }
  | [], _ => rfl
  | .cached _ _ :: rest, _ => State.takeSends_frame rest _
  | .read _ :: rest, s => State.takeSends_frame rest s
  | .writeback _ :: _, _ => rfl

/-! ### A load that fills a context (R61) -/

/-- The state once context `k` is filled, before what waited arrives at the emptied ports. -/
def State.loadedInto (s : State) (q : LoadRequest) (k : Nat) (d : DirEntry) (emptied : PerRig (List RigRequest)) : State :=
  let sent := State.takeSends { s with cache := s.cache.filled q k d s.part.period } (s.cache.sends ++ [.cached q.channel d])
  { sent with cache := { sent.cache with ports := emptied } }

section
variable {s : State} {q : LoadRequest} {k : Nat} {d : DirEntry} {emptied next : PerRig (List RigRequest)}

theorem State.completeLoad_eq (h : q.Resumes s.cache.ports emptied next) : s.completeLoad q k d
    = ((s.loadedInto q k d emptied).arrive .rig1 next.rig1).arrive .rig2 next.rig2 := by
  rw [State.completeLoad]
  refine State.resumePorts_eq ?_
  rw [State.takeSends_frame]
  exact h

/-- Of the state only DRAM and the cache's own parts change. -/
theorem State.loadedInto_eq : s.loadedInto q k d emptied = { s with
    mem := (s.loadedInto q k d emptied).mem
    cache := { s.cache with
      contexts := (s.loadedInto q k d emptied).cache.contexts, channelMap := (s.loadedInto q k d emptied).cache.channelMap
      lru := s.cache.lru ++ [k], loads := s.cache.loads.filter (fun p => p.channel != q.channel), ports := emptied
      sends := (s.loadedInto q k d emptied).cache.sends } } := by
  unfold State.loadedInto
  dsimp only
  rw [State.takeSends_frame]
  rfl

theorem State.contexts_loadedInto : (s.loadedInto q k d emptied).cache.contexts
    = (s.cache.modifyContext k (fun _ => Context.loaded q.channel d s.part.period)).contexts := by
  unfold State.loadedInto
  dsimp only
  rw [State.takeSends_frame]
  rfl

theorem State.context_loadedInto (j : Nat) : (s.loadedInto q k d emptied).context j
    = if j = k then Context.loaded q.channel d s.part.period else s.context j := by
  have hread : ∀ x y : Cache, x.contexts = y.contexts → x.context j = y.context j := fun x y h => by
    rw [Cache.context, h, Cache.context]
  exact (hread _ _ State.contexts_loadedInto).trans (Cache.context_modifyContext _ _ _ _)

theorem State.mapEntry_loadedInto (c : Nat) : (s.loadedInto q k d emptied).cache.mapEntry c
    = if c = q.channel then some k else s.cache.mapEntry c := by
  have hmap : (s.loadedInto q k d emptied).cache.channelMap
      = ((s.cache.modifyContext k (fun _ => Context.loaded q.channel d s.part.period)).setMapEntry q.channel (some k)).channelMap := by
    unfold State.loadedInto
    dsimp only
    rw [State.takeSends_frame]
    rfl
  have hread : ∀ x y : Cache, x.channelMap = y.channelMap → x.mapEntry c = y.mapEntry c := fun x y h => by
    rw [Cache.mapEntry, h, Cache.mapEntry]
  exact (hread _ _ hmap).trans (Cache.mapEntry_setMapEntry _ _ _ _)

/-- With nothing in flight the Cached write is in DRAM at once. -/
theorem State.loadedInto_idle (h : s.cache.sends = []) : (s.loadedInto q k d emptied).cache.sends = []
    ∧ (s.loadedInto q k d emptied).mem
      = writeWord s.mem (s.dirEntryAddr q.channel) { d with cached := true }.word0 := by
  unfold State.loadedInto
  rw [h]
  exact ⟨rfl, rfl⟩

/-- Behind a write-back in flight the Cached write waits. -/
theorem State.loadedInto_flying {j : Nat} {rest : List CacheSend} (h : s.cache.sends = .writeback j :: rest) :
    (s.loadedInto q k d emptied).cache.sends = s.cache.sends ++ [.cached q.channel d]
    ∧ (s.loadedInto q k d emptied).mem = s.mem := by
  unfold State.loadedInto
  rw [h]
  exact ⟨rfl, rfl⟩

/-- Word 0 of a loaded entry: defined and Cached (R52, R61). -/
theorem DirEntry.toNat_word0_cached (hd : d.defined = true) : ({ d with cached := true } : DirEntry).word0.toNat
    = 3 + 4 * (if d.kind = .data then 1 else 0) + 256 * (d.group % 8) := by
  rw [DirEntry.toNat_word0]
  dsimp only
  rw [hd]
  cases d.kind <;> rfl

end

/-! ### The teardown meanwhile (R15) -/

section
variable {s : State}

theorem State.advanceTeardown_none (h : s.sup.teardown = none) : s.advanceTeardown = s := by
  rw [State.advanceTeardown, h]

theorem State.sup_handleLaneWrite (s : State) (k : Nat) (r : Rig) (w : RigWrite) : (s.handleLaneWrite k r w).sup = s.sup :=
  ((State.Acts.refl (fill := true) (win := true) s).handleLaneWrite rfl k r w).keeps (fun h => by cases h <;> rfl)

theorem State.sup_serve (r : Rig) : ∀ (qs : List RigRequest) (s : State), (s.serve r qs).sup = s.sup
  | [], _ => rfl
  | .read a n :: qs, s => State.sup_serve r qs (s.answerRig r a n)
  | .write w :: qs, s => by
    unfold State.serve
    split
    · exact State.sup_serve r qs s
    · split
      · rw [State.sup_serve r qs, State.sup_handleLaneWrite]
      · rfl

theorem State.sup_rigRequest (s : State) (r : Rig) (q : RigRequest) : (s.rigRequest r q).sup = s.sup := by
  unfold State.rigRequest
  split
  · exact State.sup_serve r _ s
  · rfl

theorem State.sup_arrive (r : Rig) : ∀ (qs : List RigRequest) (s : State), (s.arrive r qs).sup = s.sup
  | [], _ => rfl
  | q :: qs, s => by
    rw [State.arrive, List.foldl_cons]
    exact (State.sup_arrive r qs _).trans (s.sup_rigRequest r q)

/-- With no teardown under way what arrives ends the row. -/
theorem State.advanceTeardown_arrive {u : State} (hu : u.sup.teardown = none) (xs ys : List RigRequest) :
    ((u.arrive .rig1 xs).arrive .rig2 ys).advanceTeardown = (u.arrive .rig1 xs).arrive .rig2 ys :=
  State.advanceTeardown_none (by rw [State.sup_arrive, State.sup_arrive, hu])

end

/-! ### The answer of a directory read (R57) -/

section
variable {s : State} {c : Nat} {q : LoadRequest}

theorem Cache.answerable_none {x : Cache} (h : x.readingRequest c = none ∨ CacheSend.read c ∈ x.sends) :
    x.answerable c = none := by
  rw [Cache.answerable]
  split
  · rfl
  · exact h.elim id fun hm => absurd hm ‹_›

theorem Cache.channel_of_readingRequest {x : Cache} (h : x.readingRequest c = some q) : q.channel = c := by
  have hq := List.find?_some h
  simp only [Bool.and_eq_true, beq_iff_eq] at hq
  exact hq.1

theorem exec_loadDone_early (h : s.cache.readingRequest c = none ∨ CacheSend.read c ∈ s.cache.sends) (e : Bool) :
    exec (.contextLoadReadDone c e) s = .next s := by
  change Host.Outcome.next _ = _
  rw [Cache.answerable_none h]

theorem exec_loadDone (hq : s.cache.readingRequest c = some q) (hm : CacheSend.read c ∉ s.cache.sends) (e : Bool) :
    exec (.contextLoadReadDone c e) s = .next (s.loadReadDone q e).advanceTeardown := by
  change Host.Outcome.next _ = _
  rw [show s.cache.answerable c = some q from (if_neg hm).trans hq]

theorem State.loadReadDone_error : s.loadReadDone q true = s.loadReadError q := rfl

theorem State.loadReadDone_defined {d : DirEntry} (hd : d = s.dirEntry q.channel) (h : d.defined = true) :
    s.loadReadDone q false = s.stage2 q d := by
  subst hd
  rw [State.loadReadDone, if_neg nofun, if_pos h]

theorem State.loadReadDone_undefined (h : (s.dirEntry q.channel).defined = false) :
    s.loadReadDone q false = s.abandonLoad q true := by
  rw [State.loadReadDone, if_neg nofun, if_neg (by rw [h]; nofun)]

theorem State.stage2_free {d : DirEntry} {k : Nat} (h : s.cache.lowestFree = some k) :
    s.stage2 q d = (s.setContextExhausted false).completeLoad q k d := by
  rw [State.stage2, h]

theorem State.stage2_victim {d : DirEntry} {k : Nat} (h : s.cache.lowestFree = none) (hv : s.cache.victim = some k) :
    s.stage2 q d = { s with cache := { s.cache.evict k q.channel d with exhaustReported := false } } := by
  rw [State.stage2, h]
  simp only [hv]

theorem State.stage2_none {d : DirEntry} (h : s.cache.lowestFree = none) (hv : s.cache.victim = none) :
    s.stage2 q d = (s.reportContextExhausted q d).abandonLoad q false := by
  rw [State.stage2, h]
  simp only [hv]

theorem State.reportContextExhausted_eq (d : DirEntry) : s.reportContextExhausted q d = { s with
    cache := { s.cache with exhaustReported := true }
    notices := if s.cache.exhaustReported = true ∨ s.part.state = .quiet then s.notices else s.notices.post
      { group := some d.group, source := some q.starter, period := s.part.period
        body := .contextExhausted q.channel q.starterLane s.cache.validContexts.length s.cache.streamingCount } } := by
  unfold State.reportContextExhausted
  by_cases h : s.cache.exhaustReported = true
  · rw [if_pos h, if_pos (Or.inl h), ← h]
  · rw [if_neg h, ite_of_iff (or_iff_right h) rfl rfl]
    rfl

end

end Sys2Proof.Machine
end

section
/-! # The answer of a load's directory read, settled (R57 to R62) -/

namespace Sys2Proof.Machine

section
variable {s : State} {q : LoadRequest} {emptied behind : PerRig (List RigRequest)}

/-- A load that ends without a context, with no teardown under way: the row ends with what stands behind the held writes. -/
theorem exec_loadDone_abandons {t : State} {e u : Bool} {stray : PerRig Nat} (hnone : s.sup.teardown = none)
    (hq : s.cache.readingRequest q.channel = some q) (hm : CacheSend.read q.channel ∉ s.cache.sends)
    (hdone : s.loadReadDone q e = t.abandonLoad q u) (hsup : t.sup = s.sup)
    (hd : q.Drops t.cache.ports emptied behind) (hs : t.StrayCounts q u stray) :
    exec (.contextLoadReadDone q.channel e) s = .next ((State.arrive { t with cache := { t.cache with
      loads := t.cache.loads.filter (fun p => p.channel != q.channel), ports := emptied, strayWrites := stray } }
        .rig1 behind.rig1).arrive .rig2 behind.rig2) := by
  rw [exec_loadDone hq hm, hdone, State.abandonLoad_eq hd hs]
  have hteardown : t.sup.teardown = none := by rw [hsup, hnone]
  exact congrArg Host.Outcome.next (State.advanceTeardown_arrive (by exact hteardown) _ _)

/-- A read of an undefined channel counts the held commits alone. -/
theorem State.strayCounts_undefined {stray : PerRig Nat} (h : ∀ r,
    ((q.waiting.get r = true ∧ ∃ w ws c l, s.cache.ports.get r = .write w :: ws ∧ rigPlace w.addr = .commit c l) →
      stray.get r = sat16 (s.cache.strayWrites.get r))
    ∧ ((q.waiting.get r = false ∨ ∀ w ws c l, s.cache.ports.get r = .write w :: ws → rigPlace w.addr ≠ .commit c l) →
      stray.get r = s.cache.strayWrites.get r)) : s.StrayCounts q true stray :=
  fun r => ⟨fun hw => ⟨fun hp => (h r).1 ⟨hw.2, hp⟩, fun hp => (h r).2 (Or.inr hp)⟩,
    fun hw => (h r).2 (Or.inl (Bool.eq_false_iff.2 fun hq => hw ⟨rfl, hq⟩))⟩

/-- The last load of a teardown ends on a read error: the write-backs of step 5 begin (R15, R58). -/
theorem State.loadError_teardown (ht : s.sup.teardown = some .waitingLoads) (hl : s.cache.loads = [q])
    (hw : q.waiting = ⟨false, false⟩) : (s.loadReadError q).advanceTeardown = { s with
      cache := { s.cache with contexts := [], channelMap := [], lru := [], loads := [] }
      notices := if s.part.state = .quiet then s.notices else s.notices.post
        { group := none, source := some q.starter, period := s.part.period, body := .memoryFaultLoad q.channel }
      sup := { s.sup with teardown := some (.writingBack (s.cache.validContexts.map
        (fun k => (s.dirEntryAddr (s.context k).channel, (s.context k).dirEntry.words)))) } } := by
  have hnot : ∀ r, ¬q.waiting.get r = true := fun r => by rw [hw]; cases r <;> nofun
  have hloads : s.cache.loads.filter (fun p => p.channel != q.channel) = [] := by
    rw [hl, List.filter_cons_of_neg (by simp), List.filter_nil]
  have hdone : s.loadReadError q = { s.post none (some q.starter) (.memoryFaultLoad q.channel) with
      cache := { s.cache with loads := [] } } := by
    rw [State.loadReadError, State.abandonLoad, State.dropHeld_other (hnot _), State.dropHeld_other (hnot _),
      State.resumePorts, State.resumePort, if_neg (hnot _), State.resumePort, if_neg (hnot _), ← hloads]
    rfl
  rw [hdone, State.advanceTeardown]
  simp only [State.post_sup, ht]
  rfl

end

section
variable {s : State} {q : LoadRequest} {k : Nat} {d : DirEntry}

theorem State.context_evict (j : Nat) : (s.cache.evict k q.channel d).context j
    = if j = k then { s.context k with residence := .evicting } else s.context j :=
  Cache.context_modifyContext (s.cache.setMapEntry (s.context k).channel none) k j (fun y => { y with residence := .evicting })

theorem State.mapEntry_evict : (s.cache.evict k q.channel d).mapEntry (s.context k).channel = none :=
  (s.cache.mapEntry_setMapEntry (s.context k).channel (s.context k).channel none).trans (if_pos rfl)

end

/-- Settles O47, by what the read finds and, of a defined channel, by the context it obtains. -/
theorem contextLoad : Obligations.ContextLoad := by
  refine ⟨fun x => ⟨x.lowestFree_eq_some, x.lowestFree_eq_none, x.victim_eq_some, x.victim_eq_none⟩,
    fun y => ⟨y.evictable_iff, fun h r l => Context.lane_of_evictable h r l⟩,
    fun s c q d emptied next behind hd hports => ⟨fun h e => exec_loadDone_early h e, fun hnone hq hm => ?answered,
      fun ht hq hm hl hw => ?teardown⟩⟩
  case teardown =>
    obtain rfl := Cache.channel_of_readingRequest hq
    exact (exec_loadDone hq hm true).trans (congrArg Host.Outcome.next (State.loadError_teardown ht hl hw))
  case answered =>
    obtain rfl := Cache.channel_of_readingRequest hq
    have hresumes : q.Resumes s.cache.ports emptied next := fun r => ⟨(hports r).1, (hports r).2.1⟩
    have hdrops : q.Drops s.cache.ports emptied behind := fun r => ⟨(hports r).1, (hports r).2.2⟩
    have hdone := fun hdef : d.defined = true => (exec_loadDone hq hm false).trans
      (congrArg (fun t : State => Host.Outcome.next t.advanceTeardown) (State.loadReadDone_defined hd hdef))
    refine ⟨fun u hu => ?error, fun u stray hdef hstray hu => ?undefined, fun k hdef hfree => ?free,
      fun k hdef hfree hvictim => ?victim, fun u hdef hfree hvictim hu => ?exhausted⟩
    case error =>
      subst hu
      exact exec_loadDone_abandons (t := s.post none (some q.starter) (.memoryFaultLoad q.channel)) hnone hq hm
        State.loadReadDone_error rfl hdrops (State.strayCounts_defined _ q)
    case undefined =>
      subst hu hd
      exact exec_loadDone_abandons hnone hq hm (State.loadReadDone_undefined hdef) rfl hdrops
        (State.strayCounts_undefined hstray)
    case exhausted =>
      subst hu
      have hreport := s.reportContextExhausted_eq (q := q) d
      exact exec_loadDone_abandons hnone hq hm
        (((State.loadReadDone_defined hd hdef).trans (State.stage2_none hfree hvictim)).trans
          (congrArg (fun t : State => t.abandonLoad q false) hreport)) rfl hdrops (State.strayCounts_defined _ q)
    case victim =>
      refine ⟨_, (hdone hdef).trans (congrArg Host.Outcome.next
        ((congrArg State.advanceTeardown (State.stage2_victim hfree hvictim)).trans (State.advanceTeardown_none hnone))),
        rfl, ?_, fun k' hk => ?_, State.mapEntry_evict (q := q) (d := d), rfl, rfl, rfl, rfl, rfl⟩
      · exact (State.context_evict (q := q) (d := d) k).trans (if_pos rfl)
      · exact (State.context_evict (q := q) (d := d) k').trans (if_neg hk)
    case free =>
      have hload := State.completeLoad_eq (s := s.setContextExhausted false) (q := q) (k := k) (d := d) hresumes
      have hframe := State.loadedInto_eq (s := s.setContextExhausted false) (q := q) (k := k) (d := d) (emptied := emptied)
      have hcontext := State.context_loadedInto (s := s.setContextExhausted false) (q := q) (k := k) (d := d)
        (emptied := emptied)
      have hmap := State.mapEntry_loadedInto (s := s.setContextExhausted false) (q := q) (k := k) (d := d)
        (emptied := emptied)
      have hidle := State.loadedInto_idle (s := s.setContextExhausted false) (q := q) (k := k) (d := d) (emptied := emptied)
      have hflying := fun j rest => State.loadedInto_flying (s := s.setContextExhausted false) (q := q) (k := k) (d := d)
        (emptied := emptied) (j := j) (rest := rest)
      generalize (s.setContextExhausted false).loadedInto q k d emptied = u at hload hframe hcontext hmap hidle hflying
      have husup : u.sup.teardown = none := by rw [hframe]; exact hnone
      have hends := (hdone hdef).trans (congrArg Host.Outcome.next
        ((congrArg State.advanceTeardown ((State.stage2_free hfree).trans hload)).trans
          (State.advanceTeardown_arrive husup _ _)))
      have hentry : u.cache.mapEntry q.channel = some k := (hmap q.channel).trans (if_pos rfl)
      refine ⟨u, hends, fun r w l hw hp hlane => hends.trans (congrArg Host.Outcome.next ?_), hframe,
        (hcontext k).trans (if_pos rfl), fun k' hk => (hcontext k').trans (if_neg hk), hentry,
        fun c' hc => (hmap c').trans (if_neg hc), fun hs => ?_, fun j rest hs => ?_⟩
      · exact State.arrive_single (by rw [hframe]) hresumes hw hp hlane hentry
      · obtain ⟨hsends, hmem⟩ := hidle hs
        refine ⟨hsends, ?_, fun y hy => ?_⟩
        · rw [hmem, ← DirEntry.toNat_word0_cached hdef]
          exact congrArg BitVec.toNat (readWord_writeWord _ _ _)
        · rw [hmem]
          exact readByte_writeWord_of_outside _ _ hy
      · exact (hflying j rest hs).symm

end Sys2Proof.Machine
end

section
/-! # The end of an eviction's write-back (R52, R56, R60, R61, R162) -/

namespace Sys2Proof.Machine

/-! ### A write of one run of words, part of it taken -/

section
variable {m : Memory} {a l : Nat} {ws : List Word}

theorem takeWrites_run : takeWrites m (afterWords l [(a, ws)]) = writeWords m (a + 4 * min l ws.length) (ws.drop l) := rfl

theorem landFirst_run {k : Nat} (h : l ≤ ws.length) : landFirst m k (afterWords l [(a, ws)])
    = writeWords m (a + 4 * l) ((ws.drop l).take k) := by
  simp [landFirst, afterWords, firstWords, takeWrites, Nat.min_eq_left h]

theorem wordCount_run : wordCount (afterWords l [(a, ws)]) = ws.length - l := by
  simp [wordCount, afterWords]

end

/-! ### The write-back that is first in flight -/

section
variable {s : State} {k : Nat} {rest : List CacheSend}

theorem exec_evictionEnd_early (h : s.cache.sends.head? ≠ some (.writeback k)) : exec (.evictionWritebackEnd k) s = .next s :=
  congrArg Host.Outcome.next (if_neg h)

theorem exec_evictionEnd (h : s.cache.sends.head? = some (.writeback k)) :
    exec (.evictionWritebackEnd k) s = .next (s.evictionEnds k).advanceTeardown := congrArg Host.Outcome.next (if_pos h)

/-- The directory values of a context fill its whole entry. -/
theorem Context.length_words (x : Context) : x.dirEntry.words.length = 8 := rfl

theorem State.writebackInFlight_eq (h : s.cache.sends.head? = some (.writeback k)) : s.writebackInFlight
    = afterWords s.landed.writeback [(s.dirEntryAddr (s.context k).channel, (s.context k).dirEntry.words)] := by
  unfold State.writebackInFlight
  cases hs : s.cache.sends with
  | nil => rw [hs] at h; exact nomatch h
  | cons w ws =>
    rw [hs] at h
    cases Option.some.inj h
    rfl

theorem State.took_writeback (h : s.cache.sends.head? = some (.writeback k)) (hl : s.landed.writeback ≤ 7) (n : Nat) :
    s.took n .writeback = { s with
      mem := writeWords s.mem (s.dirEntryAddr (s.context k).channel + 4 * s.landed.writeback)
        (((s.context k).dirEntry.words.drop s.landed.writeback).take (min (s.landed.writeback + n) 7 - s.landed.writeback))
      landed := { s.landed with writeback := min (s.landed.writeback + n) 7 } } := by
  have hcount : beforeLast n s.writebackInFlight = min (s.landed.writeback + n) 7 - s.landed.writeback := by
    rw [beforeLast, State.writebackInFlight_eq h, wordCount_run, Context.length_words]
    omega
  have hadd : s.landed.writeback + (min (s.landed.writeback + n) 7 - s.landed.writeback) = min (s.landed.writeback + n) 7 := by
    omega
  rw [State.took]
  dsimp only
  rw [hcount, State.land, State.writebackInFlight_eq h,
    landFirst_run (Nat.le_trans hl (by rw [Context.length_words]; omega)), State.countLanded, hadd]

/-- DRAM once the write-back is taken to its end. -/
theorem State.mem_writebackTaken (h : s.cache.sends = .writeback k :: rest) : s.writebackTaken.mem
    = writeWords s.mem (s.dirEntryAddr (s.context k).channel + 4 * min s.landed.writeback 8)
      ((s.context k).dirEntry.words.drop s.landed.writeback) := by
  rw [State.writebackTaken, State.writebackInFlight_eq (by rw [h]; rfl)]
  exact takeWrites_run

/-! ### What a write-back lets begin (R56, R66) -/

theorem LoadRequest.awaits_iff (q : LoadRequest) (c : Nat) : q.awaits c = true ↔ q.channel = c ∧ q.stage = .waitWriteback := by
  simp [LoadRequest.awaits]

theorem Cache.startRead_eq (x : Cache) (c : Nat) : x.startRead c = { x with
    loads := x.loads.map (fun p => if p.channel = c ∧ p.stage = .waitWriteback then { p with stage := .reading } else p)
    sends := x.sends ++ (if x.sends ≠ [] ∧ ∃ p ∈ x.loads, p.channel = c ∧ p.stage = .waitWriteback then [.read c] else []) } := by
  have hloads : x.loads.map (fun q => if q.awaits c then { q with stage := .reading } else q)
      = x.loads.map (fun p => if p.channel = c ∧ p.stage = .waitWriteback then { p with stage := .reading } else p) :=
    List.map_congr_left fun p _ => ite_of_iff (p.awaits_iff c) rfl rfl
  have hany : x.loads.any (fun q => q.awaits c) = true ↔ ∃ p ∈ x.loads, p.channel = c ∧ p.stage = .waitWriteback := by
    simp only [List.any_eq_true, LoadRequest.awaits_iff]
  rw [Cache.startRead, hloads]
  by_cases ha : ∃ p ∈ x.loads, p.channel = c ∧ p.stage = .waitWriteback
  · rw [if_pos (hany.2 ha), Cache.sendRead]
    by_cases hs : x.sends = []
    · rw [if_pos (List.isEmpty_iff.2 hs), if_neg fun h : x.sends ≠ [] ∧ _ => h.1 hs, List.append_nil]
    · rw [if_neg fun h => hs (List.isEmpty_iff.1 h), if_pos ⟨hs, ha⟩]
  · rw [if_neg fun h => ha (hany.1 h), if_neg fun h => ha h.2, List.append_nil]

/-- What an access writes but for a write-back is fixed by the directory's place. -/
theorem State.cacheWrite_congr {t : State} (h : t.sup.anchor = s.sup.anchor) {w : CacheSend} (hw : ∀ j, w ≠ .writeback j) :
    t.cacheWrite w = s.cacheWrite w := by
  cases w with
  | writeback j => exact absurd rfl (hw j)
  | cached c d => rw [State.cacheWrite, State.cacheWrite, State.dirEntryAddr, State.dirEntryAddr, State.dirBase, State.dirBase, h]
  | read c => rw [State.cacheWrite, State.cacheWrite, State.dirEntryAddr, State.dirEntryAddr, State.dirBase, State.dirBase, h]

/-- The accesses that are taken as the context is filled. -/
theorem State.loadedInto_taken {q : LoadRequest} {d : DirEntry} {emptied : PerRig (List RigRequest)}
    {taken flying : List CacheSend} (h : s.cache.sends ++ [.cached q.channel d] = taken ++ flying)
    (ht : ∀ j, CacheSend.writeback j ∉ taken) (hf : ∀ p, flying.head? = some p → ∃ j, p = .writeback j) :
    (s.loadedInto q k d emptied).cache.sends = flying
      ∧ (s.loadedInto q k d emptied).mem = takeWrites s.mem (taken.map s.cacheWrite) := by
  unfold State.loadedInto
  dsimp only
  rw [h, State.takeSends_taken flying hf taken _ ht]
  refine ⟨rfl, congrArg (takeWrites s.mem) (List.map_congr_left fun w hw => ?_)⟩
  exact State.cacheWrite_congr (s := s) (t := { s with cache := s.cache.filled q k d s.part.period }) rfl
    fun j hj => ht j (hj ▸ hw)

end

/-! ### The state once the write-back is in DRAM -/

/-- The state once the write-back of context `k` is taken and what waited on its entry has begun. -/
def State.writtenBack (s : State) (k : Nat) : State := s.writebackTaken.writebackDone (s.context k).channel

section
variable {s : State} {k : Nat} {rest : List CacheSend}

theorem State.writtenBack_eq (h : s.cache.sends = .writeback k :: rest) {x : Context} (hx : x = s.context k)
    {reads : List CacheSend}
    (hreads : reads = if rest ≠ [] ∧ ∃ p ∈ s.cache.loads, p.channel = x.channel ∧ p.stage = .waitWriteback
      then [.read x.channel] else []) : s.writtenBack k = { s with
    mem := writeWords s.mem (s.dirEntryAddr x.channel + 4 * min s.landed.writeback 8)
      (x.dirEntry.words.drop s.landed.writeback)
    landed := { s.landed with writeback := 0 }
    cache := { s.cache with
      loads := s.cache.loads.map (fun p => if p.channel = x.channel ∧ p.stage = .waitWriteback then
        { p with stage := .reading } else p)
      sends := rest ++ reads }
    sup := { s.sup with command := { s.sup.command with
      directoryWait := if s.sup.command.directoryWait = .writeback ∧ s.cmdChannel = x.channel then .read
        else s.sup.command.directoryWait } } } := by
  subst hx hreads
  rw [State.writtenBack, State.writebackDone, Cache.startRead_eq, State.mem_writebackTaken h]
  simp only [State.writebackTaken, h, List.tail_cons]
  rfl

theorem State.evictionEnds_none (h : s.cache.evictingRequest k = none) : s.evictionEnds k
    = ((s.writtenBack k).takeSends (s.writtenBack k).cache.sends).modifyContext k (fun _ => Context.initial) := by
  rw [State.evictionEnds, h]
  rfl

theorem State.evictionEnds_some {q : LoadRequest} {d : DirEntry} (h : s.cache.evictingRequest k = some (q, d)) :
    s.evictionEnds k = (s.writtenBack k).completeLoad q k d := by
  rw [State.evictionEnds, h]
  rfl

end

end Sys2Proof.Machine
end

section
/-! # The end of an eviction's write-back, settled (R52, R56, R60, R61) -/

namespace Sys2Proof.Machine

/-! ### Two entries of the directory -/

section
variable {s : State} {x : Context}

theorem State.entries_apart {c d : Nat} (h : d ≠ c) :
    s.dirEntryAddr c + 32 ≤ s.dirEntryAddr d ∨ s.dirEntryAddr d + 32 ≤ s.dirEntryAddr c := by
  unfold State.dirEntryAddr dirAddr
  omega

/-- A word of an entry that is written back, after a word of another entry is written. -/
theorem readWord_entry_behind {m : Memory} {e f i : Nat} {w : Word} (h : e + 32 ≤ f ∨ f + 32 ≤ e) (hi : i < 8) :
    readWord (writeWord (writeWords m e x.dirEntry.words) f w) (e + 4 * i) = x.dirEntry.words.getD i 0 := by
  rw [readWord_writeWord_of_outside _ _ (by omega), readWord_writeWords _ _ _ hi]

theorem Context.toNat_word0 (x : Context) : x.dirEntry.word0.toNat
    = 1 + 4 * (if x.kind = .data then 1 else 0) + 256 * (x.group % 8) := by
  rw [DirEntry.toNat_word0, Context.dirEntry]
  cases x.kind <;> rfl

end

/-! ### The end of the row with a teardown under way (R15) -/

section
variable {s : State} {k : Nat} {q : LoadRequest} {d : DirEntry}

/-- The write-back of a context just filled is among those of step 5. -/
theorem State.loadedInto_writebacks (emptied : PerRig (List RigRequest)) :
    (s.dirEntryAddr q.channel, (Context.loaded q.channel d s.part.period).dirEntry.words)
      ∈ (s.loadedInto q k d emptied).writebacks := by
  have hframe := State.loadedInto_eq (s := s) (q := q) (k := k) (d := d) (emptied := emptied)
  have hcontext := State.context_loadedInto (s := s) (q := q) (k := k) (d := d) (emptied := emptied) k
  generalize s.loadedInto q k d emptied = u at hframe hcontext
  rw [if_pos rfl] at hcontext
  have hin : (k, u.context k) ∈ u.cache.contexts := by
    refine Table.mem_of_get Context.initial _ k ?_
    rw [show Table.get Context.initial u.cache.contexts k = u.context k from rfl, hcontext]
    exact fun h => nomatch congrArg Context.residence h
  have hvalid : k ∈ u.cache.validContexts := by
    rw [Cache.validContexts]
    refine List.mem_map.2 ⟨_, List.mem_filter.2 ⟨hin, ?_⟩, rfl⟩
    rw [hcontext]
    rfl
  have haddr : ∀ c, u.dirEntryAddr c = s.dirEntryAddr c := fun c => by rw [hframe]; rfl
  rw [State.writebacks]
  refine List.mem_map.2 ⟨k, hvalid, ?_⟩
  rw [hcontext, haddr]
  rfl

/-- With the last load gone the write-backs of step 5 begin. -/
theorem State.advanceTeardown_waited (h : s.sup.teardown = some .waitingLoads) (hl : s.cache.loads = []) :
    s.advanceTeardown = { s with cache := { s.cache with contexts := [], channelMap := [], lru := [] } }.setTeardown
      (some (.writingBack s.writebacks)) := by
  rw [State.advanceTeardown, h]
  exact State.invalidateContexts_sends _ hl

end

/-- Settles O48, by what is first in flight and by the request that waits for the context. -/
theorem eviction : Obligations.Eviction := by
  intro s k e f x q d rest reads emptied next hx he hf hreads hports
  have hresumes : q.Resumes s.cache.ports emptied next := hports
  subst he hf
  refine ⟨exec_evictionEnd_early, fun hhead hl n => ⟨?again, _, rfl, ?took⟩, fun hnone hs hreq => ?filled,
    fun hnone hs hreq => ?given_up, fun ht hs hreq hloads hw => ?teardown⟩
  case again => exact s.evictionEnd_took n k hhead
  case took => rw [State.took_writeback hhead hl, ← hx]
  case given_up =>
    have hwritten := State.writtenBack_eq hs hx hreads
    have hsent := State.takeSends_frame (s.writtenBack k).cache.sends (s.writtenBack k)
    have hexec := (exec_evictionEnd (by rw [hs]; rfl)).trans (congrArg (fun t : State => Host.Outcome.next t.advanceTeardown)
      (State.evictionEnds_none hreq))
    have hmem : rest = [] → (s.writtenBack k).takeSends (s.writtenBack k).cache.sends = s.writtenBack k := fun hr => by
      subst hr hreads
      rw [hwritten]
      rfl
    generalize (s.writtenBack k).takeSends (s.writtenBack k).cache.sends = u at hexec hsent hmem
    have husup : u.sup.teardown = none := by rw [hsent, hwritten]; exact hnone
    refine ⟨_, hexec.trans (congrArg Host.Outcome.next (State.advanceTeardown_none (by exact husup))), ?_, fun hr y hy => ?_⟩
    · rw [State.context_modifyContext, if_pos rfl]
      rfl
    · have hy' : y < s.dirEntryAddr x.channel + 4 * min s.landed.writeback 8
          ∨ s.dirEntryAddr x.channel + 4 * min s.landed.writeback 8 + 4 * (x.dirEntry.words.drop s.landed.writeback).length ≤ y := by
        rw [List.length_drop, Context.length_words]
        omega
      have humem := hmem hr
      rw [hwritten] at humem
      rw [show (u.modifyContext k fun _ => Context.initial).mem = u.mem from rfl, humem]
      exact readByte_writeWords_of_outside _ _ _ hy'
  case teardown =>
    have hwritten := State.writtenBack_eq (reads := []) hs hx (if_neg fun h => h.1 rfl).symm
    have hsends : (s.writtenBack k).cache.sends = [] := by rw [hwritten]; rfl
    have hload := State.completeLoad_eq (s := s.writtenBack k) (q := q) (k := k) (d := d) (emptied := emptied)
      (next := next) (by rw [hwritten]; exact hresumes)
    have hnext : ∀ r, next.get r = [] := fun r => by rw [(hports r).2, hw]; cases r <;> rfl
    rw [show next.rig1 = [] from hnext .rig1, show next.rig2 = [] from hnext .rig2] at hload
    have hframe := State.loadedInto_eq (s := s.writtenBack k) (q := q) (k := k) (d := d) (emptied := emptied)
    have htaken := State.loadedInto_taken (s := s.writtenBack k) (k := k) (emptied := emptied)
      (taken := [.cached q.channel d]) (flying := []) (by rw [hsends]; rfl) (by simp) nofun
    have hmember := State.loadedInto_writebacks (s := s.writtenBack k) (q := q) (k := k) (d := d) emptied
    have hdone := (State.evictionEnds_some hreq).trans hload
    change s.evictionEnds k = (s.writtenBack k).loadedInto q k d emptied at hdone
    generalize (s.writtenBack k).loadedInto q k d emptied = u at hdone hframe htaken hmember
    have hteardown : u.sup.teardown = some .waitingLoads := by rw [hframe, hwritten]; exact ht
    have hempty : u.cache.loads = [] := by
      rw [hframe, hwritten]
      dsimp only
      rw [hloads, List.map_singleton, List.filter_cons_of_neg, List.filter_nil]
      split <;> simp
    have hexec := (exec_evictionEnd (by rw [hs]; rfl)).trans (congrArg (fun t : State => Host.Outcome.next t.advanceTeardown) hdone)
    rw [State.advanceTeardown_waited hteardown hempty] at hexec
    refine ⟨_, hexec, rfl, rfl, rfl, hempty, htaken.1, htaken.2.trans ?_, _, rfl, ?_⟩
    · rw [hwritten]
      rfl
    · rw [hwritten] at hmember
      exact hmember
  case filled =>
    have hwritten := State.writtenBack_eq hs hx hreads
    have hload := State.completeLoad_eq (s := s.writtenBack k) (q := q) (k := k) (d := d) (emptied := emptied)
      (next := next) (by rw [hwritten]; exact hresumes)
    have hframe := State.loadedInto_eq (s := s.writtenBack k) (q := q) (k := k) (d := d) (emptied := emptied)
    have hcontext := State.context_loadedInto (s := s.writtenBack k) (q := q) (k := k) (d := d) (emptied := emptied)
    have hmap := State.mapEntry_loadedInto (s := s.writtenBack k) (q := q) (k := k) (d := d) (emptied := emptied)
    have htaken := fun taken flying => State.loadedInto_taken (s := s.writtenBack k) (q := q) (k := k) (d := d)
      (emptied := emptied) (taken := taken) (flying := flying)
    have hdone := (State.evictionEnds_some hreq).trans hload
    generalize (s.writtenBack k).loadedInto q k d emptied = u at hdone hframe hcontext hmap htaken
    rw [hwritten] at hframe hcontext hmap htaken
    have hteardown : u.sup.teardown = none := by rw [hframe]; exact hnone
    have hexec := (exec_evictionEnd (by rw [hs]; rfl)).trans (congrArg Host.Outcome.next
      ((congrArg State.advanceTeardown hdone).trans (State.advanceTeardown_arrive hteardown _ _)))
    have hentry : u.cache.mapEntry q.channel = some k := (hmap q.channel).trans (if_pos rfl)
    have hmem : ∀ taken flying, rest ++ reads ++ [.cached q.channel d] = taken ++ flying →
        (∀ j, CacheSend.writeback j ∉ taken) → (∀ p, flying.head? = some p → ∃ j, p = .writeback j) →
        u.cache.sends = flying ∧ u.mem = takeWrites (writeWords s.mem (s.dirEntryAddr x.channel + 4 * min s.landed.writeback 8)
          (x.dirEntry.words.drop s.landed.writeback)) (taken.map s.cacheWrite) := fun taken flying h ht hf => by
      obtain ⟨hsends, hmem⟩ := htaken taken flying h ht hf
      refine ⟨hsends, hmem.trans (congrArg (takeWrites _) (List.map_congr_left fun w hw => ?_))⟩
      exact State.cacheWrite_congr (s := s) rfl fun j hj => ht j (hj ▸ hw)
    refine ⟨u, hexec, fun r w l hw hp hlane => hexec.trans (congrArg Host.Outcome.next ?_), hframe,
      (hcontext k).trans (if_pos rfl), fun k' hk => (hcontext k').trans (if_neg hk), hentry,
      fun c' hc => (hmap c').trans (if_neg hc), hmem, fun p c' => ⟨rfl, rfl⟩, fun hr hne hzero => ?_⟩
    · exact State.arrive_single (by rw [hframe]) hresumes hw hp hlane hentry
    · have hnoreads : rest ++ reads = [] := by rw [hreads, hr]; rfl
      obtain ⟨hsends, hall⟩ := hmem [.cached q.channel d] [] (by rw [hnoreads]; rfl) (by simp) nofun
      rw [hzero, Nat.zero_min, Nat.mul_zero, Nat.add_zero, List.drop_zero] at hall
      replace hall : u.mem = writeWord (writeWords s.mem (s.dirEntryAddr x.channel) x.dirEntry.words)
        (s.dirEntryAddr q.channel) { d with cached := true }.word0 := hall
      have hword := fun i (hi : i < 8) => readWord_entry_behind (m := s.mem) (x := x)
        (w := { d with cached := true }.word0) (s.entries_apart hne) hi
      rw [← hall] at hword
      refine ⟨hsends, ?_, hword 1 (by omega), hword 2 (by omega), fun hdef => ?_, fun y hy hy' => ?_⟩
      · rw [← x.toNat_word0]
        exact congrArg BitVec.toNat (hword 0 (by omega))
      · rw [hall, readWord_writeWord]
        exact DirEntry.toNat_word0_cached hdef
      · rw [hall, readByte_writeWord_of_outside _ _ hy']
        exact readByte_writeWords_of_outside _ _ _ hy

end Sys2Proof.Machine
end

section
/-! # The release and the recycle of a slot (R101 to R103) -/

namespace Sys2Proof.Machine

/-! ### The recycle of the slot that carries PlayBase (R103) -/

section
variable (s : State) (g : Nat)

/-- The slot that carries PlayBase, before it is recycled. -/
def State.baseSlot (s : State) (g : Nat) : Slot := s.slot g ((s.ring g).playBase % 16)

theorem State.slot_recycle (h j : Nat) : (s.recycle g).slot h j
    = if h = g ∧ j = (s.ring g).playBase % 16 then (s.baseSlot g).recycled ((s.ring g).playBase + 16) else s.slot h j := by
  have hemptied := (s.claim (fun p => p.unpinMap (s.baseSlot g).map)).slot_modifySlot g h ((s.ring g).playBase % 16) j
    (fun sl => sl.recycled ((s.ring g).playBase + 16))
  unfold State.recycle
  rw [State.slot_modifyRing]
  refine Eq.trans ?_ hemptied
  split
  next hg => rw [hg]; rfl
  next => rfl

theorem State.ring_recycle (h : Nat) : (s.recycle g).ring h = if h = g then
    { (s.ring g).modifySlot ((s.ring g).playBase % 16) (fun sl => sl.recycled ((s.ring g).playBase + 16)) with
      playBase := (s.ring g).playBase + 1 } else s.ring h := by
  have hemptied := (s.claim (fun p => p.unpinMap (s.baseSlot g).map)).ring_modifySlot g h ((s.ring g).playBase % 16)
    (fun sl => sl.recycled ((s.ring g).playBase + 16))
  have hsame := (s.claim (fun p => p.unpinMap (s.baseSlot g).map)).ring_modifySlot g g ((s.ring g).playBase % 16)
    (fun sl => sl.recycled ((s.ring g).playBase + 16))
  rw [if_pos rfl] at hsame
  unfold State.recycle
  rw [State.ring_modifyRing]
  split
  next => exact congrArg (fun r : Ring => { r with playBase := (s.ring g).playBase + 1 }) hsame
  next hne =>
    rw [if_neg hne] at hemptied
    exact hemptied

/-- A recycle drops the slot's pins, empties the slot for the number 16 higher and sends its header. -/
theorem State.recycle_eq : s.recycle g = { s with
    pool := s.pool.unpinMap (s.baseSlot g).map
    resolver := { s.resolver with
      rings := (s.recycle g).resolver.rings
      writes := s.resolver.writes ++
        [{ kind := .other, group := g, slot := (s.ring g).playBase % 16, block := (s.ring g).playBase + 16
           addr := s.recordAddr g ((s.ring g).playBase % 16)
           words := ((s.baseSlot g).recycled ((s.ring g).playBase + 16)).header SlotState.empty.code }] } } := by
  have hemptied := (s.claim (fun p => p.unpinMap (s.baseSlot g).map)).slot_modifySlot g g ((s.ring g).playBase % 16)
    ((s.ring g).playBase % 16) (fun sl => sl.recycled ((s.ring g).playBase + 16))
  rw [if_pos ⟨rfl, rfl⟩] at hemptied
  have hsent := congrArg (fun sl : Slot => s.resolver.writes ++
        [({ kind := .other, group := g, slot := (s.ring g).playBase % 16, block := sl.block
            addr := s.recordAddr g ((s.ring g).playBase % 16), words := sl.header SlotState.empty.code } : SlotWrite)]) hemptied
  exact congrArg (fun ws => ({ s with
    pool := s.pool.unpinMap (s.baseSlot g).map
    resolver := { s.resolver with rings := (s.recycle g).resolver.rings, writes := ws } } : State)) hsent

end

/-! ### PlayBase advances (R103) -/

section
variable {s : State} {g : Nat}

theorem State.playBase_recycle (s : State) (g : Nat) : ((s.recycle g).ring g).playBase = (s.ring g).playBase + 1 := by
  rw [State.ring_recycle, if_pos rfl]

/-- The slot `i` behind the one that carries PlayBase. -/
def State.aheadSlot (s : State) (g i : Nat) : Slot := s.slot g (((s.ring g).playBase + i) % 16)

theorem State.aheadSlot_zero (s : State) (g : Nat) : s.aheadSlot g 0 = s.slot g ((s.ring g).playBase % 16) := by
  rw [State.aheadSlot, Nat.add_zero]

theorem State.aheadSlot_recycle (s : State) (g : Nat) {i : Nat} (hi : i < 15) :
    (s.recycle g).aheadSlot g i = s.aheadSlot g (i + 1) := by
  have hne : ((s.ring g).playBase + (i + 1)) % 16 ≠ (s.ring g).playBase % 16 := by omega
  rw [State.aheadSlot, State.playBase_recycle, Nat.add_assoc, Nat.add_comm 1 i, State.slot_recycle, if_neg fun h => hne h.2,
    State.aheadSlot]

/-- PlayBase goes on over the RELEASED slots that follow it, and stops at the first that is not. -/
theorem State.advancePlayBase_eq (fuel : Nat) : ∀ (m : Nat) (s : State), m ≤ fuel → fuel ≤ 16 →
    (∀ i, i < m → (s.aheadSlot g i).state = .released) → (m < fuel → (s.aheadSlot g m).state ≠ .released) →
    s.advancePlayBase g fuel = (List.range m).foldl (fun t _ => t.recycle g) s := by
  induction fuel with
  | zero =>
    intro m s hm _ _ _
    obtain rfl : m = 0 := Nat.le_zero.1 hm
    rfl
  | succ fuel ih =>
    intro m s hm hf hreleased hstop
    cases m with
    | zero =>
      have hnot := hstop (Nat.succ_pos fuel)
      rw [State.aheadSlot_zero] at hnot
      rw [State.advancePlayBase, if_neg hnot]
      rfl
    | succ m =>
      have hfirst := hreleased 0 (Nat.succ_pos m)
      rw [State.aheadSlot_zero] at hfirst
      rw [State.advancePlayBase, if_pos hfirst, List.range_succ_eq_map, List.foldl_cons, List.foldl_map]
      refine ih m _ (by omega) (by omega) (fun i hi => ?_) (fun hlt => ?_)
      · rw [State.aheadSlot_recycle s g (by omega)]
        exact hreleased (i + 1) (by omega)
      · rw [State.aheadSlot_recycle s g (by omega)]
        exact hstop (by omega)

end

/-! ### A slot becomes RELEASED -/

section
variable {s : State} {g k : Nat}

/-- The slot of the release, RELEASED, before PlayBase advances. -/
def State.markReleased (s : State) (g k : Nat) : State := s.modifySlot g k (fun sl => { sl with state := .released })

theorem State.slot_markReleased (s : State) (g k h j : Nat) : (s.markReleased g k).slot h j
    = if h = g ∧ j = k then { s.slot g k with state := .released } else s.slot h j := s.slot_modifySlot g h k j _

theorem State.playBase_markReleased (s : State) (g k h : Nat) : ((s.markReleased g k).ring h).playBase = (s.ring h).playBase := by
  rw [State.markReleased, State.ring_modifySlot]
  split
  next hg => rw [hg]; rfl
  next => rfl

theorem State.late_markReleased (s : State) (g k h : Nat) :
    ((s.markReleased g k).ring h).readerLateReported = (s.ring h).readerLateReported := by
  rw [State.markReleased, State.ring_modifySlot]
  split
  next hg => rw [hg]; rfl
  next => rfl

/-- A slot that does not carry PlayBase waits, RELEASED, for the one that does. -/
theorem State.releaseSlot_apart (hk : k ≠ (s.ring g).playBase % 16)
    (hb : (s.slot g ((s.ring g).playBase % 16)).state ≠ .released) : s.releaseSlot g k = s.markReleased g k := by
  refine (State.advancePlayBase_eq (s := s.markReleased g k) 16 0 (g := g) (Nat.zero_le _) (Nat.le_refl _)
    (fun i hi => absurd hi (Nat.not_lt_zero i)) fun _ => ?_)
  rw [State.aheadSlot_zero, State.playBase_markReleased, State.slot_markReleased, if_neg fun h => hk h.2.symm]
  exact hb

/-- The slot that carries PlayBase is recycled, alone where the next is not RELEASED. -/
theorem State.releaseSlot_base (hk : k = (s.ring g).playBase % 16)
    (hb : (s.slot g (((s.ring g).playBase + 1) % 16)).state ≠ .released) :
    s.releaseSlot g k = (s.markReleased g k).recycle g := by
  refine (State.advancePlayBase_eq (s := s.markReleased g k) 16 1 (g := g) (by omega) (Nat.le_refl _)
    (fun i hi => ?_) fun _ => ?_)
  · obtain rfl : i = 0 := by omega
    rw [State.aheadSlot_zero, State.playBase_markReleased, State.slot_markReleased, if_pos ⟨rfl, hk.symm⟩]
  · rw [State.aheadSlot, State.playBase_markReleased, State.slot_markReleased, if_neg (by omega)]
    exact hb

/-- What the release of the slot that carries PlayBase leaves. -/
theorem State.recycled_markReleased (hk : k = (s.ring g).playBase % 16) {t : State} (ht : t = (s.markReleased g k).recycle g) :
    (t.ring g).playBase = (s.ring g).playBase + 1 ∧ (t.ring g).readerLateReported = (s.ring g).readerLateReported
      ∧ t.slot g k = ({ s.slot g k with state := .released } : Slot).recycled ((s.ring g).playBase + 16)
      ∧ t.pool = s.pool.unpinMap (s.slot g k).map ∧ t.resolver.writes.length = s.resolver.writes.length + 1
      ∧ (∀ h j, h ≠ g ∨ j ≠ k → t.slot h j = s.slot h j)
      ∧ t = { s with pool := t.pool, resolver := { s.resolver with rings := t.resolver.rings, writes := t.resolver.writes } } := by
  have hbase : (s.markReleased g k).baseSlot g = { s.slot g k with state := .released } := by
    rw [State.baseSlot, State.playBase_markReleased, State.slot_markReleased, if_pos ⟨rfl, hk.symm⟩]
  have hring := (s.markReleased g k).ring_recycle g g
  have hslot := (s.markReleased g k).slot_recycle g
  have hall := (s.markReleased g k).recycle_eq g
  rw [← ht] at hring hslot hall
  rw [if_pos rfl] at hring
  simp only [hbase, State.playBase_markReleased, ← hk] at hring hslot hall
  refine ⟨by rw [hring], ?_, (hslot g k).trans (if_pos ⟨rfl, rfl⟩), by rw [hall]; rfl, ?_, fun h j hne => ?_, ?_⟩
  · rw [hring]
    exact s.late_markReleased g k g
  · rw [hall]
    exact List.length_append
  · have hnot : ¬(h = g ∧ j = k) := fun hj => hne.elim (fun hn => hn hj.1) fun hn => hn hj.2
    rw [hslot h j, if_neg hnot, State.slot_markReleased, if_neg hnot]
  · rw [hall]
    rfl

/-! ### The part releases a slot (R102) -/

theorem State.reportLate_eq (s : State) (g k : Nat) : s.reportLate g k = { s with
    resolver := { s.resolver with rings := (s.reportLate g k).resolver.rings }
    notices := if (s.ring g).readerLateReported = true ∨ s.part.state = .quiet then s.notices else s.notices.post
      { group := some g, source := none, period := s.part.period, body := .readerLate (s.slot g k).block } } := by
  unfold State.reportLate
  by_cases hr : (s.ring g).readerLateReported = true
  · rw [if_pos hr, if_pos (Or.inl hr)]
  · rw [if_neg hr, ite_of_iff (or_iff_right hr) rfl rfl]
    rfl

theorem State.ring_reportLate (s : State) (g k h : Nat) : (s.reportLate g k).ring h
    = if h = g then { s.ring g with readerLateReported := true } else s.ring h := by
  unfold State.reportLate
  by_cases hr : (s.ring g).readerLateReported = true
  · rw [if_pos hr]
    split
    next hg => rw [hg, ← hr]
    next => rfl
  · rw [if_neg hr]
    exact State.ring_modifyRing _ g h _

theorem State.slot_reportLate (s : State) (g k h j : Nat) : (s.reportLate g k).slot h j = s.slot h j := by
  rw [State.slot, State.ring_reportLate]
  split
  next hg => rw [hg]; rfl
  next => rfl

end

end Sys2Proof.Machine
end

section
/-! # Releases by the reader and by the part (R101, R102), settled -/

namespace Sys2Proof.Machine

/-! ### The reader's word (R101, R160) -/

section
variable {s : State} {g k : Nat} {a : Anchor} {v : Word} {en : Enables}

/-- A write to a release word is told to the Slot Resolver. -/
theorem exec_readerRelease (hg : g < 8) (hk : k < 16) (hb : s.burst = none) (hrst : s.lines.resetLow = false)
    (ha : s.sup.anchor = some a) (hok : a.ok s.lines.dramSize = true) (v : Word) (en : Enables) :
    exec (.readerRelease g k v en) s
      = .next (s.releaseWrite g k (a.liveDirectoryBase + 4096 * (16 * g + k) + 12) v en) := by
  obtain ⟨haddr, hclass⟩ := s.localClass_release a g k hg hk ha hok
  have hrow : exec (.readerRelease g k v en) s
      = .next (s.unlessHeld (s.localRequest (.write (releaseAddr a.liveDirectoryBase g k) v en))) := by
    simp only [exec, execReaderRelease, ha]
  rw [hrow, State.unlessHeld_high hrst, State.localRequest_write hb, State.localWrite, hclass, haddr]

theorem exec_readerRelease_untaken (ha : s.sup.anchor = none) : exec (.readerRelease g k v en) s = .next s := by
  simp only [exec, execReaderRelease, ha]

theorem State.releaseWrite_whole {x : Nat} (hx : x % 4 = 0) : s.releaseWrite g k x v 15
    = State.readerRelease { s with mem := writeWord s.mem x v } g k v := by
  rw [State.releaseWrite, if_pos ((wholeWord_iff 15).2 rfl), State.passThrough, writeEnabled_whole _ _ _ _ rfl,
    show x / 4 * 4 = x by omega]

theorem State.releaseWrite_part (hen : en ≠ 15) (x : Nat) : s.releaseWrite g k x v en = s.subWordRelease g := by
  rw [State.releaseWrite, if_neg fun h => hen ((wholeWord_iff en).1 h)]

theorem State.releaseCounts_iff : s.releaseCounts g = true
    ↔ (s.part.state = .armed ∨ s.part.state = .running) ∧ (s.group g).defined = true := by
  simp [State.releaseCounts]

/-- Outside a show, and in an undefined group, no release counts. -/
theorem State.releaseCounts_not (h : s.part.state = .quiet ∨ s.part.state = .standby ∨ (s.group g).defined = false) :
    ¬s.releaseCounts g = true := by
  rw [State.releaseCounts_iff]
  rintro ⟨hs, hd⟩
  rcases h with h | h | h
  · rw [h] at hs; exact hs.elim nofun nofun
  · rw [h] at hs; exact hs.elim nofun nofun
  · rw [h] at hd; exact nomatch hd

/-- The ring that was told of a release by its reader. -/
def State.heard (s : State) (g : Nat) : State := s.modifyRing g (fun r => { r with readerLateReported := false })

theorem State.ring_heard (s : State) (g h : Nat) : (s.heard g).ring h
    = if h = g then { s.ring g with readerLateReported := false } else s.ring h := State.ring_modifyRing _ g h _

theorem State.slot_heard (s : State) (g h j : Nat) : (s.heard g).slot h j = s.slot h j := by
  rw [State.slot, State.ring_heard]
  split
  next hg => rw [hg]; rfl
  next => rfl

theorem State.playBase_heard (s : State) (g h : Nat) : ((s.heard g).ring h).playBase = (s.ring h).playBase := by
  rw [State.ring_heard]
  split
  next hg => rw [hg]
  next => rfl

theorem State.readerRelease_idle (h : ¬s.releaseCounts g = true) : s.readerRelease g k v = s := by
  rw [State.readerRelease, if_neg h]

theorem State.readerRelease_wrong (h : s.releaseCounts g = true)
    (hw : (s.slot g k).state ≠ .ready ∨ v ≠ blockLow (s.slot g k).block) : s.readerRelease g k v = s.countReaderFault := by
  rw [State.readerRelease, if_pos h, if_neg (Decidable.not_and_iff_not_or_not.2 hw)]

theorem State.readerRelease_right (h : s.releaseCounts g = true) (hr : (s.slot g k).state = .ready)
    (hv : v = blockLow (s.slot g k).block) : s.readerRelease g k v = (s.heard g).releaseSlot g k := by
  rw [State.readerRelease, if_pos h, if_pos ⟨hr, hv⟩]
  rfl

end

/-! ### The part's release (R102) -/

section
variable {s u : State} {g k : Nat}

/-- The release of a slot that does not carry PlayBase, told to a ring that keeps its slots and PlayBase. -/
theorem State.released_apart (hslot : ∀ h j, u.slot h j = s.slot h j) (hbase : (u.ring g).playBase = (s.ring g).playBase)
    (hk : k ≠ (s.ring g).playBase % 16) (hb : (s.slot g ((s.ring g).playBase % 16)).state ≠ .released) :
    u.releaseSlot g k = u.markReleased g k ∧ (u.markReleased g k).slot g k = { s.slot g k with state := .released }
      ∧ ((u.markReleased g k).ring g).playBase = (s.ring g).playBase
      ∧ ((u.markReleased g k).ring g).readerLateReported = (u.ring g).readerLateReported
      ∧ ∀ g' k', g' ≠ g ∨ k' ≠ k → (u.markReleased g k).slot g' k' = s.slot g' k' := by
  refine ⟨State.releaseSlot_apart (by rwa [hbase]) (by rwa [hbase, hslot]), ?_, ?_, State.late_markReleased u g k g,
    fun g' k' hne => ?_⟩
  · rw [State.slot_markReleased, if_pos ⟨rfl, rfl⟩, hslot]
  · rw [State.playBase_markReleased, hbase]
  · rw [State.slot_markReleased, if_neg fun h => hne.elim (fun hn => hn h.1) fun hn => hn h.2, hslot]

/-- The release of the slot that carries PlayBase, told to a ring that keeps its slots and PlayBase. -/
theorem State.released_base (hslot : ∀ h j, u.slot h j = s.slot h j) (hbase : (u.ring g).playBase = (s.ring g).playBase)
    (hk : k = (s.ring g).playBase % 16) (hb : (s.slot g (((s.ring g).playBase + 1) % 16)).state ≠ .released) :
    ∃ t, u.releaseSlot g k = t ∧ (t.ring g).playBase = (s.ring g).playBase + 1
      ∧ (t.ring g).readerLateReported = (u.ring g).readerLateReported
      ∧ t.slot g k = ({ s.slot g k with state := .released } : Slot).recycled ((s.ring g).playBase + 16)
      ∧ t.pool = u.pool.unpinMap (s.slot g k).map ∧ t.resolver.writes.length = u.resolver.writes.length + 1
      ∧ (∀ g' k', g' ≠ g ∨ k' ≠ k → t.slot g' k' = s.slot g' k')
      ∧ t = { u with pool := t.pool, resolver := { u.resolver with rings := t.resolver.rings, writes := t.resolver.writes } } := by
  have hkept := State.recycled_markReleased (s := u) (g := g) (k := k) (by rw [hbase, hk]) rfl
  simp only [hbase, hslot] at hkept
  exact ⟨_, State.releaseSlot_base (by rw [hbase, hk]) (by rwa [hbase, hslot]), hkept⟩

end

section
variable {s : State} {g k : Nat}

theorem State.releaseDue_iff : s.releaseDue g k = true ↔ s.part.state = .running ∧ (s.group g).defined = true
    ∧ (s.slot g k).state = .ready ∧ (s.slot g k).block + s.resolver.releaseGrace ≤ s.part.period := by
  simp [State.releaseDue, and_assoc]

theorem State.forcedRelease_due (hs : s.part.state = .running) (hd : (s.group g).defined = true)
    (hr : (s.slot g k).state = .ready) (hp : (s.slot g k).block + s.resolver.releaseGrace ≤ s.part.period) :
    s.forcedRelease g k = s.partRelease g k := if_pos (State.releaseDue_iff.2 ⟨hs, hd, hr, hp⟩)

theorem State.forcedRelease_early (h : s.part.state ≠ .running ∨ (s.group g).defined = false ∨ (s.slot g k).state ≠ .ready
    ∨ s.part.period < (s.slot g k).block + s.resolver.releaseGrace) : s.forcedRelease g k = s := by
  refine if_neg fun hdue => ?_
  obtain ⟨hs, hd, hr, hp⟩ := State.releaseDue_iff.1 hdue
  rcases h with h | h | h | h
  · exact h hs
  · rw [hd] at h; exact nomatch h
  · exact h hr
  · omega

end

/-- Settles O52: a recycle as one update, PlayBase over the RELEASED slots, then the reader's word and the part's release. -/
theorem releases : Obligations.Releases := by
  refine ⟨fun s g k => ⟨rfl, _, rfl, s.reportLate_eq g k, (s.ring_reportLate g k g).trans (if_pos rfl),
      fun h hne => (s.ring_reportLate g k h).trans (if_neg hne)⟩,
    fun s g m hm hreleased hstop => State.advancePlayBase_eq 16 m s hm (Nat.le_refl _) hreleased hstop, ?recycle, ?release⟩
  case recycle =>
    intro s g k base hbase hk
    subst hbase hk
    refine ⟨_, rfl, s.recycle_eq g, (s.slot_recycle g g _).trans (if_pos ⟨rfl, rfl⟩), ?_, fun g' k' hne => ?_⟩
    · rw [State.ring_recycle, if_pos rfl]
      rfl
    · rw [State.slot_recycle, if_neg fun h => hne.elim (fun hn => hn h.1) fun hn => hn h.2]
  case release =>
    intro s g k v base hg hk hbase hb hrst
    subst hbase
    have hexec := fun a ha hok => exec_readerRelease (a := a) hg hk hb hrst ha hok v
    have haddr : ∀ a : Anchor, a.ok s.lines.dramSize = true → (a.liveDirectoryBase + 4096 * (16 * g + k) + 12) % 4 = 0 :=
      fun a hok => by
        have := (a.liveDirectory_place _ hok).1
        omega
    refine ⟨fun ha en => exec_readerRelease_untaken ha, fun a ha hok hs => ⟨?_, fun en hen => ?_⟩,
      fun a ha hok hs hd => ?counts, fun h => congrArg Host.Outcome.next (State.forcedRelease_early h),
      fun hs hd hr hp => congrArg Host.Outcome.next (State.forcedRelease_due hs hd hr hp),
      fun hs hd hr hp hne hbase => ?forcedApart, fun hs hd hr hp he hbase => ?forcedBase⟩
    · rw [hexec a ha hok 15, State.releaseWrite_whole (haddr a hok), State.readerRelease_idle (by exact State.releaseCounts_not hs)]
    · rw [hexec a ha hok en, State.releaseWrite_part hen, State.subWordRelease, if_neg (State.releaseCounts_not hs)]
    case counts =>
      have hcounts : s.releaseCounts g = true := State.releaseCounts_iff.2 ⟨hs, hd⟩
      have hwhole := (hexec a ha hok 15).trans (congrArg Host.Outcome.next (State.releaseWrite_whole (haddr a hok)))
      generalize writeWord s.mem (a.liveDirectoryBase + 4096 * (16 * g + k) + 12) v = m at hwhole
      refine ⟨fun en hen => ?_, fun hw => hwhole.trans (congrArg Host.Outcome.next ?_),
        fun hr hv => ⟨State.heard { s with mem := m } g, hwhole.trans (congrArg Host.Outcome.next ?_), rfl, ?_, fun h hne => ?_⟩,
        fun hr hv hne hbase => ?apart, fun hr hv he hbase => ?atBase⟩
      · rw [hexec a ha hok en, State.releaseWrite_part hen, State.subWordRelease, if_pos hcounts]
        rfl
      · exact State.readerRelease_wrong (s := { s with mem := m }) hcounts hw
      · exact State.readerRelease_right (s := { s with mem := m }) hcounts hr hv
      · exact (State.ring_heard { s with mem := m } g g).trans (if_pos rfl)
      · exact (State.ring_heard { s with mem := m } g h).trans (if_neg hne)
      case apart =>
        obtain ⟨hrel, hslot, hplay, hlate, hothers⟩ := State.released_apart (g := g) (k := k)
          (State.slot_heard { s with mem := m } g) (State.playBase_heard { s with mem := m } g g) hne hbase
        refine ⟨_, (hwhole.trans (congrArg Host.Outcome.next (State.readerRelease_right hcounts hr hv))).trans
          (congrArg Host.Outcome.next hrel), rfl, hslot, hplay, ?_, hothers⟩
        rw [hlate, State.ring_heard, if_pos rfl]
      case atBase =>
        obtain ⟨t, hrel, hplay, hlate, hslot, hpool, hwrites, hothers, hframe⟩ := State.released_base (g := g) (k := k)
          (State.slot_heard { s with mem := m } g) (State.playBase_heard { s with mem := m } g g) he hbase
        refine ⟨t, (hwhole.trans (congrArg Host.Outcome.next (State.readerRelease_right hcounts hr hv))).trans
          (congrArg Host.Outcome.next hrel), by rw [hframe]; rfl, hplay, ?_, by rw [hslot]; rfl, by rw [hslot]; rfl,
          by rw [hslot]; rfl, hpool, hwrites, by rw [hframe]; rfl, by rw [hframe]; rfl, by rw [hframe]; rfl, hothers⟩
        rw [hlate, State.ring_heard, if_pos rfl]
    case forcedApart =>
      have hplay : ((s.reportLate g k).ring g).playBase = (s.ring g).playBase := by rw [State.ring_reportLate, if_pos rfl]
      obtain ⟨hrel, hslot, -, hlate, hothers⟩ := State.released_apart (g := g) (k := k) (s.slot_reportLate g k) hplay hne hbase
      have hreport := s.reportLate_eq g k
      have hring := s.ring_reportLate g k g
      rw [if_pos rfl] at hring
      have hforced := (State.forcedRelease_due hs hd hr hp).trans hrel
      have hnotices : ((s.reportLate g k).markReleased g k).notices = (s.reportLate g k).notices := rfl
      refine ⟨_, congrArg Host.Outcome.next hforced, ?_, hslot, ?_, hothers, ?_⟩
      · generalize s.reportLate g k = u at hreport ⊢
        rw [hreport]
        rfl
      · rw [hlate, hring]
      · rw [hnotices, hreport]
        exact ite_of_iff (or_iff_left (by rw [hs]; nofun)) rfl rfl
    case forcedBase =>
      have hplay : ((s.reportLate g k).ring g).playBase = (s.ring g).playBase := by rw [State.ring_reportLate, if_pos rfl]
      obtain ⟨t, hrel, hnext, hlate, hslot, hpool, -, hothers, hframe⟩ := State.released_base (g := g) (k := k)
        (s.slot_reportLate g k) hplay he hbase
      have hring := s.ring_reportLate g k g
      rw [if_pos rfl] at hring
      have hreport := s.reportLate_eq g k
      refine ⟨t, congrArg Host.Outcome.next ((State.forcedRelease_due hs hd hr hp).trans hrel), ?_, hnext, ?_,
        by rw [hslot]; rfl, by rw [hslot]; rfl, ?_, hothers⟩
      · rw [hframe, hreport]
      · rw [hlate, hring]
      · rw [hpool, hreport]
        rfl

end Sys2Proof.Machine
end

section
/-! # Live Directory writes that are taken (R82, R99, R100, R162) -/

namespace Sys2Proof.Machine

/-! ### Which writes a row takes -/

section
variable {kind : SlotWriteKind} {g k : Nat} {w : SlotWrite} {pre rest : List SlotWrite}

theorem takeThrough_append (hw : w.kind ≠ .other) (hm : w.kind = kind ∧ w.group = g ∧ w.slot = k) :
    (∀ p ∈ pre, p.kind = .other) → takeThrough kind g k (pre ++ w :: rest)
      = some ((pre ++ [w]).map (fun p => (p.addr, p.words)), w.block, rest) := by
  induction pre with
  | nil =>
    intro _
    rw [List.nil_append, takeThrough, if_neg hw, if_pos hm]
    rfl
  | cons p pre ih =>
    intro hp
    rw [List.cons_append, takeThrough, if_pos (hp p List.mem_cons_self), ih fun q hq => hp q (List.mem_cons_of_mem _ hq)]
    rfl

theorem takeThrough_none : ∀ {ws : List SlotWrite}, (∀ p ∈ ws, ¬(p.kind = kind ∧ p.group = g ∧ p.slot = k)) →
    takeThrough kind g k ws = none
  | [], _ => rfl
  | p :: ws, h => by
    rw [takeThrough, takeThrough_none fun q hq => h q (List.mem_cons_of_mem _ hq), if_neg (h p List.mem_cons_self), ite_self]

end

/-! ### The rows -/

section
variable {s : State} {g k : Nat}

theorem exec_recordWritten {taken : List (Nat × List Word)} {n : Nat} {rest : List SlotWrite}
    (h : takeThrough .record g k s.resolver.writes = some (taken, n, rest)) :
    exec (.slotRecordWritten g k) s = .next ((s.landSlotWrites taken rest).recordTaken g k n) := by
  simp only [exec, execSlotRecordWritten, h]

theorem exec_recordWritten_none (h : takeThrough .record g k s.resolver.writes = none) :
    exec (.slotRecordWritten g k) s = .next s := by
  simp only [exec, execSlotRecordWritten, h]

theorem exec_readyHeaderWritten {taken : List (Nat × List Word)} {n : Nat} {rest : List SlotWrite}
    (h : takeThrough .readyHeader g k s.resolver.writes = some (taken, n, rest)) :
    exec (.slotHeaderWritten g (.ready k)) s = .next ((s.landSlotWrites taken rest).headerTaken g k n) := by
  simp only [exec, execSlotHeaderWritten, State.readyHeaderWritten, h]

theorem exec_readyHeaderWritten_none (h : takeThrough .readyHeader g k s.resolver.writes = none) :
    exec (.slotHeaderWritten g (.ready k)) s = .next s := by
  simp only [exec, execSlotHeaderWritten, State.readyHeaderWritten, h]

theorem exec_otherWritten {w : SlotWrite} {rest : List SlotWrite} (hws : s.resolver.writes = w :: rest)
    (hw : w.kind = .other ∧ w.group = g ∧ w.slot = k) : exec (.slotHeaderWritten g (.other k)) s
      = .next { s with mem := writeWords s.mem w.addr w.words, resolver := { s.resolver with writes := rest } } := by
  simp only [exec, execSlotHeaderWritten, State.otherWritten, hws, if_pos hw, State.landSlotWrites, takeWrites]

theorem exec_otherWritten_none (h : ∀ w rest, s.resolver.writes = w :: rest → ¬(w.kind = .other ∧ w.group = g ∧ w.slot = k)) :
    exec (.slotHeaderWritten g (.other k)) s = .next s := by
  simp only [exec, execSlotHeaderWritten, State.otherWritten]
  split
  · rfl
  next w rest hws => rw [if_neg (h w rest hws)]

/-- The row that takes a READY header leaves the same, whichever words were taken before. -/
theorem State.readyHeaderEnd_took (n : Nat) (h : takeThrough .readyHeader g k s.resolver.writes ≠ none) :
    exec (.slotHeaderWritten g (.ready k)) (s.took n .slots) = exec (.slotHeaderWritten g (.ready k)) s := by
  obtain ⟨⟨taken, b, rest⟩, ht⟩ := Option.ne_none_iff_exists'.mp h
  obtain ⟨later, htook, hmem⟩ := takeThrough_slotWordsTaken .readyHeader g k s.resolver.writes n b s.mem taken rest ht
  have hrow := exec_readyHeaderWritten (s := s.took n .slots) (g := g) (k := k) htook
  rw [hrow, exec_readyHeaderWritten ht]
  simp only [State.took, State.tookSlots, State.landSlotWrites, hmem]

/-! ### Words that are taken before (R162) -/

theorem State.took_slots_nil (h : s.resolver.writes = []) (n : Nat) : s.took n .slots = s := by
  simp only [State.took, State.tookSlots, State.landSlotWrites, h, slotWordsTaken, takeWrites]
  rw [← h]

theorem State.took_slots_part {w : SlotWrite} {rest : List SlotWrite} {n : Nat} (h : s.resolver.writes = w :: rest)
    (hw : w.kind ≠ .other ∨ n < w.words.length) : s.took n .slots = { s with
      mem := writeWords s.mem w.addr (w.words.take (min n (w.words.length - 1)))
      resolver := { s.resolver with writes := { w with
        addr := w.addr + 4 * min n (w.words.length - 1), words := w.words.drop (min n (w.words.length - 1)) } :: rest } } := by
  have hnot : ¬(w.kind = .other ∧ w.words.length ≤ n) := fun ⟨hk, hl⟩ => hw.elim (fun hn => hn hk) fun hn => absurd hl (by omega)
  simp only [State.took, State.tookSlots, State.landSlotWrites, h, slotWordsTaken, if_neg hnot, takeWrites]

theorem State.took_slots_whole {w : SlotWrite} {rest : List SlotWrite} {n : Nat} (h : s.resolver.writes = w :: rest)
    (hw : w.kind = .other ∧ w.words.length ≤ n) : s.took n .slots = State.took { s with
      mem := writeWords s.mem w.addr w.words
      resolver := { s.resolver with writes := rest } } (n - w.words.length) .slots := by
  simp only [State.took, State.tookSlots, State.landSlotWrites, h, slotWordsTaken, if_pos hw, takeWrites]

end

/-! ### The slot that is taken (R99, R100) -/

section
variable {s : State} {g k : Nat}

/-- The slot whose record is taken while jobs are outstanding, or whose READY header is sent. -/
def Slot.blended (sl : Slot) : Slot := { sl with state := .blending, awaitingRecord := false }

/-- The slot that is READY. -/
def Slot.readied (sl : Slot) : Slot := { sl with state := .ready, awaitingRecord := false, awaitingHeader := false }

theorem State.recordTaken_blending (hr : (s.slot g k).awaitingRecord = true)
    (ho : 0 < (s.slot g k).outstanding ∨ (s.slot g k).awaitingHeader = true) :
    s.recordTaken g k (s.slot g k).block = s.modifySlot g k Slot.blended := by
  rw [State.recordTaken, if_pos ⟨hr, rfl⟩, if_pos ho]
  rfl

theorem State.recordTaken_ready (hr : (s.slot g k).awaitingRecord = true) (ho : (s.slot g k).outstanding = 0)
    (hh : (s.slot g k).awaitingHeader = false) :
    s.recordTaken g k (s.slot g k).block = (s.modifySlot g k Slot.readied).forcedRelease g k := by
  have hnot : ¬(0 < (s.slot g k).outstanding ∨ (s.slot g k).awaitingHeader = true) := by
    rw [ho, hh]
    exact fun h => h.elim (Nat.lt_irrefl 0) nofun
  rw [State.recordTaken, if_pos ⟨hr, rfl⟩, if_neg hnot]
  rfl

theorem State.headerTaken_ready (hh : (s.slot g k).awaitingHeader = true) :
    s.headerTaken g k (s.slot g k).block = (s.modifySlot g k Slot.readied).forcedRelease g k := by
  rw [State.headerTaken, if_pos ⟨hh, rfl⟩]
  rfl

/-- What changes with one slot. -/
theorem State.modifySlot_frame (s : State) (g k : Nat) (f : Slot → Slot) :
    (s.modifySlot g k f).slot g k = f (s.slot g k)
      ∧ (∀ g' k', g' ≠ g ∨ k' ≠ k → (s.modifySlot g k f).slot g' k' = s.slot g' k')
      ∧ ∀ g', (s.modifySlot g k f).ring g' = { s.ring g' with slots := ((s.modifySlot g k f).ring g').slots } := by
  refine ⟨?_, fun g' k' hne => ?_, fun g' => ?_⟩
  · rw [State.slot_modifySlot, if_pos ⟨rfl, rfl⟩]
  · rw [State.slot_modifySlot, if_neg fun h => hne.elim (fun hn => hn h.1) fun hn => hn h.2]
  · rw [State.ring_modifySlot]
    split
    next hg => rw [hg]; rfl
    next => rfl

end

/-- Settles O50, by what the write is and, of a record, by what the slot waits for. -/
theorem slotWritesTaken : Obligations.SlotWritesTaken := by
  refine ⟨fun s g k pre rest w hws hpre hg hk hblock => ?taken, fun s g k w rest hws hkind hg hk =>
      exec_otherWritten hws ⟨hkind, hg, hk⟩,
    fun s n g k => ⟨fun h => s.recordEnd_took n g k h, State.readyHeaderEnd_took n, fun h => State.took_slots_nil h n,
      fun w rest h hw m hm => ?part, fun w rest h hkind hl => State.took_slots_whole h ⟨hkind, hl⟩⟩,
    fun s g k => ⟨fun h => exec_recordWritten_none (takeThrough_none h),
      fun h => exec_readyHeaderWritten_none (takeThrough_none h), exec_otherWritten_none⟩⟩
  case part => rw [hm, State.took_slots_part h hw]
  case taken =>
    have hthrough := fun (kind : SlotWriteKind) (hkind : w.kind = kind) (hne : kind ≠ .other) =>
      takeThrough_append (kind := kind) (rest := rest) (hkind ▸ hne) ⟨hkind, hg, hk⟩ hpre
    rw [← hws] at hthrough
    have hland : ∀ taken, (s.landSlotWrites taken rest).slot g k = s.slot g k := fun _ => rfl
    generalize hall : (pre ++ [w]).map (fun p => (p.addr, p.words)) = all at hthrough
    by_cases hblending : w.kind = .record ∧ (0 < (s.slot g k).outstanding ∨ (s.slot g k).awaitingHeader = true)
    · obtain ⟨hslot, hslots, hrings⟩ := (s.landSlotWrites all rest).modifySlot_frame g k Slot.blended
      refine ⟨_, rfl, hslots, hrings, fun hkind hr ho => ⟨hslot, ?_⟩, fun taken htaken => ?_⟩
      · rw [exec_recordWritten (hthrough .record hkind nofun), hblock]
        exact congrArg Host.Outcome.next (State.recordTaken_blending (s := s.landSlotWrites all rest) hr ho)
      · exfalso
        rcases htaken with ⟨-, -, -, ho, hh⟩ | ⟨hkind, -⟩
        · rw [ho, hh] at hblending
          exact hblending.2.elim (Nat.lt_irrefl 0) nofun
        · rw [hkind] at hblending
          exact nomatch hblending.1
    · obtain ⟨hslot, hslots, hrings⟩ := (s.landSlotWrites all rest).modifySlot_frame g k Slot.readied
      refine ⟨_, rfl, hslots, hrings, fun hkind hr ho => absurd ⟨hkind, ho⟩ hblending, fun taken htaken => ?_⟩
      have hrow : exec taken s = .next (((s.landSlotWrites all rest).modifySlot g k Slot.readied).forcedRelease g k) := by
        rcases htaken with ⟨hkind, rfl, hr, ho, hh⟩ | ⟨hkind, rfl, hh⟩
        · rw [exec_recordWritten (hthrough .record hkind nofun), hblock]
          exact congrArg Host.Outcome.next (State.recordTaken_ready (s := s.landSlotWrites all rest) hr ho hh)
        · rw [exec_readyHeaderWritten (hthrough .readyHeader hkind nofun), hblock]
          exact congrArg Host.Outcome.next (State.headerTaken_ready (s := s.landSlotWrites all rest) hh)
      generalize hu : (s.landSlotWrites all rest).modifySlot g k Slot.readied = u at hslot hrow
      have hpart : u.part = s.part := by rw [← hu]; rfl
      have hgroup : u.group g = s.group g := by rw [← hu]; rfl
      have hgrace : u.resolver.releaseGrace = s.resolver.releaseGrace := by rw [← hu]; rfl
      have hstate : (u.slot g k).state = .ready := by rw [hslot]; rfl
      have hcarried : (u.slot g k).block = (s.slot g k).block := by rw [hslot]; rfl
      refine ⟨hslot, fun hearly => ?_, fun hrun hdef hdue => ?_⟩
      · rw [hrow, State.forcedRelease_early]
        rw [hpart, hgroup, hcarried, hgrace]
        exact hearly.imp_right fun h => h.imp_right Or.inr
      · refine ⟨?_, hrow⟩
        rw [hrow, State.forcedRelease_due (by rw [hpart]; exact hrun) (by rw [hgroup]; exact hdef) hstate
          (by rw [hpart, hcarried, hgrace]; exact hdue)]

end Sys2Proof.Machine
end

section
/-! # The source of a channel at a resolution (R88 to R98) -/

namespace Sys2Proof.Machine

/-! ### The choice (R90 to R94) -/

section
variable {x : Context} {gr : GroupRecord} {n : Nat}

theorem GroupRecord.inFade_iff (gr : GroupRecord) (n : Nat) :
    gr.inFade n = true ↔ gr.selectState.fading = true ∧ gr.switchPoint ≤ n ∧ n < gr.fadeEnd := by
  simp [GroupRecord.inFade, and_assoc]

theorem GroupRecord.inFade_eq (gr : GroupRecord) (n : Nat) :
    gr.inFade n = decide (gr.selectState.fading = true ∧ gr.switchPoint ≤ n ∧ n < gr.fadeEnd) := by
  rw [Bool.eq_iff_iff, GroupRecord.inFade_iff, decide_eq_true_iff]

theorem GroupRecord.marksSwitch_eq (gr : GroupRecord) (n : Nat) :
    gr.marksSwitch n = decide (gr.switchPoint = n ∧ gr.lastSwitchCause ≠ .none) := by
  rw [Bool.eq_iff_iff, decide_eq_true_iff]
  simp [GroupRecord.marksSwitch]

/-- The fill is the last block again where one may be repeated, and silence elsewhere (R94). -/
theorem fillChoice_eq {fill : Option Entry → Choice}
    (hrepeat : ∀ u b, x.kind = .audio → gr.fillMode = .repeatLast → x.repeatRun < gr.repeatLimit → x.lastServed = some b →
      fill u = .repeatFill b u)
    (hsilence : ∀ u, x.kind = .data ∨ gr.fillMode = .silence ∨ gr.repeatLimit ≤ x.repeatRun ∨ x.lastServed = none →
      fill u = .silence u) (u : Option Entry) : fillChoice x gr u = fill u := by
  unfold fillChoice
  split
  next h => exact (hsilence u (h.imp_right Or.inl)).symm
  next h =>
    obtain ⟨hkind, hmode⟩ := not_or.1 h
    split
    next hrun =>
      split
      next b hb =>
        have haudio : x.kind = .audio := by cases hk : x.kind with
          | audio => rfl
          | data => exact absurd hk hkind
        have hlast : gr.fillMode = .repeatLast := by cases hm : gr.fillMode with
          | repeatLast => rfl
          | silence => exact absurd hm hmode
        exact (hrepeat u b haudio hlast hrun hb).symm
      next hb => exact (hsilence u (Or.inr (Or.inr (Or.inr hb)))).symm
    next hrun => exact (hsilence u (Or.inr (Or.inr (Or.inl (Nat.le_of_not_lt hrun))))).symm

variable {tv : RigVerdict} {av : AgreementVerdict} {t o : Entry} {room : Bool}

theorem chooseSource_blend (h : gr.selectState.fading = true ∧ gr.switchPoint ≤ n ∧ n < gr.fadeEnd ∧ x.kind = .audio ∧ room = true) :
    chooseSource x gr tv av n (some t) (some o) room = .blend t o := by
  obtain ⟨hf, hp, he, hk, hr⟩ := h
  have hfade : gr.inFade n = true := (gr.inFade_iff n).2 ⟨hf, hp, he⟩
  simp [chooseSource, hfade, hk, hr]

theorem chooseSource_both (h : gr.selectState.fading = false ∨ n < gr.switchPoint ∨ gr.fadeEnd ≤ n ∨ x.kind = .data ∨ room = false) :
    chooseSource x gr tv av n (some t) (some o) room = .target t (some o) := by
  refine if_neg fun hb => ?_
  simp only [Bool.and_eq_true, GroupRecord.inFade_iff, beq_iff_eq] at hb
  obtain ⟨⟨⟨hf, hp, he⟩, hk⟩, hr⟩ := hb
  rcases h with h | h | h | h | h
  · rw [hf] at h; exact nomatch h
  · omega
  · omega
  · rw [hk] at h; exact nomatch h
  · rw [hr] at h; exact nomatch h

theorem coverAllowed_iff : coverAllowed gr tv av = true ↔ av ≠ .diverged ∧ (gr.patch = true ∨ tv = .failed) := by
  simp [coverAllowed]

theorem chooseSource_other (h : av ≠ .diverged ∧ (gr.patch = true ∨ tv = .failed)) :
    chooseSource x gr tv av n none (some o) room = .other o := if_pos (coverAllowed_iff.2 h)

theorem chooseSource_uncovered (h : ¬(av ≠ .diverged ∧ (gr.patch = true ∨ tv = .failed))) :
    chooseSource x gr tv av n none (some o) room = fillChoice x gr (some o) := if_neg fun hc => h (coverAllowed_iff.1 hc)

end

/-! ### What a choice does (R91 to R94, R97) -/

section
variable {x : Context} {gr : GroupRecord} {e : Entry}

theorem Context.followsServed_iff :
    x.followsServed gr = true ↔ x.kind = .audio ∧ gr.fillMode = .repeatLast ∧ x.streaming = true := by
  simp [Context.followsServed, and_assoc]

theorem Context.served_eq (n : Nat) : x.served gr n e = { x with
    lists := ⟨x.lists.rig1.filter (fun e => e.block != n), x.lists.rig2.filter (fun e => e.block != n)⟩
    repeatRun := 0, streaming := x.streaming && !e.last
    lastServed := if e.last = true then none
      else if x.kind = .audio ∧ gr.fillMode = .repeatLast ∧ x.streaming = true then some e.bucket else x.lastServed } := by
  have hserved : (if x.followsServed gr = true then some e.bucket else x.lastServed)
      = if x.kind = .audio ∧ gr.fillMode = .repeatLast ∧ x.streaming = true then some e.bucket else x.lastServed :=
    ite_of_iff Context.followsServed_iff rfl rfl
  rw [Context.served, hserved]
  rfl

theorem Pool.servedClaims_eq (p : Pool) : p.servedClaims x gr e = if e.last = true then p.unpinOpt x.lastServed
    else if x.kind = .audio ∧ gr.fillMode = .repeatLast ∧ x.streaming = true then (p.pin e.bucket).unpinOpt x.lastServed
    else p := by
  rw [Pool.servedClaims]
  exact ite_of_iff Iff.rfl rfl (ite_of_iff Context.followsServed_iff rfl rfl)

/-- An entry of the map changes, and no other. -/
theorem Slot.map_enter (sl : Slot) (c : Nat) (m : MapEntry) (d : Nat) :
    Table.get MapEntry.idle (sl.enter c m).map d = if d = c then m else Table.get MapEntry.idle sl.map d :=
  Table.get_set _ _ _ _ _

/-- The pool in which a blend's output bucket is held. -/
theorem Pool.blendAllocate_some {p : Pool} {out : Nat} {rest : List Nat} (hroom : p.inUse .blend < p.blendSize)
    (hfree : p.freeList = out :: rest) : p.blendAllocate
      = (some out, { p.setBucket out { state := .held, pinCount := 1, charged := .blend } with freeList := rest }) := by
  rw [Pool.blendAllocate, if_pos (by simp [Pool.blendRoom, hroom, hfree]), Pool.allocate, hfree]

end

/-- An update of one slot and of one context, with the claims made meanwhile, and perhaps a job. -/
def State.chosen (s : State) (g n k : Nat) (p : Pool) (b : List BlendJob) (f : Slot → Slot) (h : Context → Context) : State :=
  ({ s with pool := p, blend := b }.modifySlot g (n % 16) f).modifyContext k h

section
variable {s : State} {g n k : Nat} {p : Pool} {b : List BlendJob} {f : Slot → Slot} {h : Context → Context}

theorem State.chosen_frame : s.chosen g n k p b f h = { s with
    pool := p, cache := { s.cache with contexts := (s.chosen g n k p b f h).cache.contexts }
    resolver := { s.resolver with rings := (s.chosen g n k p b f h).resolver.rings }, blend := b } := rfl

theorem State.context_chosen (j : Nat) : (s.chosen g n k p b f h).context j = if j = k then h (s.context k) else s.context j :=
  State.context_modifyContext _ _ _ _

theorem State.slot_chosen (g' k' : Nat) : (s.chosen g n k p b f h).slot g' k'
    = if g' = g ∧ k' = n % 16 then f (s.slot g (n % 16)) else s.slot g' k' :=
  State.slot_modifySlot { s with pool := p, blend := b } g g' (n % 16) k' f

theorem State.slot_chosen_same : (s.chosen g n k p b f h).slot g (n % 16) = f (s.slot g (n % 16)) :=
  (State.slot_chosen _ _).trans (if_pos ⟨rfl, rfl⟩)

end

/-- Of the contexts only `k` changes, of the slots only `m` of group `g`, and of its map only the entry of channel `c`. -/
structure State.ChannelMoved (g m k c : Nat) (s t : State) : Prop where
  frame : t = { s with
    pool := t.pool, cache := { s.cache with contexts := t.cache.contexts }
    resolver := { s.resolver with rings := t.resolver.rings }, blend := t.blend }
  contexts : ∀ k', k' ≠ k → t.context k' = s.context k'
  slots : ∀ g' k', g' ≠ g ∨ k' ≠ m → t.slot g' k' = s.slot g' k'
  map : ∀ c', c' ≠ c → Table.get MapEntry.idle (t.slot g m).map c' = Table.get MapEntry.idle (s.slot g m).map c'

section
variable {s t : State} {g n k c : Nat}

theorem State.ChannelMoved.refl (g m k c : Nat) (s : State) : State.ChannelMoved g m k c s s :=
  ⟨rfl, fun _ _ => rfl, fun _ _ _ => rfl, fun _ _ => rfl⟩

theorem State.channelMoved_chosen {p : Pool} {b : List BlendJob} {f : Slot → Slot} {h : Context → Context}
    (hf : ∀ sl c', c' ≠ c → Table.get MapEntry.idle (f sl).map c' = Table.get MapEntry.idle sl.map c') :
    State.ChannelMoved g (n % 16) k c s (s.chosen g n k p b f h) :=
  ⟨State.chosen_frame, fun j hj => (State.context_chosen j).trans (if_neg hj),
    fun g' k' hne => (State.slot_chosen g' k').trans (if_neg fun h => hne.elim (fun hn => hn h.1) fun hn => hn h.2),
    fun c' hc => by rw [State.slot_chosen_same, hf _ _ hc]⟩

theorem Slot.map_enter_other (sl : Slot) {c c' : Nat} (m : MapEntry) (h : c' ≠ c) :
    Table.get MapEntry.idle (sl.enter c m).map c' = Table.get MapEntry.idle sl.map c' :=
  (sl.map_enter c m c').trans (if_neg h)

theorem State.ChannelMoved.patched (h : State.ChannelMoved g (n % 16) k c s t) :
    State.ChannelMoved g (n % 16) k c s (t.modifySlot g (n % 16) Slot.addPatched) := by
  obtain ⟨hslot, hslots, -⟩ := t.modifySlot_frame g (n % 16) Slot.addPatched
  refine ⟨?_, h.contexts, fun g' k' hne => (hslots g' k' hne).trans (h.slots g' k' hne), fun c' hc => ?_⟩
  · have hframe := h.frame
    rw [State.modifySlot, State.modifyRing]
    generalize Table.set Ring.initial t.resolver.rings g _ = rings
    rw [hframe]
  · rw [hslot]
    exact h.map c' hc

/-- A source is entered for the channel of context `k`. -/
def State.entered (s : State) (g n k : Nat) (p : Pool) (m : MapEntry) (h : Context → Context) : State :=
  s.chosen g n k p s.blend (fun sl => sl.enter (s.context k).channel m) h

theorem State.applyChoice_target (e : Entry) (u : Option Entry) : s.applyChoice g n k (.target e u)
    = s.entered g n k (((s.pool.pin e.bucket).freeOpt (u.map (·.bucket))).servedClaims (s.context k) (s.group g) e)
      { bucket := e.bucket, source := .ofRole (s.group g).targetRole } (fun y => y.served (s.group g) n e) := rfl

theorem State.applyChoice_other (o : Entry) : s.applyChoice g n k (.other o)
    = (s.entered g n k ((s.pool.pin o.bucket).servedClaims (s.context k) (s.group g) o)
      { bucket := o.bucket, source := .ofRole (s.group g).targetRole.other } (fun y => y.served (s.group g) n o)).modifySlot
        g (n % 16) Slot.addPatched := rfl

theorem State.applyChoice_repeatFill (b : Nat) (u : Option Entry) : s.applyChoice g n k (.repeatFill b u)
    = s.entered g n k ((s.pool.pin b).freeOpt (u.map (·.bucket))) { bucket := b, source := .repeatFill }
      (fun y => { y.passed n with repeatRun := y.repeatRun + 1 }) := rfl

theorem State.applyChoice_silence (u : Option Entry) : s.applyChoice g n k (.silence u)
    = s.entered g n k (s.pool.freeOpt (u.map (·.bucket))) { bucket := 0, source := .silence } (fun y => y.passed n) := rfl

/-- The job of a blend of entry `e` over entry `o` into bucket `out`. -/
def State.blendJob (s : State) (g n k : Nat) (e o : Entry) (out : Nat) : BlendJob :=
  { group := g, block := n, channel := (s.context k).channel, old := o.bucket, new := e.bucket, output := out
    fadeIndex := n - (s.group g).switchPoint, fadeLength := (s.group g).fadeLength, phase := .queued, samples := none }

theorem State.applyChoice_blend {e o : Entry} {out : Nat} {p : Pool} (h : s.pool.blendAllocate = (some out, p)) :
    s.applyChoice g n k (.blend e o)
      = s.chosen g n k (((p.pin e.bucket).pin o.bucket).servedClaims (s.context k) (s.group g) e)
        (startHead (s.blend ++ [s.blendJob g n k e o out]))
        (fun sl => { sl.enter (s.context k).channel { bucket := out, source := .blend } with outstanding := sl.outstanding + 1 })
        (fun y => y.served (s.group g) n e) := by
  rw [State.applyChoice, State.beginBlend, h]
  rfl

theorem State.applyChoice_noBlend {e o : Entry} {p : Pool} (h : s.pool.blendAllocate = (none, p)) :
    s.applyChoice g n k (.blend e o) = s := by
  rw [State.applyChoice, State.beginBlend, h]

theorem State.channelMoved_applyChoice (s : State) (g n k : Nat) (ch : Choice) :
    State.ChannelMoved g (n % 16) k (s.context k).channel s (s.applyChoice g n k ch) := by
  have hentered : ∀ p m h, State.ChannelMoved g (n % 16) k (s.context k).channel s (s.entered g n k p m h) :=
    fun _ _ _ => State.channelMoved_chosen fun sl _ hc => sl.map_enter_other _ hc
  cases ch with
  | idle => exact .refl ..
  | target e u => exact hentered ..
  | other o => exact (hentered ..).patched
  | repeatFill b u => exact hentered ..
  | silence u => exact hentered ..
  | blend e o =>
    cases h : s.pool.blendAllocate with
    | mk out p =>
      cases out with
      | none => rw [State.applyChoice_noBlend h]; exact .refl ..
      | some out =>
        rw [State.applyChoice_blend h]
        exact State.channelMoved_chosen fun sl _ hc => sl.map_enter_other _ hc

theorem State.blend_applyChoice {ch : Choice} (h : ∀ e o, ch ≠ .blend e o) : (s.applyChoice g n k ch).blend = s.blend := by
  cases ch with
  | blend e o => exact absurd rfl (h e o)
  | idle | target | other | repeatFill | silence => rfl

theorem State.slot_entered (p : Pool) (m : MapEntry) (h : Context → Context) : (s.entered g n k p m h).slot g (n % 16)
    = (s.slot g (n % 16)).enter (s.context k).channel m := State.slot_chosen_same

theorem State.context_entered (p : Pool) (m : MapEntry) (h : Context → Context) :
    (s.entered g n k p m h).context k = h (s.context k) := (State.context_chosen k).trans (if_pos rfl)

theorem Slot.map_enter_same (sl : Slot) (c : Nat) (m : MapEntry) : Table.get MapEntry.idle (sl.enter c m).map c = m :=
  (sl.map_enter c m c).trans (if_pos rfl)

end

end Sys2Proof.Machine
end

section
/-! # A resolution (R86 to R98), settled -/

namespace Sys2Proof.Machine

/-! ### The ring before a resolution (R87) -/

section
variable (s : State) (g : Nat)

theorem State.cache_advancePlayBase : ∀ (fuel : Nat) (s : State), (s.advancePlayBase g fuel).cache = s.cache
  | 0, _ => rfl
  | fuel + 1, s => by
    rw [State.advancePlayBase]
    split
    · rw [State.cache_advancePlayBase fuel, State.recycle_eq]
    · rfl

theorem State.cache_partRelease (k : Nat) : (s.partRelease g k).cache = s.cache := by
  rw [State.partRelease, State.releaseSlot, State.cache_advancePlayBase]
  have hreport := s.reportLate_eq g k
  generalize s.reportLate g k = u at hreport ⊢
  rw [hreport]
  rfl

theorem State.cache_releaseOverdue (n k : Nat) : (s.releaseOverdue g n k).cache = s.cache := by
  unfold State.releaseOverdue
  split
  · exact s.cache_partRelease g k
  · rfl

theorem State.cache_clearRing (n : Nat) : (s.clearRing g n).cache = s.cache :=
  foldl_keeps State.cache _ (fun t _ => t.cache_releaseOverdue g n _) _ s

/-- No slot of the ring is overdue. -/
theorem State.clearRing_none {n : Nat} (h : ∀ k, k < 16 → n < (s.slot g k).block + 16 ∨ (s.slot g k).state = .released) :
    s.clearRing g n = s := by
  have hone : ∀ k, k < 16 → s.releaseOverdue g n k = s := fun k hk => if_neg fun ⟨hb, hs⟩ =>
    (h k hk).elim (fun hn => absurd hb (by omega)) fun hr => hs hr
  have hall : ∀ l : List Nat, l.foldl (fun t i => t.releaseOverdue g n (((s.ring g).playBase + i) % 16)) s = s := fun l => by
    induction l with
    | nil => rfl
    | cons i l ih => rw [List.foldl_cons, hone _ (Nat.mod_lt _ (by omega)), ih]
  exact hall _

/-- The slot of the resolution, before its channels are entered. -/
theorem Slot.opened_eq (sl : Slot) (gr : GroupRecord) (n : Nat) : sl.opened gr n = { sl with
    block := n, outstanding := 0, map := [], counts := Counts.zero, servedRole := gr.targetRole
    switchMark := decide (gr.switchPoint = n ∧ gr.lastSwitchCause ≠ .none)
    fadeMark := decide (gr.selectState.fading = true ∧ gr.switchPoint ≤ n ∧ n < gr.fadeEnd)
    awaitingRecord := true, awaitingHeader := false } := by
  rw [Slot.opened, GroupRecord.marksSwitch_eq, GroupRecord.inFade_eq]

end

/-! ### A source that serves a role (R92, R93, R98) -/

theorem Source.ofRole_eq (r : Role) : Source.ofRole r = if r = .main then .main else .backup := by cases r <;> rfl

theorem Slot.enter_role (sl : Slot) (c b : Nat) (r : Role) : sl.enter c { bucket := b, source := .ofRole r } = { sl with
    map := (sl.enter c { bucket := b, source := .ofRole r }).map
    counts := { sl.counts with
      main := sl.counts.main + (if r = .main then 1 else 0)
      backup := sl.counts.backup + (if r = .backup then 1 else 0) } } := by
  cases r <;> rfl

/-- Settles O49: the choice by the entries that are there, what it does by its kind, then the group and the resolution. -/
theorem sourceChoice : Obligations.SourceChoice := by
  refine ⟨fun x gr tv av n t o room fill hrepeat hsilence => ?choice, fun s g n k x gr h ch hx hgr hh hch => ?channel,
    fun s t g n k ch x gr sl mine other used claims lists ht hx hgr hsl hmine hother hlists hused hclaims => ?effect,
    fun s g n gr contexts hgr hcontexts => ?group, fun s chosen sampled n groups hn hgroups hchosen hsampled => ?resolution,
    fun s u early hu => ?period⟩
  case choice =>
    have hfill := fillChoice_eq hrepeat hsilence
    refine ⟨fun hs => if_neg (by rw [hs]; nofun), fun hs => (if_pos hs).trans (hfill none), chooseSource_blend,
      chooseSource_both, rfl, fun hd hp => chooseSource_other ⟨hd, hp⟩, fun h => ?_⟩
    refine (chooseSource_uncovered fun hc => ?_).trans (hfill (some o))
    rcases h with h | ⟨hp, hv⟩
    · exact hc.1 h
    · exact hc.2.elim (fun h => nomatch hp.symm.trans h) hv
  case channel =>
    subst hx hgr hh hch
    rw [Bool.and_assoc]
    rfl
  case effect =>
    subst ht hx hgr hsl hmine hother hlists
    have hmoved := s.channelMoved_applyChoice g n k ch
    have hserved : ∀ e, used e = (s.context k).served (s.group g) n e := fun e => (hused e).trans (Context.served_eq n).symm
    have hclaimed : ∀ e p, claims e p = p.servedClaims (s.context k) (s.group g) e :=
      fun e p => (hclaims e p).trans (Pool.servedClaims_eq p).symm
    refine ⟨hmoved.frame, fun h => by rw [h]; rfl, hmoved.contexts, hmoved.slots, hmoved.map, State.blend_applyChoice,
      fun e unused h => ?target, fun o h => ?other, fun b unused h => ?repeatFill, fun unused h => ?silence,
      fun e o out rest p job h hroom hfree hp hjob => ?blend⟩
    case target =>
      rw [h, State.applyChoice_target, State.slot_entered, State.context_entered, Slot.map_enter_same, hserved, hclaimed]
      exact ⟨rfl, rfl, congrArg _ (Source.ofRole_eq _), Slot.enter_role ..⟩
    case other =>
      rw [h, State.applyChoice_other]
      generalize hu : s.entered g n k _ _ _ = u
      obtain ⟨hslot, -, -⟩ := u.modifySlot_frame g (n % 16) Slot.addPatched
      have hentered : u.slot g (n % 16) = (s.slot g (n % 16)).enter (s.context k).channel
          { bucket := o.bucket, source := .ofRole (s.group g).targetRole.other } := by rw [← hu, State.slot_entered]
      have hcontext : u.context k = (s.context k).served (s.group g) n o := by rw [← hu, State.context_entered]
      have hpool : u.pool = (s.pool.pin o.bucket).servedClaims (s.context k) (s.group g) o := by rw [← hu]; rfl
      refine ⟨hcontext.trans (hserved o).symm, hpool.trans (hclaimed o _).symm, ?_, ?_⟩
      · rw [hslot, hentered]
        exact (Slot.map_enter_same ..).trans (congrArg _ (Source.ofRole_eq _))
      · rw [hslot, hentered, Slot.enter_role]
        rfl
    case repeatFill =>
      rw [h, State.applyChoice_repeatFill, State.slot_entered, State.context_entered, Slot.map_enter_same]
      exact ⟨rfl, rfl, rfl, rfl⟩
    case silence =>
      rw [h, State.applyChoice_silence, State.slot_entered, State.context_entered, Slot.map_enter_same]
      exact ⟨rfl, rfl, rfl, rfl⟩
    case blend =>
      have hallocate := Pool.blendAllocate_some hroom hfree
      rw [← hp] at hallocate
      rw [h, State.applyChoice_blend hallocate, State.slot_chosen_same, State.context_chosen, if_pos rfl, hserved, hclaimed]
      have hqueued : s.blendJob g n k e o out = job := hjob.symm
      refine ⟨rfl, rfl, Slot.map_enter_same .., rfl, fun hb => ?_, fun j js hb hj => ?_⟩
      · rw [hjob]
        exact congrArg (fun b => startHead (b ++ [s.blendJob g n k e o out])) hb
      · rw [← hqueued]
        refine (congrArg (fun b => startHead (b ++ [s.blendJob g n k e o out])) hb).trans ?_
        rw [hb]
        exact startHead_running hj
  case group =>
    subst hgr hcontexts
    have hslot := (s.clearRing g n).modifySlot_frame g (n % 16) (fun sl => sl.opened (s.group g) n)
    have hcache : ((s.clearRing g n).modifySlot g (n % 16) (fun sl => sl.opened (s.group g) n)).cache = s.cache :=
      s.cache_clearRing g n
    refine ⟨s.clearRing g n, (s.clearRing g n).modifySlot g (n % 16) (fun sl => sl.opened (s.group g) n), _, ?_,
      s.clearRing_none g, rfl, hslot.1.trans (Slot.opened_eq ..), hslot.2.1, rfl, ?_⟩
    · rw [List.foldl_map]
      rfl
    · have hlist : ((s.clearRing g n).modifySlot g (n % 16) (fun sl => sl.opened (s.group g) n)).contextsOf g
          = s.cache.validContexts.filter (fun k => decide ((s.context k).group = g)) := by
        rw [State.contextsOf, hcache]
        simp only [State.context, hcache]
        rfl
      rw [State.resolveGroup]
      dsimp only
      rw [hlist]
      rfl
  case resolution =>
    subst hn hgroups hsampled
    obtain ⟨u, rfl, rfl⟩ := hchosen
    rw [State.resolve]
    refine congrArg (fun f => List.foldl f _ s.definedGroups) (funext fun t => funext fun g => ?_)
    refine ite_of_iff ?_ rfl rfl
    simp only [Bool.and_eq_true, GroupRecord.inFade_iff, beq_iff_eq]
    exact ⟨fun ⟨⟨hf, hp, _⟩, he⟩ => ⟨hf, hp, he⟩, fun ⟨hf, hp, he⟩ => ⟨⟨hf, hp, by omega⟩, he⟩⟩
  case period =>
    subst hu
    rfl

end Sys2Proof.Machine
end

section
/-! # Local Port reads (R83 to R85, R156, R158, R159, R162) -/

namespace Sys2Proof.Machine

/-! ### A request and the events that follow it -/

section
variable {s : State}

theorem exec_burst (hrst : s.lines.resetLow = false) (m : Nat) (ev : List PortEvent) :
    exec (.liveWindowRead .burst m ev) s = .next (s.portEvents ev) := congrArg Host.Outcome.next (State.unlessHeld_high hrst _)

theorem exec_localRead (hrst : s.lines.resetLow = false) (x n : Nat) (ev : List PortEvent) :
    exec (.liveWindowRead (.localPort x) n ev) s = .next ((s.localRequest (.read x n)).portEvents ev) :=
  congrArg Host.Outcome.next (State.unlessHeld_high hrst _)

/-- An event of the Memory Port leaves RESET_N. -/
theorem State.resetLow_portEvent (e : PortEvent) : (s.portEvent e).lines.resetLow = s.lines.resetLow :=
  congrArg Ground.resetLow (State.ReadsOn.portEvent s e).unread

theorem exec_answer (hrst : s.lines.resetLow = false) {b : ReadBurst} (hb : s.burst = some b) (m : Nat) (st : ReadStatus) :
    exec (.liveWindowRead .burst m [.answer st]) s = .next ((s.readWordOf b st).1.keepRead (s.readWordOf b st).2) := by
  rw [exec_burst hrst, State.portEvents, List.foldl_cons, List.foldl_nil, State.portEvent, hb]

end

/-! ### A word that is given -/

/-- The read with its next word given, with Error or without. -/
def ReadBurst.given (b : ReadBurst) (w : Word) (e : Bool) : ReadBurst := { b.give w with error := b.error || e }

section
variable {s : State} {b : ReadBurst}

theorem ReadBurst.give_eq (b : ReadBurst) (w : Word) : b.give w = b.given w false := by
  rw [ReadBurst.given, Bool.or_false]
  rfl

theorem ReadBurst.fail_eq (b : ReadBurst) : b.fail = b.given 0 true := by
  rw [ReadBurst.given, Bool.or_true]
  rfl

/-- Behind its last word the read is answered and what waited is taken; else it stays under way. -/
theorem State.keepRead_given (hb : 0 < b.left) (u : State) (w : Word) (e : Bool) : u.keepRead (b.given w e)
    = if b.left = 1 then b.waiting.foldl State.localRequest
        { u with burst := none, answers := u.answers ++ [⟨b.data ++ [w], b.error || e⟩] }
      else { u with burst := some { b with
        addr := b.addr + 4, left := b.left - 1, data := b.data ++ [w], error := b.error || e, entry := none } } := by
  have hlast : (b.given w e).left = 0 ↔ b.left = 1 := by
    show b.left - 1 = 0 ↔ b.left = 1
    omega
  rw [State.keepRead]
  exact ite_of_iff hlast rfl rfl

/-- A word of DRAM is given, or Error. -/
theorem ReadBurst.readAt_ok (m : Memory) (x : Nat) {st : ReadStatus} (h : st = .ok ∨ st = .entryRead) :
    b.readAt m x st = b.given (readWord m x) false := by
  rcases h with rfl | rfl <;> exact b.give_eq _

theorem ReadBurst.readAt_error (m : Memory) (x : Nat) {st : ReadStatus} (h : st = .firstError ∨ st = .secondError) :
    b.readAt m x st = b.given 0 true := by
  rcases h with rfl | rfl <;> exact b.fail_eq

/-! ### Where a word is read -/

theorem State.readWordOf_entry {x : Nat} (h : b.entry = some x) (st : ReadStatus) :
    s.readWordOf b st = (s, b.readAt s.mem x st) := by
  rw [State.readWordOf, h]

theorem Anchor.classOf_reads (a : Anchor) (x : Nat) : a.classOf x ≠ .liveWindow ∧ a.classOf x ≠ .unmapped := by
  unfold Anchor.classOf
  repeat' split
  all_goals exact ⟨nofun, nofun⟩

theorem State.localClass_dram {x : Nat} (hlo : x < s.lines.dramSize) (hhi : x < 4294967296) :
    s.localClass x ≠ .liveWindow ∧ s.localClass x ≠ .unmapped := by
  rw [State.localClass, if_neg (by omega), if_neg (by omega)]
  split
  · exact ⟨nofun, nofun⟩
  · split
    · exact ⟨nofun, nofun⟩
    · exact Anchor.classOf_reads _ x

theorem State.localClass_unmapped {x : Nat}
    (h : 4294967296 + 67108864 ≤ x ∨ (s.lines.dramSize ≤ x ∧ x < 4294967296)) : s.localClass x = .unmapped := by
  have hd := dramSize_bounds s.lines
  rw [State.localClass, if_neg (by omega), if_pos (by omega)]

theorem State.localClass_live {x : Nat} (hlo : 4294967296 ≤ x) (hhi : x < 4294967296 + 67108864) :
    s.localClass x = .liveWindow := if_pos ⟨hlo, hhi⟩

theorem State.readWordOf_dram (he : b.entry = none) (hlo : b.addr < s.lines.dramSize) (hhi : b.addr < 4294967296)
    (st : ReadStatus) : s.readWordOf b st = (s, b.readAt s.mem b.addr st) := by
  obtain ⟨hlive, hnone⟩ := s.localClass_dram hlo hhi
  rw [State.readWordOf, he]
  dsimp only
  split
  · exact absurd ‹_› hlive
  · exact absurd ‹_› hnone
  · rfl

theorem State.readWordOf_unmapped (he : b.entry = none)
    (h : 4294967296 + 67108864 ≤ b.addr ∨ (s.lines.dramSize ≤ b.addr ∧ b.addr < 4294967296)) (st : ReadStatus) :
    s.readWordOf b st = (s, b.given 0 true) := by
  rw [State.readWordOf, he, State.localClass_unmapped h, ← b.fail_eq]

/-! ### The Live Window (R83) -/

variable {g k c o : Nat}

theorem livePlace_eq (hk : k < 16) (hc : c < 1024) (ho : o < 512) {x : Nat}
    (hx : x = 4294967296 + 8388608 * g + 524288 * k + 512 * c + o) : livePlace x = ⟨g, k, 512 * c + o⟩ := by
  rw [livePlace, show (x - 4294967296) / 8388608 = g by omega, show (x - 4294967296) % 8388608 / 524288 = k by omega,
    show (x - 4294967296) % 524288 = 512 * c + o by omega]

theorem State.readWordOf_live (he : b.entry = none) (hg : g < 8) (hk : k < 16) (hc : c < 1024) (ho : o < 512)
    (hx : b.addr = 4294967296 + 8388608 * g + 524288 * k + 512 * c + o) (st : ReadStatus) :
    s.readWordOf b st = s.liveWord b st := by
  rw [State.readWordOf, he, State.localClass_live (by omega) (by omega)]

theorem State.liveWord_hole (hp : livePlace b.addr = ⟨g, k, 512 * c + o⟩) (h : s.part.state = .quiet ∨ s.part.state = .standby
    ∨ (s.group g).defined = false ∨ 768 ≤ c) (st : ReadStatus) : s.liveWord b st = (s, b.given 0 false) := by
  rw [State.liveWord, hp, ← b.give_eq]
  dsimp only
  by_cases hs : s.part.state = .quiet ∨ s.part.state = .standby
  · rw [if_pos hs]
  · rw [if_neg hs, if_pos]
    rcases h with h | h | h | h
    · exact absurd (Or.inl h) hs
    · exact absurd (Or.inr h) hs
    · exact Or.inl h
    · exact Or.inr (by omega)

/-- A word of a slot of a defined group in a show. -/
theorem State.liveWord_shown (hp : livePlace b.addr = ⟨g, k, 512 * c + o⟩) (hs : s.part.state = .armed ∨ s.part.state = .running)
    (hd : (s.group g).defined = true) (hc : c < 768) (ho : o < 512) (st : ReadStatus) : s.liveWord b st
      = match (s.slot g k).state with
        | .empty => s.readEarly b
        | .blending => s.readEarly b
        | .ready => s.translate b g k c o st
        | .released => s.translate b g k c o st := by
  have hshow : ¬(s.part.state = .quiet ∨ s.part.state = .standby) := by
    rcases hs with hs | hs <;> rw [hs] <;> exact fun h => h.elim nofun nofun
  have hplace : ¬((s.group g).defined = false ∨ 393216 ≤ 512 * c + o) := fun h =>
    h.elim (fun h => nomatch h.symm.trans hd) fun h => by omega
  rw [State.liveWord, hp]
  dsimp only
  rw [if_neg hshow, if_neg hplace, show (512 * c + o) / 512 = c by omega, show (512 * c + o) % 512 = o by omega] <;> rfl

theorem State.readEarly_counted (h : b.early = true) : s.readEarly b = (s, b.given 0 false) := by
  rw [State.readEarly, if_pos h, ← b.give_eq, ← h]
  rfl

theorem State.readEarly_first (h : b.early = false) :
    s.readEarly b = (s.countReaderEarly, ({ b with early := true } : ReadBurst).given 0 false) := by
  rw [State.readEarly, if_neg (by rw [h]; nofun), ← ReadBurst.give_eq]
  rfl

/-- The byte address of the bucket word that a map entry in DRAM names (R83, R181). -/
theorem State.liveAddr_eq {a : Anchor} (ha : s.sup.anchor = some a) : s.liveAddr g k c o = s.pool.base
    + (readWord s.mem (a.liveDirectoryBase + 4096 * (16 * g + k) + 64 + 4 * c)).toNat % 131072 * 512 + o := by
  have hrecord : s.recordAddr g k = a.liveDirectoryBase + 4096 * (16 * g + k) := by
    rw [State.recordAddr, Sys2Proof.Machine.recordAddr, State.liveBase, ha]
    dsimp only
    omega
  rw [State.liveAddr, State.recordBucket, Pool.byteAddr, hrecord]

theorem State.ring_setMapFault (v : Bool) (h : Nat) : (s.setMapFault g v).ring h
    = if h = g then { s.ring g with mapFaultReported := v } else s.ring h := State.ring_modifyRing _ g h _

theorem State.mapFault_eq (hq : s.part.state ≠ .quiet) : s.mapFault g k c = { s with
    resolver := { s.resolver with rings := (s.mapFault g k c).resolver.rings }
    notices := if (s.ring g).mapFaultReported then s.notices else s.notices.post
      { group := some g, source := none, period := s.part.period, body := .memoryFaultMap c k } } := by
  unfold State.mapFault
  by_cases hr : (s.ring g).mapFaultReported = true
  · rw [if_pos hr, if_pos hr]
  · rw [if_neg hr, if_neg hr, State.post_outside_quiet hq]
    rfl

theorem State.ring_mapFault (h : Nat) : (s.mapFault g k c).ring h
    = if h = g then { s.ring g with mapFaultReported := true } else s.ring h := by
  unfold State.mapFault
  by_cases hr : (s.ring g).mapFaultReported = true
  · rw [if_pos hr]
    split
    next hg => rw [hg, ← hr]
    next => rfl
  · rw [if_neg hr]
    exact State.ring_setMapFault true h

end

/-- Settles O51, by the address of the word and, in the Live Window, by the state of its slot. -/
theorem localPortReads : Obligations.LocalPortReads := by
  refine ⟨fun s x n m ev hrst => ⟨fun hb => ?_, fun b hb => ?_, exec_burst hrst m [], fun e => ⟨s.portEvent e,
      exec_burst hrst m [e], ?_⟩⟩, fun s m n w hrst => exec_burst hrst m _, fun s m st hb hrst => ?_,
    fun s m st b after hrst hb hleft hafter => ?answered⟩
  · rw [exec_localRead hrst, State.localRequest_read hb]
    exact (exec_burst (s := { s with burst := some (ReadBurst.new x (n + 1)) }) hrst m ev).symm
  · rw [exec_localRead hrst, State.localRequest_waits hb]
    exact (exec_burst (s := { s with burst := some { b with waiting := b.waiting ++ [.read x n] } }) hrst m ev).symm
  · rw [exec_burst (State.resetLow_portEvent e |>.trans hrst), exec_burst hrst]
    rfl
  · rw [exec_burst hrst, State.portEvents, List.foldl_cons, List.foldl_nil, State.portEvent, hb]
  case answered =>
    have hgiven : ∀ (c : ReadBurst) u w e, c.left = b.left → u.keepRead (c.given w e) = after c u w e := fun c u w e hc => by
      rw [State.keepRead_given (by rw [hc]; exact hleft), hafter]
    have hanswer := fun {t : State} {c : ReadBurst} {w : Word} {e : Bool} (h : s.readWordOf b st = (t, c.given w e))
        (hc : c.left = b.left) => (exec_answer hrst hb m st).trans (congrArg Host.Outcome.next
          ((congrArg (fun p : State × ReadBurst => p.1.keepRead p.2) h).trans (hgiven c t w e hc)))
    refine ⟨fun y hy => ⟨fun hst => hanswer (c := b) ?_ rfl, fun hst => hanswer (c := b) ?_ rfl⟩,
      fun he => ⟨fun hlo hhi => ⟨fun hst => hanswer (c := b) ?_ rfl, fun hst => hanswer (c := b) ?_ rfl⟩,
        fun h => hanswer (c := b) (State.readWordOf_unmapped he h st) rfl, fun g k c o hg hk hc ho hx => ?live⟩⟩
    · rw [State.readWordOf_entry hy, ReadBurst.readAt_ok _ _ hst]
    · rw [State.readWordOf_entry hy, ReadBurst.readAt_error _ _ hst]
    · rw [State.readWordOf_dram he hlo hhi, ReadBurst.readAt_ok _ _ hst]
    · rw [State.readWordOf_dram he hlo hhi, ReadBurst.readAt_error _ _ hst]
    case live =>
      have hlive := State.readWordOf_live (s := s) he hg hk hc ho hx st
      have hplace := livePlace_eq hk hc ho hx
      refine ⟨fun h => hanswer (c := b) (hlive.trans (State.liveWord_hole hplace h st)) rfl, fun hs hd hc' => ?_⟩
      have hshown := hlive.trans (State.liveWord_shown hplace hs hd hc' ho st)
      refine ⟨fun hstate => ?early, fun hstate a y ha hy => ?ready⟩
      case early =>
        have hword : s.readWordOf b st = s.readEarly b := by rw [hshown]; rcases hstate with h | h <;> rw [h]
        exact ⟨fun h => hanswer (c := b) (hword.trans (State.readEarly_counted h)) rfl,
          fun h => hanswer (c := { b with early := true }) (hword.trans (State.readEarly_first h)) rfl⟩
      case ready =>
        have hword : s.readWordOf b st = s.translate b g k c o st := by rw [hshown]; rcases hstate with h | h <;> rw [h]
        have hquiet : s.part.state ≠ .quiet := by rcases hs with h | h <;> rw [h] <;> nofun
        have haddr : s.liveAddr g k c o = y := (State.liveAddr_eq ha).trans hy.symm
        refine ⟨s.setMapFault g false, s.mapFault g k c, rfl, (State.ring_setMapFault false g).trans (if_pos rfl),
          fun h hne => (State.ring_setMapFault false h).trans (if_neg hne), State.mapFault_eq hquiet,
          (State.ring_mapFault g).trans (if_pos rfl), fun h hne => (State.ring_mapFault h).trans (if_neg hne),
          fun hst => hanswer (c := b) (hword.trans ?_) rfl, fun hst => ?_, fun hst => hanswer (c := b) (hword.trans ?_) rfl,
          fun hst => hanswer (c := b) (hword.trans ?_) rfl⟩
        · rw [hst, State.translate, haddr, ReadBurst.give_eq]
        · rw [exec_answer hrst hb, hword, hst, State.translate, haddr, State.keepRead]
          exact congrArg Host.Outcome.next (if_neg (Nat.ne_of_gt hleft))
        · rw [hst, State.translate, ReadBurst.fail_eq]
        · rw [hst, State.translate, ReadBurst.fail_eq]

end Sys2Proof.Machine
end

section
/-! # Local Port writes (R156, R158 to R160) -/

namespace Sys2Proof.Machine

/-! ### The bytes of a write -/

/-- A byte that no enable reaches keeps its value. -/
theorem readByte_writeEnabled_kept (m : Memory) {x y : Nat} (v : Word) {en : Enables}
    (h : ∀ i, i < 4 → y = x + i → en.getLsbD i = false) : readByte (writeEnabled m x v en) y = readByte m y := by
  by_cases hin : x ≤ y ∧ y < x + 4
  · obtain ⟨i, hi, rfl⟩ : ∃ i, i < 4 ∧ y = x + i := ⟨y - x, by omega, by omega⟩
    rw [readByte_writeEnabled_inside m x v en hi, h i hi rfl, if_neg nofun]
  · exact readByte_writeEnabled_of_outside m v en (by omega)

/-! ### The rows of a write -/

section
variable {s : State}

/-- The five rows are one request each. -/
theorem exec_writeRows (hrst : s.lines.resetLow = false) (v : Word) (en : Enables) :
    (∀ x, exec (.localPortWrite x v en) s = .next (s.localRequest (.write x v en)))
      ∧ exec (.goWrite v en) s = .next (s.localRequest (.write 0 v en))
      ∧ exec (.commandKick v en) s = .next (s.localRequest (.write 44 v en))
      ∧ exec (.noticeReturn v en) s = .next (s.localRequest (.write 48 v en)) :=
  ⟨fun _ => congrArg Host.Outcome.next (State.unlessHeld_high hrst _), congrArg Host.Outcome.next (State.unlessHeld_high hrst _),
    congrArg Host.Outcome.next (State.unlessHeld_high hrst _), congrArg Host.Outcome.next (State.unlessHeld_high hrst _)⟩

theorem exec_releaseRow (hrst : s.lines.resetLow = false) {a : Anchor} (ha : s.sup.anchor = some a) (g k : Nat) (v : Word)
    (en : Enables) : exec (.readerRelease g k v en) s
      = .next (s.localRequest (.write (a.liveDirectoryBase + 4096 * (16 * g + k) + 12) v en)) := by
  have haddr : releaseAddr a.liveDirectoryBase g k = a.liveDirectoryBase + 4096 * (16 * g + k) + 12 := by
    rw [releaseAddr, Sys2Proof.Machine.recordAddr]
    omega
  have hrow : exec (.readerRelease g k v en) s
      = .next (s.unlessHeld (s.localRequest (.write (releaseAddr a.liveDirectoryBase g k) v en))) := by
    simp only [exec, execReaderRelease, ha]
  rw [hrow, State.unlessHeld_high hrst, haddr]

end

/-! ### The class of a word (R158) -/

theorem Region.holds_iff (r : Region) (x : Nat) : r.holds x = true ↔ r.base ≤ x ∧ x < r.base + r.extent := by
  simp [Region.holds]

section
variable {a : Anchor} {x d : Nat}

/-- Where the regions lie that the Local Port guards: above the anchor, and each apart from those decided before it. -/
theorem Anchor.guarded_places (h : a.ok d = true) :
    (a.noticeRingBase % 32 = 0 ∧ a.liveDirectoryBase % 4096 = 0)
    ∧ (64 ≤ a.noticeRingBase ∧ 64 ≤ a.statusBase ∧ 64 ≤ a.channelDirectoryBase ∧ 64 ≤ a.liveDirectoryBase ∧ 64 ≤ a.poolBase)
    ∧ (a.noticeRingBase + a.noticeRingEntries * 32 ≤ a.liveDirectoryBase ∨ a.liveDirectoryBase + 524288 ≤ a.noticeRingBase)
    ∧ ∀ r ∈ [(a.statusBase, 512), (a.channelDirectoryBase, 24576), (a.poolBase, a.poolBuckets * 512)],
      (a.liveDirectoryBase + 524288 ≤ r.1 ∨ r.1 + r.2 ≤ a.liveDirectoryBase)
        ∧ (a.noticeRingBase + a.noticeRingEntries * 32 ≤ r.1 ∨ r.1 + r.2 ≤ a.noticeRingBase) := by
  obtain ⟨-, ⟨-, hnotice, -, -, hlive, -⟩, hregions⟩ := (anchorChecks a d).1 h
  obtain ⟨-, habove, hapart⟩ := hregions _ rfl
  simp only [List.mem_cons, forall_eq_or_imp, List.not_mem_nil, false_implies, implies_true, and_true, List.pairwise_cons,
    List.Pairwise.nil] at habove hapart ⊢
  obtain ⟨-, ⟨hns, hnc, hnl, hnp⟩, ⟨-, hsl, -⟩, ⟨hcl, -⟩, hlp⟩ := hapart
  obtain ⟨-, hn, hs, hc, hl, hp⟩ := habove
  exact ⟨⟨hnotice, hlive⟩, ⟨hn, hs, hc, hl, hp⟩, hnl, ⟨hsl.symm, hns⟩, ⟨hcl.symm, hnc⟩, hlp, hnp⟩

/-- Above the anchor a word of the Live Directory but a release word is guarded. -/
theorem Anchor.classOf_live (h : a.ok d = true) (hx : x % 4 = 0) (hlo : a.liveDirectoryBase ≤ x)
    (hhi : x < a.liveDirectoryBase + 524288) (hne : (x - a.liveDirectoryBase) % 4096 ≠ 12) : a.classOf x = .guarded := by
  obtain ⟨⟨-, halign⟩, ⟨-, -, -, habove, -⟩, -⟩ := Anchor.guarded_places h
  rw [Anchor.classOf, if_neg (by omega), if_neg (by omega), if_pos ((Region.holds_iff _ _).2 ⟨hlo, hhi⟩), if_neg (by omega)]

theorem Anchor.classOf_notice (h : a.ok d = true) (hx : x % 4 = 0) (hlo : a.noticeRingBase ≤ x)
    (hhi : x < a.noticeRingBase + a.noticeRingEntries * 32) (hne : (x - a.noticeRingBase) % 32 ≠ 0) :
    a.classOf x = .guarded := by
  obtain ⟨⟨halign, -⟩, ⟨habove, -⟩, hapart, -⟩ := Anchor.guarded_places h
  have hlive : ¬a.liveDirectory.holds x = true := fun hin => by
    obtain ⟨hl, hu⟩ := (Region.holds_iff _ _).1 hin
    dsimp only [Anchor.liveDirectory] at hl hu
    omega
  rw [Anchor.classOf, if_neg (by omega), if_neg (by omega), if_neg hlive, if_pos ((Region.holds_iff _ _).2 ⟨hlo, hhi⟩),
    if_neg (by omega)]

/-- A word of the status record, of the Channel Directory or of the pool is guarded. -/
theorem Anchor.classOf_region (h : a.ok d = true) {r : Nat × Nat}
    (hr : r ∈ [(a.statusBase, 512), (a.channelDirectoryBase, 24576), (a.poolBase, a.poolBuckets * 512)])
    (hlo : r.1 ≤ x) (hhi : x < r.1 + r.2) : a.classOf x = .guarded := by
  obtain ⟨-, ⟨-, hs, hc, -, hp⟩, -, hapart⟩ := Anchor.guarded_places h
  obtain ⟨hlive, hnotice⟩ := hapart r hr
  have habove : 64 ≤ r.1 := by
    simp only [List.mem_cons, List.not_mem_nil, or_false] at hr
    rcases hr with rfl | rfl | rfl
    · exact hs
    · exact hc
    · exact hp
  have hnotlive : ¬a.liveDirectory.holds x = true := fun hin => by
    obtain ⟨hl, hu⟩ := (Region.holds_iff _ _).1 hin
    dsimp only [Anchor.liveDirectory] at hl hu
    omega
  have hnotnotice : ¬a.noticeRing.holds x = true := fun hin => by
    obtain ⟨hl, hu⟩ := (Region.holds_iff _ _).1 hin
    dsimp only [Anchor.noticeRing] at hl hu
    omega
  have hin : (a.channelDirectory.holds x || a.poolRegion.holds x || a.statusRegion.holds x) = true := by
    simp only [Bool.or_eq_true, Region.holds_iff]
    simp only [List.mem_cons, List.not_mem_nil, or_false] at hr
    rcases hr with rfl | rfl | rfl
    · exact Or.inr ⟨hlo, hhi⟩
    · exact Or.inl (Or.inl ⟨hlo, hhi⟩)
    · exact Or.inl (Or.inr ⟨hlo, hhi⟩)
  rw [Anchor.classOf, if_neg (by omega), if_neg (by omega), if_neg hnotlive, if_neg hnotnotice, if_pos hin]

/-- A word that no region guards is passed through, the OWN words of the Notice Ring among them. -/
theorem Anchor.classOf_passes (hx : x % 4 = 0) (hkick : x ≠ 44) (hreturn : x ≠ 48)
    (hc : ¬(a.channelDirectoryBase ≤ x ∧ x < a.channelDirectoryBase + 24576))
    (hp : ¬(a.poolBase ≤ x ∧ x < a.poolBase + a.poolBuckets * 512))
    (hs : ¬(a.statusBase ≤ x ∧ x < a.statusBase + 512))
    (hl : ¬(a.liveDirectoryBase ≤ x ∧ x < a.liveDirectoryBase + 524288))
    (hn : ¬(a.noticeRingBase ≤ x ∧ x < a.noticeRingBase + a.noticeRingEntries * 32 ∧ (x - a.noticeRingBase) % 32 ≠ 0)) :
    a.classOf x = .passThrough := by
  have hout : ¬(a.channelDirectory.holds x || a.poolRegion.holds x || a.statusRegion.holds x) = true := by
    simp only [Bool.or_eq_true, Region.holds_iff]
    exact fun h => h.elim (fun h => h.elim hc hp) hs
  have hlive : ¬a.liveDirectory.holds x = true := fun h => hl ((Region.holds_iff _ _).1 h)
  rw [Anchor.classOf, if_neg (by omega), if_neg (by omega), if_neg hlive, if_neg hout]
  split
  next hring =>
    obtain ⟨hlo, hhi⟩ := (Region.holds_iff _ _).1 hring
    dsimp only [Anchor.noticeRing] at hlo hhi
    rw [if_pos (by omega)]
  next => rfl

end

section
variable {s : State} {x : Nat}

/-- A word of DRAM above the Go word, by the anchor taken last. -/
theorem State.localClass_anchored (hd : x < s.lines.dramSize) (hlo : x < 4294967296) (hx : 4 ≤ x) {a : Anchor}
    (ha : s.sup.anchor = some a) : s.localClass x = a.classOf x := by
  rw [State.localClass, if_neg (by omega), if_neg (by omega), if_neg (by omega), ha]

theorem State.localClass_early (hd : x < s.lines.dramSize) (hlo : x < 4294967296) (hx : 4 ≤ x) (ha : s.sup.anchor = none) :
    s.localClass x = .passThrough := by
  rw [State.localClass, if_neg (by omega), if_neg (by omega), if_neg (by omega), ha]

theorem State.localWrite_passed (h : s.localClass x = .passThrough) (hx : x % 4 = 0) (v : Word) (en : Enables) :
    s.localWrite x v en = { s with mem := writeEnabled s.mem x v en } := by
  rw [State.localWrite, h]
  dsimp only
  rw [State.passThrough, show x / 4 * 4 = x by omega]

theorem State.localWrite_guarded (h : s.localClass x = .guarded) (v : Word) (en : Enables) : s.localWrite x v en = s := by
  rw [State.localWrite, h]

theorem State.localWrite_dropped (h : 4294967296 ≤ x ∨ s.lines.dramSize ≤ x) (v : Word) (en : Enables) :
    s.localWrite x v en = s := by
  have hd := dramSize_bounds s.lines
  rw [State.localWrite]
  by_cases hlive : 4294967296 ≤ x ∧ x < 4294967296 + 67108864
  · rw [State.localClass_live hlive.1 hlive.2]
  · rw [State.localClass_unmapped (by omega)]

end

/-- Settles O57, by the rows, then by the class of the word. -/
theorem localPortWrites : Obligations.LocalPortWrites := by
  refine ⟨fun m x y v en => ⟨readByte_writeEnabled_kept m v, fun i hi hy he => ?_⟩,
    fun s b v en waits hb hrst hwaits => ?waiting, fun s x v en g k a hb hrst => ?rows, fun s x v en hx hb hrst => ?taken⟩
  · rw [hy, readByte_writeEnabled_inside m x v en hi, if_pos he, wordByte]
  case waiting =>
    obtain ⟨hwrite, hgo, hkick, hreturn⟩ := exec_writeRows hrst v en
    have hwait : ∀ q, s.localRequest q = waits q := fun q => (State.localRequest_waits hb q).trans (hwaits q).symm
    refine ⟨fun x => ?_, ?_, ?_, ?_, fun g k a ha => ?_, fun g k ha => exec_readerRelease_untaken ha⟩
    · rw [hwrite, hwait]
    · rw [hgo, hwait]
    · rw [hkick, hwait]
    · rw [hreturn, hwait]
    · rw [exec_releaseRow hrst ha, hwait]
  case rows =>
    obtain ⟨hwrite, hgo, hkick, hreturn⟩ := exec_writeRows hrst v en
    exact ⟨hwrite x, hgo, hkick, hreturn, fun ha => exec_releaseRow hrst ha g k v en⟩
  case taken =>
    have hrow : exec (.localPortWrite x v en) s = .next (s.localWrite x v en) :=
      ((exec_writeRows hrst v en).1 x).trans (congrArg Host.Outcome.next (State.localRequest_write hb x v en))
    refine ⟨fun h => hrow.trans (congrArg Host.Outcome.next (State.localWrite_dropped h v en)), fun hlo hhi =>
      ⟨fun ha hne => hrow.trans (congrArg Host.Outcome.next
        (State.localWrite_passed (State.localClass_early hlo hhi (by omega) ha) hx v en)), fun a ha hok =>
        ⟨fun hin => hrow.trans (congrArg Host.Outcome.next (State.localWrite_guarded ?guarded v en)),
          fun hne hkick hreturn hc hp hs hl hn => hrow.trans (congrArg Host.Outcome.next (State.localWrite_passed
            ((State.localClass_anchored hlo hhi (by omega) ha).trans (Anchor.classOf_passes hx hkick hreturn hc hp hs hl hn))
            hx v en))⟩⟩⟩
    case guarded =>
      obtain ⟨-, ⟨hn, hs, hc, hl, hp⟩, -⟩ := Anchor.guarded_places hok
      rw [State.localClass_anchored hlo hhi (by omega) ha]
      rcases hin with ⟨hl, hh⟩ | ⟨hl, hh⟩ | ⟨hl, hh⟩ | ⟨hl, hh, hne⟩ | ⟨hl, hh, hne⟩
      · exact Anchor.classOf_region hok (r := (a.channelDirectoryBase, 24576)) (by simp) hl hh
      · exact Anchor.classOf_region hok (r := (a.poolBase, a.poolBuckets * 512)) (by simp) hl hh
      · exact Anchor.classOf_region hok (r := (a.statusBase, 512)) (by simp) hl hh
      · exact Anchor.classOf_notice hok hx hl hh hne
      · exact Anchor.classOf_live hok hx hl hh hne

end Sys2Proof.Machine
end

section
/-! # The Health Monitor (R74, R75, R95, R96, R117 to R128) -/

namespace Sys2Proof.Machine

/-! ### A record is judged (R122, R123, R126) -/

section
variable {x : HealthRecord} {st : HealthSettings} {g : Nat}

theorem HealthRecord.outOfBounds_iff (x : HealthRecord) (st : HealthSettings) : x.outOfBounds st = true
    ↔ st.maxDamaged < x.damaged ∨ st.maxOffTime < x.offTime ∨ st.maxRepeats < x.repeats ∨ st.maxMisses < x.misses
      ∨ st.maxCommonDraws < x.commonDraws ∨ x.commits = 65535 ∨ x.damaged = 65535 ∨ x.offTime = 65535 ∨ x.repeats = 65535
      ∨ x.misses = 65535 ∨ x.commonDraws = 65535 ∨ (∃ m, x.leadMin = some m ∧ m < st.leadFloor) ∨ x.tripReported = true := by
  have hlead : (match x.leadMin with | none => false | some m => decide (m < st.leadFloor)) = true
      ↔ ∃ m, x.leadMin = some m ∧ m < st.leadFloor := by
    cases x.leadMin <;> simp
  unfold HealthRecord.outOfBounds
  simp only [Bool.or_eq_true, decide_eq_true_iff, beq_iff_eq, or_assoc]
  rw [← hlead] <;> rfl

theorem RigVerdict.afterBad_eq (v : RigVerdict) (p : Prop) [Decidable p] :
    v.afterBad (decide p) = if p ∨ v = .failed then .failed else .suspect := by
  unfold RigVerdict.afterBad
  by_cases hp : p
  · rw [if_pos (decide_eq_true hp), if_pos (Or.inl hp)]
  · rw [if_neg (by simpa using hp), ite_of_iff (or_iff_right hp) rfl rfl]
    cases v <;> rfl

theorem HealthRecord.judged_bad (h : x.outOfBounds st = true) : x.judged st = { x with
    badRun := if x.badRun < 15 then x.badRun + 1 else x.badRun, goodRun := 0
    verdict := if st.failAfter ≤ (if x.badRun < 15 then x.badRun + 1 else x.badRun) ∨ x.verdict = .failed then
      .failed else .suspect } := by
  rw [HealthRecord.judged, if_pos h, RigVerdict.afterBad_eq]
  rfl

theorem HealthRecord.judged_good (h : ¬x.outOfBounds st = true) : x.judged st = { x with
    badRun := 0, goodRun := if x.goodRun < 15 then x.goodRun + 1 else x.goodRun
    verdict := if st.soundAfter ≤ (if x.goodRun < 15 then x.goodRun + 1 else x.goodRun) then .sound else x.verdict } := by
  rw [HealthRecord.judged, if_neg h]
  rfl

theorem AgreementRecord.judged_none {a : AgreementRecord} (h : a.compared = 0) : a.judged st = a := by
  rw [AgreementRecord.judged, if_pos h]

theorem AgreementRecord.judged_bad {a : AgreementRecord} (h : 0 < a.compared) (hd : st.maxDisagree < a.disagreed) :
    a.judged st = { a with
      goodRun := 0, badRun := if a.badRun < 15 then a.badRun + 1 else a.badRun
      verdict := if st.divergeAfter ≤ (if a.badRun < 15 then a.badRun + 1 else a.badRun) then .diverged else a.verdict } := by
  rw [AgreementRecord.judged, if_neg (by omega), if_pos hd]
  rfl

theorem AgreementRecord.judged_good {a : AgreementRecord} (h : 0 < a.compared) (hd : a.disagreed ≤ st.maxDisagree) :
    a.judged st = { a with
      badRun := 0, goodRun := if a.goodRun < 15 then a.goodRun + 1 else a.goodRun
      verdict := if st.agreeAfter ≤ (if a.goodRun < 15 then a.goodRun + 1 else a.goodRun) then .agreed else a.verdict } := by
  rw [AgreementRecord.judged, if_neg (by omega), if_neg (by omega)]
  rfl

end

/-! ### Notices of a verdict (R128) -/

section
variable {s : State} {g : Nat}

theorem State.postRigVerdict_eq (hq : s.part.state ≠ .quiet) (r : Role) (old : RigVerdict) (trip : Bool) :
    s.postRigVerdict g r old trip = { s with
      notices := if ((s.healthOf g).record r).verdict = old then s.notices else s.notices.post
        { group := some g, source := some (s.rigOf r), period := s.part.period
          body := .rigVerdictChanged r old ((s.healthOf g).record r).verdict trip ((s.healthOf g).record r).badRun
            ((s.healthOf g).record r).goodRun } } := by
  unfold State.postRigVerdict
  dsimp only
  split
  · rfl
  · rw [State.post_outside_quiet hq]

theorem State.postAgreement_eq (hq : s.part.state ≠ .quiet) (old : AgreementVerdict) : s.postAgreement g old = { s with
    notices := if (s.healthOf g).agreement.verdict = old then s.notices else s.notices.post
      { group := some g, source := none, period := s.part.period
        body := .agreementChanged old (s.healthOf g).agreement.verdict (s.healthOf g).agreement.badRun
          (s.healthOf g).agreement.goodRun } } := by
  unfold State.postAgreement
  dsimp only
  split
  · rfl
  · rw [State.post_outside_quiet hq]

/-- The notices of the verdicts of `a` that differ from those of `h`, MAIN's, BACKUP's and Agreement's. -/
def State.verdictNotices (s : State) (g : Nat) (h a : GroupHealth) : NoticeUnit :=
  let main := if a.main.verdict = h.main.verdict then s.notices else s.notices.post
    { group := some g, source := some (s.rigOf .main), period := s.part.period
      body := .rigVerdictChanged .main h.main.verdict a.main.verdict false a.main.badRun a.main.goodRun }
  let backup := if a.backup.verdict = h.backup.verdict then main else main.post
    { group := some g, source := some (s.rigOf .backup), period := s.part.period
      body := .rigVerdictChanged .backup h.backup.verdict a.backup.verdict false a.backup.badRun a.backup.goodRun }
  if a.agreement.verdict = h.agreement.verdict then backup else backup.post
    { group := some g, source := none, period := s.part.period
      body := .agreementChanged h.agreement.verdict a.agreement.verdict a.agreement.badRun a.agreement.goodRun }

theorem State.postVerdicts_eq (hq : s.part.state ≠ .quiet) (h : GroupHealth) :
    s.postVerdicts g h = { s with notices := s.verdictNotices g h (s.healthOf g) } := by
  rw [State.postVerdicts, State.postRigVerdict_eq hq, State.postRigVerdict_eq (by exact hq),
    State.postAgreement_eq (by exact hq)]
  rfl

/-- The state in which the records of group `g` are judged and the changes posted. -/
def State.judgedWindow (s : State) (g : Nat) : State := (s.modifyHealth g GroupHealth.judged).postVerdicts g (s.healthOf g)

theorem State.judgedWindow_eq (hq : s.part.state ≠ .quiet) : s.judgedWindow g = { s with
    health := (s.modifyHealth g GroupHealth.judged).health
    notices := s.verdictNotices g (s.healthOf g) (s.healthOf g).judged } := by
  have hjudged : (s.modifyHealth g GroupHealth.judged).healthOf g = (s.healthOf g).judged :=
    (s.healthOf_modifyHealth g g _).trans (if_pos rfl)
  rw [State.judgedWindow, State.postVerdicts_eq (s := s.modifyHealth g GroupHealth.judged) hq, hjudged]
  rfl

theorem GroupHealth.verdictChanges_iff (h : GroupHealth) : h.verdictChanges = true
    ↔ ¬(h.judged.main.verdict = h.main.verdict ∧ h.judged.backup.verdict = h.backup.verdict
      ∧ h.judged.agreement.verdict = h.agreement.verdict) := by
  simp only [GroupHealth.verdictChanges, Bool.or_eq_true, bne_iff_ne, ne_eq, Decidable.not_and_iff_not_or_not, or_assoc]

/-! ### The close of a window (R120, R127) -/

theorem State.windowCloseDue_iff : s.windowCloseDue g = true ↔ s.part.state = .running ∧ (s.group g).defined = true
    ∧ (s.healthOf g).windowOpen = true ∧ (s.healthOf g).windowEnd ≤ s.part.period := by
  simp [State.windowCloseDue, and_assoc]

/-- The window's reports, MAIN's then BACKUP's, where Report is set. -/
theorem State.postWindowReports_eq (hq : s.part.state ≠ .quiet) (h : GroupHealth) : s.postWindowReports g h = { s with
    notices := if h.settings.report = true then
        (s.notices.post { group := some g, source := some (s.rigOf .main), period := s.part.period
                          body := .windowReport h.main.commits h.main.damaged h.main.offTime h.main.repeats h.main.misses
                            h.main.commonDraws h.main.leadMin h.main.tripReported (h.main.outOfBounds h.settings)
                            h.agreement.compared h.agreement.disagreed }).post
          { group := some g, source := some (s.rigOf .backup), period := s.part.period
            body := .windowReport h.backup.commits h.backup.damaged h.backup.offTime h.backup.repeats h.backup.misses
              h.backup.commonDraws h.backup.leadMin h.backup.tripReported (h.backup.outOfBounds h.settings)
              h.agreement.compared h.agreement.disagreed }
      else s.notices } := by
  unfold State.postWindowReports
  split
  · unfold State.postWindowReport
    rw [State.post_outside_quiet hq]
    exact State.post_outside_quiet (by exact hq) _ _ _
  · rfl

theorem GroupHealth.nextWindow_eq (h : GroupHealth) (p : Nat) : h.nextWindow p = { h with
    main := h.main.cleared, backup := h.backup.cleared, agreement := h.agreement.cleared
    settings := h.pendingSettings.getD h.settings, pendingSettings := none
    windowEnd := p + (h.pendingSettings.getD h.settings).windowLength } := by
  unfold GroupHealth.nextWindow GroupHealth.adopted
  cases hp : h.pendingSettings with
  | none => rfl
  | some st => rfl

/-- The state before the reports of a close: judged, and evaluated where a verdict changed. -/
def State.toldWindow (s : State) (g : Nat) : State :=
  if (s.healthOf g).verdictChanges then (s.judgedWindow g).evaluate g else s.judgedWindow g

theorem State.toldWindow_kept : (s.judgedWindow g).Retallied (s.toldWindow g) := by
  unfold State.toldWindow
  split
  · exact (State.acted_evaluate _ g).frame
  · exact .refl _

theorem State.closeWindow_eq : s.closeWindow g = ((s.toldWindow g).postWindowReports g (s.healthOf g)).modifyHealth g
    (fun x => x.nextWindow s.part.period) := rfl

theorem State.healthOf_judgedWindow (hq : s.part.state ≠ .quiet) (g' : Nat) :
    (s.judgedWindow g).healthOf g' = if g' = g then (s.healthOf g).judged else s.healthOf g' := by
  rw [State.judgedWindow_eq hq]
  exact s.healthOf_modifyHealth g g' _

/-- What stands as the window is told: the part, the roles and the judged records. -/
theorem State.toldWindow_stands (hq : s.part.state ≠ .quiet) : (s.toldWindow g).part = s.part ∧ (s.toldWindow g).sup = s.sup
    ∧ ∀ g', (s.toldWindow g).healthOf g' = if g' = g then (s.healthOf g).judged else s.healthOf g' := by
  have hkept := (State.toldWindow_kept (s := s) (g := g)).eq_lines
  have hjudged := State.judgedWindow_eq (g := g) hq
  have hhealth := State.healthOf_judgedWindow (g := g) hq
  generalize s.toldWindow g = told at hkept ⊢
  generalize s.judgedWindow g = judged at hkept hjudged hhealth
  refine ⟨?_, ?_, fun g' => ?_⟩
  · rw [hkept, hjudged]
  · rw [hkept, hjudged]
  · rw [← hhealth g', hkept]
    rfl

theorem State.closeWindow_frame (hq : s.part.state ≠ .quiet) :
    s.closeWindow g = { s.toldWindow g with health := (s.closeWindow g).health, notices := (s.closeWindow g).notices } := by
  have hreports := State.postWindowReports_eq (s := s.toldWindow g) (g := g)
    (by rw [(State.toldWindow_stands hq).1]; exact hq) (s.healthOf g)
  rw [State.closeWindow_eq, hreports]
  rfl

theorem State.healthOf_closeWindow (hq : s.part.state ≠ .quiet) (g' : Nat) : (s.closeWindow g).healthOf g'
    = if g' = g then (s.healthOf g).judged.nextWindow s.part.period else s.healthOf g' := by
  obtain ⟨hpart, -, hhealth⟩ := State.toldWindow_stands (g := g) hq
  have hreports := State.postWindowReports_eq (s := s.toldWindow g) (g := g) (by rw [hpart]; exact hq) (s.healthOf g)
  have hkept : ∀ g', ((s.toldWindow g).postWindowReports g (s.healthOf g)).healthOf g' = (s.toldWindow g).healthOf g' :=
    fun _ => by rw [hreports]; rfl
  rw [State.closeWindow_eq, State.healthOf_modifyHealth, hkept, hkept, hhealth, hhealth, if_pos rfl]
  split <;> rfl

end

/-! ### Samples (R117 to R119, R125) -/

theorem satAdd16_eq (n k : Nat) : satAdd16 n k = min (n + k) (max 65535 n) := by
  unfold satAdd16
  split
  · omega
  · split <;> omega

theorem HealthRecord.tripFires_iff (x : HealthRecord) (st : HealthSettings) :
    x.tripFires st = true ↔ st.missTrip ≠ 0 ∧ x.misses < 65535 ∧ x.misses + 1 = st.missTrip := by
  simp [HealthRecord.tripFires, and_assoc]

/-- The health with a lead sample in one record, if one is taken. -/
def GroupHealth.withLead (h : GroupHealth) (r : Role) : Option Nat → GroupHealth
  | none => h
  | some l => h.modifyRecord (fun x => x.addLead l) r

section
variable {s : State} {g : Nat} {r : Role}

theorem State.sampleMiss_idle (h : s.part.state ≠ .running) : s.sampleMiss r g = s := by
  rw [State.sampleMiss]
  dsimp only
  rw [if_neg fun hc => h hc.1, State.sample, if_neg h]

theorem State.sampleMiss_counted (h : s.part.state = .running)
    (hn : ¬((s.healthOf g).record r).tripFires (s.healthOf g).settings = true) :
    s.sampleMiss r g = s.modifyHealth g (fun x => x.modifyRecord HealthRecord.addMiss r) := by
  rw [State.sampleMiss]
  dsimp only
  rw [if_neg fun hc => hn hc.2, State.sample, if_pos h]

/-- The state in which a Miss has tripped the record of role `r`, with its notice. -/
def State.trippedMiss (s : State) (r : Role) (g : Nat) : State :=
  (s.modifyHealth g (fun x => x.modifyRecord (fun y => y.addMiss.tripped (s.healthOf g).settings) r)).postRigVerdict g r
    ((s.healthOf g).record r).verdict true

theorem State.sampleMiss_trips (h : s.part.state = .running)
    (hf : ((s.healthOf g).record r).tripFires (s.healthOf g).settings = true) : s.sampleMiss r g
      = if ((s.healthOf g).record r).verdict = .failed then s.trippedMiss r g else (s.trippedMiss r g).evaluate g := by
  rw [State.sampleMiss]
  dsimp only
  rw [if_pos ⟨h, hf⟩]
  rfl

theorem GroupHealth.record_modifyRecord (h : GroupHealth) (f : HealthRecord → HealthRecord) (r : Role) :
    (h.modifyRecord f r).record r = f (h.record r) := by cases r <;> rfl

theorem State.trippedMiss_eq (h : s.part.state = .running) : s.trippedMiss r g = { s with
    health := (s.modifyHealth g (fun x => x.modifyRecord (fun y => y.addMiss.tripped (s.healthOf g).settings) r)).health
    notices := if ((s.healthOf g).record r).verdict = .failed then s.notices else s.notices.post
      { group := some g, source := some (s.rigOf r), period := s.part.period
        body := .rigVerdictChanged r ((s.healthOf g).record r).verdict .failed true (s.healthOf g).settings.failAfter 0 } } := by
  have hrecord : ((s.modifyHealth g (fun x => x.modifyRecord (fun y => y.addMiss.tripped (s.healthOf g).settings) r)).healthOf
      g).record r = ((s.healthOf g).record r).addMiss.tripped (s.healthOf g).settings := by
    rw [State.healthOf_modifyHealth, if_pos rfl, GroupHealth.record_modifyRecord]
  rw [State.trippedMiss, State.postRigVerdict_eq (by rw [State.modifyHealth, h]; nofun), hrecord]
  refine congrArg (fun n => ({ s with health := _, notices := n } : State)) (ite_of_iff eq_comm rfl rfl)

theorem State.sampleComparisons_eq (h : s.part.state = .running) (c d : Nat) : s.sampleComparisons g c d
    = s.modifyHealth g (fun x => { x with agreement := x.agreement.addComparisons c d }) := by
  rw [State.sampleComparisons, if_pos h]

theorem State.sampleLead_eq (ρ : Rig) (l : Option Nat) :
    s.sampleLead g ρ l = { s with health := (s.sampleLead g ρ l).health } := by
  cases l with
  | none => rfl
  | some l =>
    unfold State.sampleLead State.sample
    dsimp only
    split <;> rfl

theorem State.healthOf_sampleLead (h : s.part.state = .running) (ρ : Rig) (l : Option Nat) (g' : Nat) :
    (s.sampleLead g ρ l).healthOf g' = if g' = g then (s.healthOf g).withLead (s.roleOf ρ) l else s.healthOf g' := by
  cases l with
  | none =>
    rw [GroupHealth.withLead]
    split
    next hg => rw [hg]; rfl
    next => rfl
  | some l => exact State.healthOf_sample h _ g g' _

/-- What a lead sample leaves in the record of its role. -/
theorem GroupHealth.leadMin_withLead (h : GroupHealth) (r : Role) (l : Nat) :
    ((h.withLead r (some l)).record r).leadMin = some (match (h.record r).leadMin with | none => l | some m => min m l) := by
  rw [GroupHealth.withLead, GroupHealth.record_modifyRecord]
  rfl

theorem GroupHealth.record_withLead_other (h : GroupHealth) {r q : Role} (hne : q ≠ r) (l : Option Nat) :
    (h.withLead r l).record q = h.record q := by
  cases l with
  | none => rfl
  | some l =>
    cases r <;> cases q
    case main.main | backup.backup => exact absurd rfl hne
    case main.backup | backup.main => rfl

/-- Two lead samples change the leads of both records alone. -/
theorem GroupHealth.withLead_eq (h : GroupHealth) (r : Role) (l m : Option Nat) : (h.withLead r l).withLead r.other m = { h with
    main := { h.main with leadMin := ((h.withLead r l).withLead r.other m).main.leadMin }
    backup := { h.backup with leadMin := ((h.withLead r l).withLead r.other m).backup.leadMin } } := by
  cases r <;> cases l <;> cases m <;> rfl

end

/-! ### The samples of a resolution (R75, R95, R96) -/

section
variable {s : State} {g n : Nat}

theorem State.length_tagPairs {channels : List Context} (hc : channels = (s.contextsOf g).map s.context) {both : Context → Bool}
    (hb : ∀ x, both x = ((findEntry n x.lists.rig1).isSome && (findEntry n x.lists.rig2).isSome)) :
    (s.tagPairs g n).length = channels.countP both := by
  rw [State.tagPairs, List.length_filterMap_eq_countP, hc]
  congr 1
  funext x
  rw [hb]
  cases findEntry n x.lists.rig1 <;> cases findEntry n x.lists.rig2 <;> rfl

theorem State.countP_tagPairs {channels : List Context} (hc : channels = (s.contextsOf g).map s.context)
    {differ : Context → Bool} (hd : ∀ x, differ x = ((findEntry n x.lists.rig1).isSome && (findEntry n x.lists.rig2).isSome
      && ((findEntry n x.lists.rig1).map (fun e => e.sceneTag) != (findEntry n x.lists.rig2).map (fun e => e.sceneTag)))) :
    (s.tagPairs g n).countP (fun p => p.1 != p.2) = channels.countP differ := by
  rw [State.tagPairs, List.countP_filterMap, hc]
  congr 1
  funext x
  rw [hd]
  cases findEntry n x.lists.rig1 <;> cases findEntry n x.lists.rig2 <;> simp [bne]

/-- The comparisons and the leads of a resolution, before a Miss is taken. -/
def State.sampledLeads (s before : State) (g n : Nat) : State :=
  ((s.sampleComparisons g (before.tagPairs g n).length ((before.tagPairs g n).countP (fun p => p.1 != p.2))).sampleLead g
    .rig1 (before.lead g n .rig1)).sampleLead g .rig2 (before.lead g n .rig2)

theorem State.sendSamples_eq (before : State) : s.sendSamples before g n
    = ((s.sampledLeads before g n).sampleMissIf g .main (before.misses g n .main)).sampleMissIf g .backup
        (before.misses g n .backup) := rfl

/-- The Agreement Record with the comparisons of a resolution. -/
def AgreementRecord.resolved (a : AgreementRecord) (before : State) (g n : Nat) : AgreementRecord :=
  a.addComparisons (before.tagPairs g n).length ((before.tagPairs g n).countP (fun p => p.1 != p.2))

/-- The health of the group with the comparisons and the leads of a resolution. -/
def GroupHealth.compared (h : GroupHealth) (before : State) (g n : Nat) (r : Role) : GroupHealth :=
  (({ h with agreement := h.agreement.resolved before g n } : GroupHealth).withLead r (before.lead g n .rig1)).withLead r.other
    (before.lead g n .rig2)

theorem State.sampledLeads_eq (hrun : s.part.state = .running) (before : State) :
    s.sampledLeads before g n = { s with health := (s.sampledLeads before g n).health } := by
  unfold State.sampledLeads
  rw [State.sampleLead_eq (s := State.sampleLead _ _ _ _), State.sampleLead_eq (s := State.sampleComparisons _ _ _ _),
    State.sampleComparisons_eq hrun]
  rfl

theorem State.healthOf_sampledLeads (hrun : s.part.state = .running) (before : State) (g' : Nat) :
    (s.sampledLeads before g n).healthOf g'
      = if g' = g then (s.healthOf g).compared before g n s.sup.port1Role else s.healthOf g' := by
  unfold State.sampledLeads
  rw [State.sampleComparisons_eq hrun]
  change ((State.sampleLead (s.modifyHealth g fun x => { x with agreement := x.agreement.resolved before g n }) g .rig1
    (before.lead g n .rig1)).sampleLead g .rig2 (before.lead g n .rig2)).healthOf g' = _
  have hfirst := (s.modifyHealth g fun x => { x with agreement := x.agreement.resolved before g n }).sampleLead_eq (g := g)
    .rig1 (before.lead g n .rig1)
  have hhealth := State.healthOf_sampleLead (g := g) (s := s.modifyHealth g fun x => { x with
    agreement := x.agreement.resolved before g n }) hrun .rig1 (before.lead g n .rig1)
  generalize State.sampleLead _ g .rig1 _ = t at hfirst hhealth ⊢
  have hsup : t.sup = s.sup := by rw [hfirst]; rfl
  have hpart : t.part = s.part := by rw [hfirst]; rfl
  have hrole : t.roleOf .rig2 = s.sup.port1Role.other := by rw [State.roleOf, hsup]
  rw [State.healthOf_sampleLead (s := t) (by rw [hpart]; exact hrun), hhealth, hhealth, if_pos rfl]
  split
  · rw [State.healthOf_modifyHealth, if_pos rfl, hrole]
    rfl
  next hg => rw [State.healthOf_modifyHealth, if_neg hg]

/-- The leads aside, the comparisons alone count. -/
theorem GroupHealth.compared_eq (h : GroupHealth) (before : State) (r : Role) : h.compared before g n r = { h with
    main := { h.main with leadMin := (h.compared before g n r).main.leadMin }
    backup := { h.backup with leadMin := (h.compared before g n r).backup.leadMin }
    agreement := h.agreement.resolved before g n } :=
  GroupHealth.withLead_eq { h with agreement := h.agreement.resolved before g n } r _ _

/-- The lead of one rig, in the record of its role. -/
theorem GroupHealth.lead_compared (h : GroupHealth) (before t : State) (r : Rig) :
    (((h.compared before g n t.sup.port1Role).record (t.roleOf r)).leadMin)
      = match before.lead g n r with
        | none => (h.record (t.roleOf r)).leadMin
        | some l => some (match (h.record (t.roleOf r)).leadMin with | none => l | some m => min m l) := by
  have hne : t.sup.port1Role ≠ t.sup.port1Role.other := by cases t.sup.port1Role <;> nofun
  unfold GroupHealth.compared
  cases r with
  | rig1 =>
    rw [State.roleOf, GroupHealth.record_withLead_other _ hne]
    cases before.lead g n .rig1 with
    | none => cases t.sup.port1Role <;> rfl
    | some l =>
      rw [GroupHealth.leadMin_withLead]
      cases t.sup.port1Role <;> rfl
  | rig2 =>
    rw [State.roleOf]
    cases before.lead g n .rig2 with
    | none =>
      rw [GroupHealth.withLead, GroupHealth.record_withLead_other _ hne.symm]
      cases t.sup.port1Role <;> rfl
    | some l =>
      rw [GroupHealth.leadMin_withLead, GroupHealth.record_withLead_other _ hne.symm]
      cases t.sup.port1Role <;> rfl

theorem State.lead_none {r : Rig} (h : s.streamingOf g = []) : s.lead g n r = none := by
  rw [State.lead, h]
  rfl

theorem State.lead_some {r : Rig} {lead : Nat} (hm : ∃ x ∈ s.streamingOf g, coverageFrom (n + 1) (x.lists.get r) = lead)
    (hle : ∀ x ∈ s.streamingOf g, lead ≤ coverageFrom (n + 1) (x.lists.get r)) : s.lead g n r = some lead := by
  rw [State.lead, List.min?_eq_some_iff]
  exact ⟨List.mem_map.2 hm, fun b hb => by
    obtain ⟨x, hx, rfl⟩ := List.mem_map.1 hb
    exact hle x hx⟩

theorem State.misses_iff (r : Role) : s.misses g n r = true
    ↔ ∃ x ∈ s.streamingOf g, findEntry n (x.lists.get (s.rigOf r)) = none := by
  simp only [State.misses, List.any_eq_true, Option.isNone_iff_eq_none, State.roleEntry]

theorem State.sampleMissIf_missed {r : Role} {b : Bool} (h : b = true) : s.sampleMissIf g r b = s.sampleMiss r g := if_pos h

theorem State.sampleMissIf_served {r : Role} {b : Bool} (h : ¬b = true) : s.sampleMissIf g r b = s := if_neg h

end

end Sys2Proof.Machine
end

section
/-! # The Health Monitor, settled (R74, R75, R95, R96, R117 to R128) -/

namespace Sys2Proof.Machine

/-- Settles O56: the judged records and their notices, then the reports and the next window, then the samples. -/
theorem healthWindowClose : Obligations.HealthWindowClose := by
  refine ⟨fun s g h st next bad rec agr hh hst hnext hbad hrec hnone hdis hagr => ⟨fun hearly => ?early,
      fun hrun hdef hopen hdue => ?close⟩, fun s g r h st hh hst => ⟨State.sampleMiss_idle, fun hrun => ?miss⟩,
    fun m es h => ⟨mem_of_lt_coverageFrom es m, ne_end_of_coverage es m h⟩,
    fun s before g n channels streaming h both differ hrun hh hchannels hstreaming hboth hdiffer => ?samples⟩
  case early =>
    refine congrArg Host.Outcome.next (if_neg fun hdue => ?_)
    subst hh
    obtain ⟨hrun, hdef, hopen, hend⟩ := State.windowCloseDue_iff.1 hdue
    rcases hearly with h | h | h | h
    · exact h hrun
    · exact nomatch h.symm.trans hdef
    · exact nomatch h.symm.trans hopen
    · omega
  case close =>
    subst hh hst hnext
    have hquiet : s.part.state ≠ .quiet := by rw [hrun]; nofun
    have hbad' : ∀ x : HealthRecord, bad x ↔ x.outOfBounds (s.healthOf g).settings = true := fun x =>
      (hbad x).trans (x.outOfBounds_iff _).symm
    have hjudge : ∀ x : HealthRecord, rec x = x.judged (s.healthOf g).settings := fun x => by
      by_cases hx : bad x
      · rw [(hrec x).1 hx, HealthRecord.judged_bad ((hbad' x).1 hx)]
      · rw [(hrec x).2 hx, HealthRecord.judged_good fun h => hx ((hbad' x).2 h)]
    have hagree : agr = (s.healthOf g).agreement.judged (s.healthOf g).settings := by
      rcases Nat.eq_zero_or_pos (s.healthOf g).agreement.compared with hc | hc
      · rw [hnone hc, AgreementRecord.judged_none hc]
      · by_cases hd : (s.healthOf g).settings.maxDisagree < (s.healthOf g).agreement.disagreed
        · rw [hdis hc hd, AgreementRecord.judged_bad hc hd]
        · rw [hagr hc (Nat.le_of_not_lt hd), AgreementRecord.judged_good hc (Nat.le_of_not_lt hd)]
    have hrow : exec (.healthWindowClose g) s = .next (s.closeWindow g) :=
      congrArg Host.Outcome.next (if_pos (State.windowCloseDue_iff.2 ⟨hrun, hdef, hopen, hdue⟩))
    have hjudged := State.judgedWindow_eq (s := s) (g := g) hquiet
    have htold : s.toldWindow g = if (s.healthOf g).judged.main.verdict = (s.healthOf g).main.verdict
        ∧ (s.healthOf g).judged.backup.verdict = (s.healthOf g).backup.verdict
        ∧ (s.healthOf g).judged.agreement.verdict = (s.healthOf g).agreement.verdict then s.judgedWindow g
        else (s.judgedWindow g).evaluate g := by
      rw [State.toldWindow, ite_of_iff (GroupHealth.verdictChanges_iff _) rfl rfl, ite_not]
    obtain ⟨hpart, hsup, -⟩ := State.toldWindow_stands (g := g) hquiet
    have hreports := State.postWindowReports_eq (s := s.toldWindow g) (g := g) (by rw [hpart]; exact hquiet) (s.healthOf g)
    have hnotices : (s.closeWindow g).notices = ((s.toldWindow g).postWindowReports g (s.healthOf g)).notices := rfl
    have hrig : ∀ r, (s.toldWindow g).rigOf r = s.rigOf r := fun r => by rw [State.rigOf, hsup]; rfl
    simp only [hjudge, hagree]
    refine ⟨s.judgedWindow g, s.toldWindow g, s.closeWindow g, hrow, by rw [hjudged], ?_, fun g' hg => ?_,
      ⟨_, _, rfl, rfl, by rw [hjudged]; rfl⟩, htold, State.closeWindow_frame hquiet, fun g' hg => ?_, ?_, fun hr => ?_,
      fun report hr hreport => ?_⟩
    · rw [State.healthOf_judgedWindow hquiet, if_pos rfl]
      rfl
    · rw [State.healthOf_judgedWindow hquiet, if_neg hg]
    · rw [State.healthOf_closeWindow hquiet, if_neg hg]
    · rw [State.healthOf_closeWindow hquiet, if_pos rfl, GroupHealth.nextWindow_eq]
      rw [← hopen]
      rfl
    · rw [hnotices, hreports, hr]
      rfl
    · have hsame : ∀ r x, x = (s.healthOf g).record r → report r =
          { group := some g, source := some (s.rigOf r), period := s.part.period
            body := .windowReport x.commits x.damaged x.offTime x.repeats x.misses x.commonDraws x.leadMin x.tripReported
              (x.outOfBounds (s.healthOf g).settings) (s.healthOf g).agreement.compared (s.healthOf g).agreement.disagreed } :=
          fun r x hx => by
        obtain ⟨out, hout, hr⟩ := hreport r x hx
        rw [hr, Bool.eq_iff_iff.2 (hout.trans (hbad' x))]
      rw [hnotices, hreports, hr, hrig, hrig, hpart, hsame .main _ rfl, hsame .backup _ rfl]
      rfl
  case miss =>
    subst hh hst
    have hrecord : ∀ (f : HealthRecord → HealthRecord) g', (s.modifyHealth g (fun x => x.modifyRecord f r)).healthOf g'
        = if g' = g then (s.healthOf g).modifyRecord (fun _ => f ((s.healthOf g).record r)) r else s.healthOf g' := fun f g' => by
      rw [State.healthOf_modifyHealth, GroupHealth.modifyRecord_const]
    by_cases hf : ((s.healthOf g).record r).tripFires (s.healthOf g).settings = true
    · obtain ⟨htrip, hroom, hnext⟩ := (HealthRecord.tripFires_iff _ _).1 hf
      have htripped := State.trippedMiss_eq (g := g) (r := r) hrun
      have hhealth : ∀ g', (s.trippedMiss r g).healthOf g' = if g' = g then (s.healthOf g).modifyRecord
          (fun _ => (((s.healthOf g).record r).addMiss.tripped (s.healthOf g).settings)) r else s.healthOf g' := fun g' => by
        rw [← hrecord (fun y => y.addMiss.tripped (s.healthOf g).settings), htripped]
        rfl
      refine ⟨s.trippedMiss r g, fun g' hg => (hhealth g').trans (if_neg hg), fun h => ?_, fun _ _ _ =>
        ⟨State.sampleMiss_trips hrun hf, ?_, ?_⟩⟩
      · rcases h with h | h | h
        · exact absurd h htrip
        · exact absurd hnext h
        · omega
      · rw [htripped]
      · rw [hhealth, if_pos rfl, HealthRecord.addMiss, HealthRecord.tripped, sat16, if_pos hroom]
    · refine ⟨s.modifyHealth g (fun x => x.modifyRecord HealthRecord.addMiss r), fun g' hg =>
        (hrecord _ g').trans (if_neg hg), fun _ => ⟨State.sampleMiss_counted hrun hf, rfl, (hrecord _ g).trans (if_pos rfl)⟩,
        fun htrip hnext hroom => absurd ((HealthRecord.tripFires_iff _ _).2 ⟨htrip, hroom, hnext⟩) hf⟩
  case samples =>
    subst hh
    have hread : channels = (before.contextsOf g).map before.context := hchannels.trans (before.contextsOf_read g).symm
    have hstream : before.streamingOf g = streaming := by rw [hstreaming, hchannels, State.streamingOf_eq]
    have hcompared := State.length_tagPairs hread hboth
    have hdisagreed := State.countP_tagPairs (differ := differ) (n := n) hread fun x => by rw [hdiffer, hboth]
    have hhealth := State.healthOf_sampledLeads (g := g) (n := n) hrun before
    have hlead := fun r => (s.healthOf g).lead_compared (g := g) (n := n) before s r
    have hcounts := (s.healthOf g).compared_eq (g := g) (n := n) before s.sup.port1Role
    have hgroup := (hhealth g).trans (if_pos rfl)
    rw [← hgroup] at hcounts hlead
    rw [AgreementRecord.resolved, AgreementRecord.addComparisons, hcompared, hdisagreed, satAdd16_eq, satAdd16_eq] at hcounts
    have hframe := State.sampledLeads_eq (g := g) (n := n) hrun before
    have hsend := s.sendSamples_eq (g := g) (n := n) before
    have hmisses := fun r => (before.misses_iff (g := g) (n := n) r)
    simp only [hstream] at hmisses
    generalize s.sampledLeads before g n = u at hhealth hlead hcounts hgroup hframe hsend
    refine ⟨u, u.sampleMissIf g .main (before.misses g n .main), hframe, fun g' hg => (hhealth g').trans (if_neg hg), hcounts,
      fun r old hold => ⟨fun hnil => ?_, fun lead hm hle => ?_⟩, fun hm => State.sampleMissIf_missed ((hmisses .main).2 hm),
      fun hm => State.sampleMissIf_served fun h => ?_, fun hm => hsend.trans (State.sampleMissIf_missed ((hmisses .backup).2 hm)),
      fun hm => hsend.trans (State.sampleMissIf_served fun h => ?_)⟩
    · rw [hlead r, State.lead_none (hstream.trans hnil), hold]
    · rw [← hstream] at hm hle
      rw [hlead r, State.lead_some hm hle, ← hold]
      exact ⟨fun ho => by rw [ho], fun m ho => by rw [ho]⟩
    · obtain ⟨x, hx, hn⟩ := (hmisses .main).1 h
      exact hm x hx hn
    · obtain ⟨x, hx, hn⟩ := (hmisses .backup).1 h
      exact hm x hx hn

end Sys2Proof.Machine
end

section
/-! # What the end of a job leaves in its slot (R100, R111, R112, R114) -/

namespace Sys2Proof.Machine

/-! ### One slot and the writes of its record -/

/-- Slot `k` of group `g` becomes `sl` and the writes `ws` are sent; nothing else changes. -/
structure State.SlotSent (g k : Nat) (sl : Slot) (ws : List SlotWrite) (s t : State) : Prop where
  frame : t = { s with resolver := { s.resolver with rings := t.resolver.rings, writes := s.resolver.writes ++ ws } }
  slot : t.slot g k = sl
  slots : ∀ g' k', g' ≠ g ∨ k' ≠ k → t.slot g' k' = s.slot g' k'

section
variable {g k : Nat} {sl sl' : Slot} {ws ws' : List SlotWrite} {s t u : State}

theorem State.SlotSent.trans (h : State.SlotSent g k sl ws s t) (h' : State.SlotSent g k sl' ws' t u) :
    State.SlotSent g k sl' (ws ++ ws') s u := by
  refine ⟨?_, h'.slot, fun g' k' hne => (h'.slots g' k' hne).trans (h.slots g' k' hne)⟩
  have hframe := h'.frame
  rw [h.frame] at hframe
  rw [List.append_assoc] at hframe
  exact hframe

theorem State.SlotSent.congr (h : State.SlotSent g k sl ws s t) (hsl : sl = sl') (hws : ws = ws') :
    State.SlotSent g k sl' ws' s t := hsl ▸ hws ▸ h

theorem State.slotSent_modifySlot (s : State) (g k : Nat) (f : Slot → Slot) :
    State.SlotSent g k (f (s.slot g k)) [] s (s.modifySlot g k f) := by
  obtain ⟨hslot, hslots, -⟩ := s.modifySlot_frame g k f
  refine ⟨?_, hslot, hslots⟩
  rw [List.append_nil]
  rfl

theorem State.slotSent_send (s : State) (kind : SlotWriteKind) (g k o : Nat) (words : List Word) :
    State.SlotSent g k (s.slot g k)
      [{ kind := kind, group := g, slot := k, block := (s.slot g k).block, addr := s.recordAddr g k + o, words := words }]
      s (s.sendSlotWrite kind g k o words) :=
  ⟨rfl, rfl, fun _ _ _ => rfl⟩

theorem State.SlotSent.recordAddr (h : State.SlotSent g k sl ws s t) (g' k' : Nat) : t.recordAddr g' k' = s.recordAddr g' k' := by
  rw [h.frame]
  rfl

theorem State.SlotSent.writes (h : State.SlotSent g k sl ws s t) : t.resolver.writes = s.resolver.writes ++ ws := by
  rw [h.frame]

end

/-! ### A job leaves its slot (R100) -/

/-- The slot with one job less; at the last of them it awaits its READY header. -/
def Slot.left (sl : Slot) : Slot :=
  { sl with outstanding := sl.outstanding - 1, awaitingHeader := sl.awaitingHeader || decide (sl.outstanding ≤ 1) }

/-- The writes of a job that leaves slot `sl`, whose record lies at `a`. -/
def Slot.leaveWrites (sl : Slot) (g k a : Nat) : List SlotWrite :=
  if sl.outstanding ≤ 1 then
    [{ kind := .readyHeader, group := g, slot := k, block := sl.block, addr := a, words := sl.header SlotState.ready.code }]
  else []

theorem State.slotSent_jobLeaves (s : State) (g k : Nat) : State.SlotSent g k (s.slot g k).left
    ((s.slot g k).leaveWrites g k (s.recordAddr g k)) s (s.jobLeaves g k) := by
  have hfewer := s.slotSent_modifySlot g k (fun sl => { sl with outstanding := sl.outstanding - 1 })
  unfold State.jobLeaves Slot.leaveWrites
  dsimp only
  generalize s.modifySlot g k (fun sl => { sl with outstanding := sl.outstanding - 1 }) = fewer at hfewer ⊢
  have hlast : (fewer.slot g k).outstanding = 0 ↔ (s.slot g k).outstanding ≤ 1 := by
    rw [hfewer.slot]
    dsimp only
    omega
  by_cases hz : (s.slot g k).outstanding ≤ 1
  · rw [if_pos (hlast.2 hz), if_pos hz]
    have hsent := fewer.slotSent_send .readyHeader g k 0 ((fewer.slot g k).header SlotState.ready.code)
    have hall := (hfewer.trans hsent).trans (State.slotSent_modifySlot _ g k (fun sl => { sl with awaitingHeader := true }))
    refine hall.congr ?_ ?_
    · rw [hsent.slot, hfewer.slot, Slot.left, decide_eq_true hz, Bool.or_true]
    · rw [hfewer.slot, hfewer.recordAddr]
      rfl
  · rw [if_neg fun h => hz (hlast.1 h), if_neg hz, Slot.left, decide_eq_false hz, Bool.or_false]
    exact hfewer

/-! ### A job is cut (R100) -/

/-- The two writes of a cut, the map entry and then the counts, as slot `sl` stands after it. -/
def Slot.cutWrites (sl : Slot) (g k a c : Nat) : List SlotWrite :=
  [{ kind := .other, group := g, slot := k, block := sl.block, addr := a + 64 + 4 * c
     words := [(Table.get MapEntry.idle sl.map c).word] },
   { kind := .other, group := g, slot := k, block := sl.block, addr := a + 24
     words := [word sl.counts.main, word sl.counts.backup, word sl.counts.blend] }]

theorem State.jobCompleted_carried {s : State} {g n : Nat} (h : (s.slot g (n % 16)).block = n) :
    s.jobCompleted g n = s.jobLeaves g (n % 16) := if_pos (beq_iff_eq.2 h)

theorem State.jobCompleted_gone {s : State} {g n : Nat} (h : (s.slot g (n % 16)).block ≠ n) : s.jobCompleted g n = s :=
  if_neg fun hc => h (beq_iff_eq.1 hc)

theorem State.jobCancelled_gone {s : State} {g n : Nat} (h : (s.slot g (n % 16)).block ≠ n) (c b : Nat) :
    s.jobCancelled g n c b = s := if_neg fun hc => h (beq_iff_eq.1 hc)

/-- A cancelled job of the block that its slot carries: the cut, its writes, and the job leaves. -/
theorem State.slotSent_jobCancelled {s : State} {g n k : Nat} (hk : k = n % 16) (h : (s.slot g k).block = n) (c b : Nat) :
    State.SlotSent g k ((s.slot g k).cutTo c b).left
      (((s.slot g k).cutTo c b).cutWrites g k (s.recordAddr g k) c
        ++ ((s.slot g k).cutTo c b).leaveWrites g k (s.recordAddr g k)) s (s.jobCancelled g n c b) := by
  subst hk
  have hcut := s.slotSent_modifySlot g (n % 16) (fun sl => sl.cutTo c b)
  unfold State.jobCancelled
  rw [if_pos (show s.slotCarries g n = true from beq_iff_eq.2 h)]
  dsimp only
  generalize s.modifySlot g (n % 16) (fun sl => sl.cutTo c b) = cut at hcut ⊢
  have hentry := cut.slotSent_send .other g (n % 16) (64 + 4 * c) [(Table.get MapEntry.idle (cut.slot g (n % 16)).map c).word]
  have hcounts := (cut.sendSlotWrite .other g (n % 16) (64 + 4 * c)
    [(Table.get MapEntry.idle (cut.slot g (n % 16)).map c).word]).slotSent_send .other g (n % 16) 24
      [word (cut.slot g (n % 16)).counts.main, word (cut.slot g (n % 16)).counts.backup, word (cut.slot g (n % 16)).counts.blend]
  have hsent := (hcut.trans hentry).trans hcounts
  have hall := hsent.trans (State.slotSent_jobLeaves _ g (n % 16))
  refine hall.congr ?_ ?_
  · rw [hcounts.slot, hentry.slot, hcut.slot]
  · rw [hsent.recordAddr, hcounts.slot, hentry.slot, hentry.recordAddr, hcut.slot, hcut.recordAddr, ← Nat.add_assoc]
    rfl

/-- A cut counts the block under the served role. -/
theorem Slot.cutTo_eq (sl : Slot) (c b : Nat) : sl.cutTo c b = { sl with
    map := (sl.cutTo c b).map
    counts := { sl.counts with
      blend := sl.counts.blend - 1
      main := sl.counts.main + (if sl.servedRole = .main then 1 else 0)
      backup := sl.counts.backup + (if sl.servedRole = .main then 0 else 1) } } := by
  unfold Slot.cutTo
  cases sl.servedRole <;> rfl

theorem Slot.map_cutTo (sl : Slot) (c b d : Nat) : Table.get MapEntry.idle (sl.cutTo c b).map d
    = if d = c then { bucket := b, source := if sl.servedRole = .main then .main else .backup }
      else Table.get MapEntry.idle sl.map d := by
  rw [← Source.ofRole_eq]
  exact Table.get_set _ _ _ _ _

end Sys2Proof.Machine
end

section
/-! # The end of a blend job (R108, R111, R112, R114, R115) -/

namespace Sys2Proof.Machine

/-! ### The rows of the running job -/

section
variable {s : State} {j : BlendJob} {js : List BlendJob}

theorem exec_readingDone (hb : s.blend = j :: js) : exec .blendReadingDone s
    = .next (if j.reads then { s with blend := j.computed (s.jobSamples j) :: js } else s) := by
  simp only [exec, execBlendReadingDone, hb]

theorem exec_jobComplete (hb : s.blend = j :: js) :
    exec .blendJobComplete s = .next (if j.phase = .writing then s.completeHead j else s) := by
  simp only [exec, execBlendJobComplete, hb]

theorem exec_drainEnd (hb : s.blend = j :: js) : exec .blendDrainEnd s
    = .next (if j.phase = .draining ∧ j.samples.isSome then (s.landOutput j).drainHead j else s) := by
  simp only [exec, execBlendDrainEnd, hb]

theorem exec_readError (hb : s.blend = j :: js) (i : BlendInput) : exec (.blendReadError i) s = .next (s.readError j i) := by
  simp only [exec, execBlendReadError, hb]

theorem BlendJob.reads_iff (j : BlendJob) :
    j.reads = true ↔ j.phase = .reading ∨ (j.phase = .draining ∧ j.samples = none) := by
  simp [BlendJob.reads]

theorem State.readError_idle (h : j.phase ≠ .reading) (hd : ¬(j.phase = .draining ∧ j.samples = none)) (i : BlendInput) :
    s.readError j i = s := by
  rw [State.readError, if_neg h, if_neg fun hc => hd ⟨hc.1, Option.isNone_iff_eq_none.1 hc.2⟩]

theorem State.readError_draining (h : j.phase = .draining) (hn : j.samples = none) (i : BlendInput) :
    s.readError j i = s.drainHead j := by
  rw [State.readError, if_neg (by rw [h]; nofun), if_pos ⟨h, by rw [hn]; rfl⟩]

theorem State.readError_reading (h : j.phase = .reading) (i : BlendInput) :
    s.readError j i = if s.sup.teardown.isSome then s.flushHead j else s.failJob j i := if_pos h

/-! ### The output that is taken (R108, R162) -/

variable {out : List Word}

theorem State.blendInFlight_eq (hb : s.blend = j :: js) (ho : j.samples = some out) :
    s.blendInFlight = afterWords s.landed.blend [(s.pool.byteAddr j.output 0, out)] := by
  rw [State.blendInFlight, hb]
  simp only [ho]

/-- The words past those taken, whether or not more were counted than there are. -/
theorem drop_min_length (n : Nat) (ws : List Word) : ws.drop (min n ws.length) = ws.drop n := by
  rcases Nat.le_total n ws.length with h | h
  · rw [Nat.min_eq_left h]
  · rw [Nat.min_eq_right h, List.drop_length, List.drop_eq_nil_of_le h]

theorem landFirst_output {m : Memory} {a l k : Nat} : landFirst m k (afterWords l [(a, out)])
    = writeWords m (a + 4 * min l out.length) ((out.drop (min l out.length)).take k) := by
  rw [drop_min_length]
  rfl

theorem State.took_blend (hb : s.blend = j :: js) (ho : j.samples = some out) (n : Nat) : s.took n .blend = { s with
    mem := writeWords s.mem (s.pool.base + j.output * 512 + 4 * min s.landed.blend out.length)
      ((out.drop (min s.landed.blend out.length)).take (min n (out.length - min s.landed.blend out.length - 1)))
    landed := { s.landed with
      blend := s.landed.blend + min n (out.length - min s.landed.blend out.length - 1) } } := by
  have hcount : beforeLast n s.blendInFlight = min n (out.length - min s.landed.blend out.length - 1) := by
    rw [beforeLast, State.blendInFlight_eq hb ho, wordCount_run]
    omega
  rw [State.took]
  dsimp only
  rw [hcount, State.land, State.blendInFlight_eq hb ho, landFirst_output]
  rfl

theorem State.landOutput_eq (ho : j.samples = some out) : s.landOutput j = { s with
    mem := writeWords s.mem (s.pool.base + j.output * 512 + 4 * min s.landed.blend out.length)
      (out.drop (min s.landed.blend out.length))
    landed := { s.landed with blend := 0 } } := by
  rw [State.landOutput, ho, drop_min_length]
  rfl

/-! ### The claims of a job that ends (R111, R112, R114, R115) -/

theorem Pool.flushJob_running (p : Pool) (h : j.phase ≠ .draining) :
    p.flushJob j = ((p.unpin j.output).unpin j.new).unpin j.old := if_neg h

theorem State.dropHead_eq (hb : s.blend = j :: js) : s.dropHead = { s with blend := startHead js } := by
  rw [State.dropHead, hb]
  rfl

theorem State.drainHead_eq (hb : s.blend = j :: js) : s.drainHead j
    = State.advanceTeardown { s with pool := (s.pool.unpin j.output).unpin j.old, blend := startHead js } := by
  rw [State.drainHead, State.dropHead_eq hb]
  rfl

theorem State.flushHead_eq (hb : s.blend = j :: js) : s.flushHead j
    = State.advanceTeardown { s with pool := s.pool.flushJob j, blend := startHead js } := by
  rw [State.flushHead, State.dropHead_eq hb]
  rfl

/-- A job that is complete in a show: its claims, its place in the queue, and the report to its slot. -/
theorem State.completeHead_show (hb : s.blend = j :: js) (ht : s.sup.teardown = none) : s.completeHead j
    = State.jobCompleted { s.landOutput j with pool := (s.pool.unpin j.new).unpin j.old, blend := startHead js }
        j.group j.block := by
  rw [State.completeHead, if_neg (by rw [ht]; nofun)]
  have hdrop : ((s.landOutput j).claim fun p => p.completeJob j).dropHead
      = { s.landOutput j with pool := (s.pool.unpin j.new).unpin j.old, blend := startHead js } := by
    rw [State.dropHead_eq (s := (s.landOutput j).claim fun p => p.completeJob j) hb]
    rfl
  rw [hdrop]

theorem State.completeHead_flush (hb : s.blend = j :: js) (ht : s.sup.teardown = some .flushing) (hj : j.phase ≠ .draining) :
    s.completeHead j = State.advanceTeardown { s.landOutput j with
      pool := ((s.pool.unpin j.output).unpin j.new).unpin j.old, blend := startHead js } := by
  rw [State.completeHead, if_pos (by rw [ht]; rfl), State.flushHead_eq (s := s.landOutput j) hb, Pool.flushJob_running _ hj]
  rfl

end

/-! ### The teardown behind the last job (R15) -/

section
variable {u : State}

/-- What is dropped is kept dropped as the loads are waited for or the write-backs sent. -/
theorem State.invalidateContexts_dropped (hslot : ∀ g i, (u.slot g i).state = .empty)
    (hlane : ∀ c i l, (u.lane c i l).state = .idle) {t : State} (ht : t = (u.setTeardown (some .waitingLoads)).invalidateContexts) :
    t.blend = u.blend ∧ t.notices = u.notices ∧ t.sup.teardown ≠ some .flushing ∧ t.sup.teardown ≠ none
      ∧ (∀ g i, (t.slot g i).state = .empty) ∧ ∀ c i l, (t.lane c i l).state = .idle := by
  by_cases hl : u.cache.loads = []
  · rw [State.invalidateContexts_sends _ (by exact hl)] at ht
    subst ht
    exact ⟨rfl, rfl, nofun, nofun, hslot, fun c i l => by cases i <;> rfl⟩
  · rw [State.invalidateContexts_waits _ (by exact hl)] at ht
    subst ht
    exact ⟨rfl, rfl, nofun, nofun, hslot, hlane⟩

theorem State.blend_dropShow (u : State) : u.dropShow.blend = u.blend := by rw [State.dropShow_eq]

theorem State.notices_dropShow (u : State) : u.dropShow.notices = u.notices := by rw [State.dropShow_eq]

/-- Steps 3 and 4 follow the last job: every slot is EMPTY, every lane IDLE, and the loads or the write-backs remain. -/
theorem State.advanceTeardown_flushed (ht : u.sup.teardown = some .flushing) (hb : u.blend = []) :
    u.advanceTeardown.blend = [] ∧ u.advanceTeardown.notices = u.notices
      ∧ u.advanceTeardown.sup.teardown ≠ some .flushing ∧ u.advanceTeardown.sup.teardown ≠ none
      ∧ (∀ g i, (u.advanceTeardown.slot g i).state = .empty)
      ∧ ∀ c i l, (u.advanceTeardown.lane c i l).state = .idle := by
  have hslot : ∀ g i, (u.dropShow.slot g i).state = .empty := fun g i => by
    rw [State.slot_dropShow, Slot.emptied, Slot.initial]
  have hlane : ∀ c i l, (u.dropShow.lane c i l).state = .idle := fun c i l => by
    rw [State.lane, State.context_dropShow, Context.lane_dropped, Lane.closed]
  have hnext : u.advanceTeardown = (u.dropShow.setTeardown (some .waitingLoads)).invalidateContexts :=
    (State.advanceTeardown_flushing u ht).trans (if_pos hb)
  have hdropped := State.invalidateContexts_dropped hslot hlane hnext
  rw [State.blend_dropShow, State.notices_dropShow, hb] at hdropped
  exact hdropped

end

end Sys2Proof.Machine
end

section
/-! # The end of a blend job, settled (R108, R111, R112, R114, R115) -/

namespace Sys2Proof.Machine

section
variable {s : State} {j : BlendJob} {js : List BlendJob}

theorem State.completeHead_took (hb : s.blend = j :: js) (ho : j.samples.isSome = true) (n : Nat) :
    (s.took n .blend).completeHead j = s.completeHead j := by
  rw [State.completeHead, State.completeHead, s.landOutput_took n j js hb ho]
  rfl

/-- The rig port of a failing input's role (R114). -/
theorem State.inputSource_eq {i : BlendInput} {src : Rig}
    (hnew : i = .new → src = s.rigOf (s.slot j.group (j.block % 16)).servedRole)
    (hold : i = .old → src = s.rigOf (if (s.slot j.group (j.block % 16)).servedRole = .main then .backup else .main)) :
    s.inputSource j i = src := by
  cases i with
  | new => exact (hnew rfl).symm
  | old =>
    rw [hold rfl, State.inputSource]
    cases (s.slot j.group (j.block % 16)).servedRole <;> rfl

/-- A read of a job that is not cancelled fails in a show. -/
theorem State.failJob_eq (hb : s.blend = j :: js) (i : BlendInput) : s.failJob j i
    = (State.jobCancelled { s with pool := (s.pool.unpin j.output).unpin j.old, blend := startHead js } j.group j.block
        j.channel j.new).post (some j.group) (some (s.inputSource j i)) (.memoryFaultBlend j.channel i j.block) := by
  rw [State.failJob, State.dropHead_eq hb]
  rfl

/-- The tail of the output lies where the output lies. -/
theorem readByte_writeWords_drop (m : Memory) (a d : Nat) (ws : List Word) {x : Nat} (hd : d ≤ ws.length)
    (hx : x < a + 4 * d ∨ a + 4 * ws.length ≤ x) :
    readByte (writeWords m (a + 4 * d) (ws.drop d)) x = readByte m x := by
  refine readByte_writeWords_of_outside _ _ _ (hx.imp_right fun h => ?_)
  rw [List.length_drop]
  omega

/-- A drained job outside a teardown: its claims and its place in the queue. -/
theorem State.drainHead_show (hb : s.blend = j :: js) (ht : s.sup.teardown = none) : s.drainHead j
    = { s with pool := (s.pool.unpin j.output).unpin j.old, blend := startHead js } := by
  rw [State.drainHead_eq hb, State.advanceTeardown_none]
  exact ht

end

section
variable {s : State} {j : BlendJob} {js : List BlendJob} {k : Nat} {sl : Slot}

theorem BlendJob.reads_not (h : j.phase = .queued ∨ j.phase = .writing ∨ (j.phase = .draining ∧ j.samples ≠ none)) :
    j.phase ≠ .reading ∧ ¬(j.phase = .draining ∧ j.samples = none) := by
  rcases h with h | h | ⟨h, hs⟩
  · rw [h]; exact ⟨nofun, fun hc => nomatch hc.1⟩
  · rw [h]; exact ⟨nofun, fun hc => nomatch hc.1⟩
  · rw [h]; exact ⟨nofun, fun hc => hs hc.2⟩

/-- A complete job whose slot carries its block: the slot has a job less, and perhaps its READY header is sent. -/
theorem State.jobCompleted_slot (hk : k = j.block % 16) (hsl : sl = s.slot j.group k) (hc : sl.block = j.block) :
    ∃ t, s.jobCompleted j.group j.block = t
      ∧ t = { s with resolver := { s.resolver with rings := t.resolver.rings, writes := t.resolver.writes } }
      ∧ t.slot j.group k = { sl with
          outstanding := sl.outstanding - 1, awaitingHeader := sl.awaitingHeader || decide (sl.outstanding ≤ 1) }
      ∧ (∀ g i, g ≠ j.group ∨ i ≠ k → t.slot g i = s.slot g i)
      ∧ (2 ≤ sl.outstanding → t.resolver.writes = s.resolver.writes)
      ∧ (sl.outstanding ≤ 1 → t.resolver.writes = s.resolver.writes ++
          [{ kind := .readyHeader, group := j.group, slot := k, block := sl.block
             addr := s.recordAddr j.group k, words := (t.slot j.group k).header SlotState.ready.code }]) := by
  subst hk hsl
  have hsent := s.slotSent_jobLeaves j.group (j.block % 16)
  refine ⟨_, State.jobCompleted_carried hc, ?_, hsent.slot, hsent.slots, fun h => ?_, fun h => ?_⟩
  · conv =>
      lhs
      rw [hsent.frame, ← hsent.writes]
  · rw [hsent.writes, Slot.leaveWrites, if_neg (by omega), List.append_nil]
  · rw [hsent.writes, Slot.leaveWrites, if_pos h, hsent.slot]
    rfl

/-- A job that is cut in the slot that carries its block: the map, the counts, and the writes that tell of them. -/
theorem State.jobCancelled_slot (hk : k = j.block % 16) (hsl : sl = s.slot j.group k) (hc : sl.block = j.block) :
    ∃ t, s.jobCancelled j.group j.block j.channel j.new = t
      ∧ t = { s with resolver := { s.resolver with rings := t.resolver.rings, writes := t.resolver.writes } }
      ∧ t.slot j.group k = { sl with
          map := (t.slot j.group k).map
          counts := { sl.counts with
            blend := sl.counts.blend - 1
            main := sl.counts.main + (if sl.servedRole = .main then 1 else 0)
            backup := sl.counts.backup + (if sl.servedRole = .main then 0 else 1) }
          outstanding := sl.outstanding - 1
          awaitingHeader := sl.awaitingHeader || decide (sl.outstanding ≤ 1) }
      ∧ (∀ e, e = { bucket := j.new, source := if sl.servedRole = .main then .main else .backup : MapEntry } →
          Table.get MapEntry.idle (t.slot j.group k).map j.channel = e
          ∧ ∃ counts ready : SlotWrite, t.resolver.writes = s.resolver.writes ++
              { kind := .other, group := j.group, slot := k, block := sl.block
                addr := s.recordAddr j.group k + 64 + 4 * j.channel, words := [e.word] } :: counts
                :: (if sl.outstanding ≤ 1 then [ready] else [])
            ∧ counts = { kind := .other, group := j.group, slot := k, block := sl.block
                         addr := s.recordAddr j.group k + 24
                         words := [word (t.slot j.group k).counts.main, word (t.slot j.group k).counts.backup,
                           word (t.slot j.group k).counts.blend] }
            ∧ ready = { kind := .readyHeader, group := j.group, slot := k, block := sl.block
                        addr := s.recordAddr j.group k
                        words := (t.slot j.group k).header SlotState.ready.code })
      ∧ (∀ c, c ≠ j.channel → Table.get MapEntry.idle (t.slot j.group k).map c = Table.get MapEntry.idle sl.map c)
      ∧ (∀ g i, g ≠ j.group ∨ i ≠ k → t.slot g i = s.slot g i) := by
  subst hsl
  have hsent := State.slotSent_jobCancelled hk hc j.channel j.new
  generalize s.jobCancelled j.group j.block j.channel j.new = t at hsent
  have hcut := (s.slot j.group k).cutTo_eq j.channel j.new
  have hmap := (s.slot j.group k).map_cutTo j.channel j.new
  generalize (s.slot j.group k).cutTo j.channel j.new = cut at hsent hcut hmap
  have hwrites := hsent.writes
  rw [Slot.cutWrites, Slot.leaveWrites, hmap, if_pos rfl] at hwrites
  have hslot := hsent.slot
  refine ⟨t, rfl, ?_, ?_, fun e he => ⟨?_, _, _, ?_, rfl, rfl⟩, fun c hne => ?_, hsent.slots⟩
  · conv =>
      lhs
      rw [hsent.frame, ← hsent.writes]
  · rw [hslot, hcut]
    rfl
  · rw [hslot, he]
    exact (hmap j.channel).trans (if_pos rfl)
  · rw [hwrites, hslot, he, hcut]
    rfl
  · rw [hslot]
    exact (hmap c).trans (if_neg hne)

end

/-- Settles O54, by the phase of the running job, by whether its slot carries its block, and by whether a show is on. -/
theorem blendJobEnds : Obligations.BlendJobEnds := by
  intro s j js k sl hb hk hsl
  refine ⟨fun h => ⟨?_, fun i => ?_⟩, fun h => ?_, fun h hn => ?_, fun h => ?_, fun h => ?_,
    fun out d p ho hd => ⟨fun n => ⟨fun _ => ?_, fun _ => ?_, _, rfl, ?_⟩, ?ends⟩,
    fun i src post p ht h hnew hold hpost hp => ?fails,
    fun i p hn => ⟨fun ht h hp => ?_, fun ht hjs h hp => ?_, fun ht hjs h hp => ?_⟩,
    fun u ht hu => State.advanceTeardown_flushed ht hu⟩
  · obtain ⟨hr, hd⟩ := BlendJob.reads_not h
    rw [exec_readingDone hb, if_neg fun hreads => (j.reads_iff.1 hreads).elim hr hd]
  · obtain ⟨hr, hd⟩ := BlendJob.reads_not h
    rw [exec_readError hb, State.readError_idle hr hd]
  · rw [exec_readingDone hb, if_pos (j.reads_iff.2 (Or.inl h)), BlendJob.computed, if_pos h]
  · rw [exec_readingDone hb, if_pos (j.reads_iff.2 (Or.inr ⟨h, hn⟩)), BlendJob.computed, if_neg (by rw [h]; nofun)]
  · rw [exec_jobComplete hb, if_neg h]
  · rw [exec_drainEnd hb, if_neg]
    rintro ⟨hd, hs⟩
    exact h.elim (fun hn => hn hd) fun hn => by rw [hn] at hs; exact nomatch hs
  · rw [exec_jobComplete (s := s.took n .blend) hb, exec_jobComplete hb, State.completeHead_took hb (by rw [ho]; rfl)]
    split
    · rfl
    · contradiction
  · rw [exec_drainEnd (s := s.took n .blend) hb, exec_drainEnd hb, s.landOutput_took n j js hb (by rw [ho]; rfl)]
    split
    · rfl
    · next hn => exact absurd ⟨‹j.phase = .draining›, by rw [ho]; rfl⟩ hn
  · rw [State.took_blend hb ho, hd]
  case ends =>
    have hland := State.landOutput_eq (s := s) ho
    rw [← hd] at hland
    generalize htaken : s.landOutput j = taken at hland
    refine ⟨taken, hland, fun x hx => ?_, fun ht hw hp => ⟨fun hgone => ?_, fun hcarried => ?_⟩,
      fun ht hdr => ?_, fun ht hjs hw hp => ?_, fun ht hjs hdr hp => ?_⟩
    · rw [hland]
      exact readByte_writeWords_drop _ _ _ _ (hd ▸ Nat.min_le_right _ _) hx
    · have hgone' : (s.slot j.group (j.block % 16)).block ≠ j.block := by rwa [← hk, ← hsl]
      rw [exec_jobComplete hb, if_pos hw, State.completeHead_show hb ht, htaken, ← hp,
        State.jobCompleted_gone (by rw [hland]; exact hgone')]
    · subst hland
      obtain ⟨t, hend, hframe, hslot, hslots, hmore, hlast⟩ := State.jobCompleted_slot (k := k) (sl := sl) (j := j)
        (s := { s with
          mem := writeWords s.mem (s.pool.base + j.output * 512 + 4 * d) (out.drop d)
          landed := { s.landed with blend := 0 }
          pool := p
          blend := startHead js }) hk hsl hcarried
      refine ⟨t, ?_, hframe, hslot, hslots, hmore, hlast⟩
      rw [exec_jobComplete hb, if_pos hw, State.completeHead_show hb ht, htaken, ← hp, ← hend]
    · have hbt : taken.blend = j :: js := by rw [hland]; exact hb
      have htt : taken.sup.teardown = none := by rw [hland]; exact ht
      rw [exec_drainEnd hb, if_pos ⟨hdr, by rw [ho]; rfl⟩, htaken, State.drainHead_show hbt htt, hland]
    · subst hjs
      rw [exec_jobComplete hb, if_pos hw, State.completeHead_flush hb ht (by rw [hw]; nofun), htaken, ← hp]
      rfl
    · subst hjs
      have hbt : taken.blend = j :: [] := by rw [hland]; exact hb
      rw [exec_drainEnd hb, if_pos ⟨hdr, by rw [ho]; rfl⟩, htaken, State.drainHead_eq hbt, hp, hland]
      rfl
  case fails =>
    have hsrc := State.inputSource_eq (s := s) (j := j) (i := i) (src := src) (by rw [← hk, ← hsl]; exact hnew)
      (by rw [← hk, ← hsl]; exact hold)
    have hexec : exec (.blendReadError i) s = .next (s.failJob j i) := by
      rw [exec_readError hb, State.readError_reading h, if_neg (by rw [ht]; nofun)]
    rw [State.failJob_eq hb, hsrc, ← hp] at hexec
    refine ⟨fun hgone => ?_, fun hcarried => ?_⟩
    · have hgone' : (s.slot j.group (j.block % 16)).block ≠ j.block := by rwa [← hk, ← hsl]
      rw [hexec, State.jobCancelled_gone (by exact hgone'), hpost]
      rfl
    · obtain ⟨u, hend, hframe, hslot, hmap, hothers, hslots⟩ := State.jobCancelled_slot (k := k) (sl := sl) (j := j)
        (s := { s with pool := p, blend := startHead js }) hk hsl hcarried
      refine ⟨{ u with notices := post }, ?_, ?_, hslot, hmap, hothers, hslots⟩
      · rw [hexec, hend, hpost]
        conv =>
          rhs
          rw [hframe]
        conv =>
          lhs
          rw [hframe]
        rfl
      · conv =>
          lhs
          rw [hframe]
  · rw [exec_readError hb, State.readError_draining h hn, State.drainHead_show hb ht, hp]
  · subst hjs
    rw [exec_readError hb, State.readError_draining h hn, State.drainHead_eq hb, hp]
    rfl
  · subst hjs
    rw [exec_readError hb, State.readError_reading h, if_pos (by rw [ht]; rfl), State.flushHead_eq hb,
      Pool.flushJob_running _ (by rw [h]; nofun), hp]
    rfl

end Sys2Proof.Machine
end

section
/-! # One slot through the jobs a deadline cancels in it (R100, R112) -/

namespace Sys2Proof.Machine

/-! ### The slot -/

/-- Slot `sl` with `n` of its jobs cut, and a map. -/
def Slot.cutBy (sl : Slot) (n : Nat) (map : Table MapEntry) : Slot :=
  { sl with
    map := map
    outstanding := sl.outstanding - n
    counts := { sl.counts with
      blend := sl.counts.blend - n
      main := sl.counts.main + (if sl.servedRole = .main then n else 0)
      backup := sl.counts.backup + (if sl.servedRole = .main then 0 else n) }
    awaitingHeader := sl.awaitingHeader || decide (1 ≤ n ∧ sl.outstanding ≤ n) }

/-- Slot `sl` after job `j`, which is cut and leaves. -/
def Slot.cutOff (sl : Slot) (j : BlendJob) : Slot := (sl.cutTo j.channel j.new).left

/-- Slot `sl` after each of the jobs. -/
def Slot.cutAll (sl : Slot) (due : List BlendJob) : Slot := due.foldl Slot.cutOff sl

theorem Slot.cutBy_zero (sl : Slot) : sl.cutBy 0 sl.map = sl := by
  have hrole : (if sl.servedRole = .main then 0 else 0) = 0 := ite_self 0
  rw [Slot.cutBy, hrole, decide_eq_false (fun h => absurd h.1 (by decide)), Bool.or_false]
  rfl

/-- One more job of the slot is cut. -/
theorem Slot.cutOff_cutBy (sl : Slot) (n : Nat) (map : Table MapEntry) (j : BlendJob) :
    (sl.cutBy n map).cutOff j = sl.cutBy (n + 1) ((sl.cutBy n map).cutOff j).map := by
  have hlast : (decide (1 ≤ n ∧ sl.outstanding ≤ n) || decide (sl.outstanding - n ≤ 1))
      = decide (1 ≤ n + 1 ∧ sl.outstanding ≤ n + 1) := by
    rw [← Bool.decide_or]
    exact decide_eq_decide.2 (by omega)
  have hmain : ∀ x, x + (if sl.servedRole = .main then n else 0) + (if sl.servedRole = .main then 1 else 0)
      = x + (if sl.servedRole = .main then n + 1 else 0) := fun x => by split <;> rfl
  have hbackup : ∀ x, x + (if sl.servedRole = .main then 0 else n) + (if sl.servedRole = .main then 0 else 1)
      = x + (if sl.servedRole = .main then 0 else n + 1) := fun x => by split <;> rfl
  rw [Slot.cutOff, Slot.cutTo_eq, Slot.left, Slot.cutBy, Slot.cutBy]
  dsimp only
  rw [hmain, hbackup, Bool.or_assoc, hlast, Nat.sub_sub, Nat.sub_sub]

theorem Slot.cutAll_cutBy (due : List BlendJob) : ∀ (sl : Slot) (n : Nat) (map : Table MapEntry),
    (sl.cutBy n map).cutAll due = sl.cutBy (n + due.length) ((sl.cutBy n map).cutAll due).map := by
  induction due with
  | nil => intros; rfl
  | cons j due ih =>
    intro sl n map
    rw [Slot.cutAll, List.foldl_cons, Slot.cutOff_cutBy]
    refine (ih sl (n + 1) _).trans ?_
    rw [List.length_cons, Nat.add_right_comm, Nat.add_assoc]
    rfl

/-- The counts of a slot after all of its jobs. -/
theorem Slot.cutAll_eq (sl : Slot) (due : List BlendJob) :
    sl.cutAll due = sl.cutBy due.length (sl.cutAll due).map := by
  have hall := Slot.cutAll_cutBy due sl 0 sl.map
  rwa [Slot.cutBy_zero, Nat.zero_add] at hall

/-! ### Its map -/

theorem Slot.map_cutOff (sl : Slot) (j : BlendJob) (d : Nat) : Table.get MapEntry.idle (sl.cutOff j).map d
    = if d = j.channel then { bucket := j.new, source := if sl.servedRole = .main then .main else .backup }
      else Table.get MapEntry.idle sl.map d := sl.map_cutTo j.channel j.new d

theorem Slot.servedRole_cutOff (sl : Slot) (j : BlendJob) : (sl.cutOff j).servedRole = sl.servedRole := by
  rw [Slot.cutOff, Slot.cutTo_eq, Slot.left]

/-- A channel without a job of the slot keeps its entry. -/
theorem Slot.map_cutAll_other {c : Nat} {due : List BlendJob} (h : ∀ j ∈ due, j.channel ≠ c) (sl : Slot) :
    Table.get MapEntry.idle (sl.cutAll due).map c = Table.get MapEntry.idle sl.map c := by
  induction due generalizing sl with
  | nil => rfl
  | cons i due ih =>
    refine (ih (fun j hj => h j (List.mem_cons_of_mem _ hj)) (sl.cutOff i)).trans ?_
    rw [Slot.map_cutOff, if_neg (h i List.mem_cons_self).symm]

/-- The only job of its channel leaves its New bucket there, under the served role. -/
theorem Slot.map_cutAll {j : BlendJob} {due : List BlendJob} (hj : j ∈ due)
    (h : ∀ i ∈ due, i.channel = j.channel → i = j) (sl : Slot) : Table.get MapEntry.idle (sl.cutAll due).map j.channel
      = { bucket := j.new, source := if sl.servedRole = .main then .main else .backup } := by
  induction due generalizing sl with
  | nil => nomatch hj
  | cons i due ih =>
    have hrest : ∀ i ∈ due, i.channel = j.channel → i = j := fun i hi => h i (List.mem_cons_of_mem _ hi)
    by_cases hin : j ∈ due
    · refine (ih hin hrest (sl.cutOff i)).trans ?_
      rw [Slot.servedRole_cutOff]
    · obtain rfl : j = i := (List.mem_cons.1 hj).resolve_right hin
      refine (Slot.map_cutAll_other (fun i hi hc => hin (hrest i hi hc ▸ hi)) (sl.cutOff j)).trans ?_
      rw [Slot.map_cutOff, if_pos rfl]

/-! ### Its writes -/

/-- The writes of job `j`, which is cut and leaves slot `sl` with its record at `a`. -/
def Slot.offWrites (sl : Slot) (g k a : Nat) (j : BlendJob) : List SlotWrite :=
  (sl.cutTo j.channel j.new).cutWrites g k a j.channel ++ (sl.cutTo j.channel j.new).leaveWrites g k a

/-- The writes of each of the jobs in turn. -/
def Slot.allWrites (g k a : Nat) : Slot → List BlendJob → List SlotWrite
  | _, [] => []
  | sl, j :: due => sl.offWrites g k a j ++ Slot.allWrites g k a (sl.cutOff j) due

theorem MapEntry.word_cut (b : Nat) (r : Role) :
    MapEntry.word { bucket := b, source := if r = .main then .main else .backup }
      = BitVec.ofNat 32 (b % 131072 + 16777216 * (if r = .main then 1 else 2)) := by
  refine congrArg (BitVec.ofNat 32) ?_
  cases r
  · show b % 65536 + 65536 * ((b / 65536 % 2 + 256 * 1) % 65536) = b % 131072 + 16777216 * 1
    omega
  · show b % 65536 + 65536 * ((b / 65536 % 2 + 256 * 2) % 65536) = b % 131072 + 16777216 * 2
    omega

/-- The words of a READY header, each as a number. -/
theorem Slot.header_ready (sl : Slot) : sl.header SlotState.ready.code
    = [2, BitVec.ofNat 32 sl.block, BitVec.ofNat 32 (sl.block / 4294967296 % 65536), 0xFFFFFFFF,
       if sl.servedRole = .main then 1 else 2,
       BitVec.ofNat 32 ((if sl.switchMark = true then 1 else 0) + (if sl.fadeMark = true then 2 else 0)),
       BitVec.ofNat 32 sl.counts.main, BitVec.ofNat 32 sl.counts.backup, BitVec.ofNat 32 sl.counts.blend,
       BitVec.ofNat 32 sl.counts.fill, BitVec.ofNat 32 sl.counts.patched, 0, 0, 0, 0, 0] := by
  have hrole : word sl.servedRole.code = if sl.servedRole = .main then 1 else 2 := by cases sl.servedRole <;> rfl
  have hmarks : word (flag sl.switchMark + 2 * flag sl.fadeMark)
      = BitVec.ofNat 32 ((if sl.switchMark = true then 1 else 0) + (if sl.fadeMark = true then 2 else 0)) := by
    cases sl.switchMark <;> cases sl.fadeMark <;> rfl
  rw [Slot.header, headerWords, hrole, hmarks]
  rfl

/-- The writes of the job after `n` others of its slot. -/
theorem Slot.offWrites_cutBy (sl : Slot) (n : Nat) (map : Table MapEntry) (g k a : Nat) (j : BlendJob) :
    (sl.cutBy n map).offWrites g k a j =
      [{ kind := .other, group := g, slot := k, block := sl.block, addr := a + 64 + 4 * j.channel
         words := [BitVec.ofNat 32 (j.new % 131072 + 16777216 * (if sl.servedRole = .main then 1 else 2))] },
       { kind := .other, group := g, slot := k, block := sl.block, addr := a + 24
         words := [(sl.cutBy (n + 1) map).counts.main, (sl.cutBy (n + 1) map).counts.backup,
           (sl.cutBy (n + 1) map).counts.blend].map (BitVec.ofNat 32) }]
      ++ (if sl.outstanding ≤ n + 1 then
        [{ kind := .readyHeader, group := g, slot := k, block := sl.block, addr := a
           words := (sl.cutBy (n + 1) map).header SlotState.ready.code }]
      else []) := by
  have hone : ((sl.cutBy n map).cutOff j).counts = (sl.cutBy (n + 1) map).counts := by
    rw [sl.cutOff_cutBy n map j]
    rfl
  have hblock : ((sl.cutBy n map).cutTo j.channel j.new).block = sl.block := by rw [Slot.cutTo_eq]; rfl
  have hout : ((sl.cutBy n map).cutTo j.channel j.new).outstanding = sl.outstanding - n := by rw [Slot.cutTo_eq]; rfl
  have hcounts : ((sl.cutBy n map).cutTo j.channel j.new).counts = (sl.cutBy (n + 1) map).counts := by
    rw [← hone]
    rfl
  have hheader : ((sl.cutBy n map).cutTo j.channel j.new).header SlotState.ready.code
      = (sl.cutBy (n + 1) map).header SlotState.ready.code := by
    rw [Slot.header, hcounts, Slot.cutTo_eq]
    rfl
  have hentry : (Table.get MapEntry.idle ((sl.cutBy n map).cutTo j.channel j.new).map j.channel).word
      = BitVec.ofNat 32 (j.new % 131072 + 16777216 * (if sl.servedRole = .main then 1 else 2)) := by
    rw [Slot.map_cutTo, if_pos rfl]
    exact MapEntry.word_cut j.new sl.servedRole
  rw [Slot.offWrites, Slot.cutWrites, Slot.leaveWrites, hblock, hout, hcounts, hheader, hentry]
  congr 1
  exact ite_of_iff (by omega) rfl rfl

/-- The writes of each job of a slot, told by its place among them. -/
theorem Slot.allWrites_cutBy {sl : Slot} {g k a : Nat} {main backup blend : Nat → Nat}
    (hmain : ∀ i, main i = sl.counts.main + (if sl.servedRole = .main then i else 0))
    (hbackup : ∀ i, backup i = sl.counts.backup + (if sl.servedRole = .main then 0 else i))
    (hblend : ∀ i, blend i = sl.counts.blend - i) (due : List BlendJob) : ∀ (n : Nat) (map : Table MapEntry),
    Slot.allWrites g k a (sl.cutBy n map) due = (due.zipIdx n).flatMap (fun p =>
      [{ kind := .other, group := g, slot := k, block := sl.block, addr := a + 64 + 4 * p.1.channel
         words := [BitVec.ofNat 32 (p.1.new % 131072 + 16777216 * (if sl.servedRole = .main then 1 else 2))] },
       { kind := .other, group := g, slot := k, block := sl.block, addr := a + 24
         words := [main (p.2 + 1), backup (p.2 + 1), blend (p.2 + 1)].map (BitVec.ofNat 32) }]
      ++ (if sl.outstanding ≤ p.2 + 1 then
        [{ kind := .readyHeader, group := g, slot := k, block := sl.block, addr := a
           words := [2, BitVec.ofNat 32 sl.block, BitVec.ofNat 32 (sl.block / 4294967296 % 65536), 0xFFFFFFFF,
             if sl.servedRole = .main then 1 else 2,
             BitVec.ofNat 32 ((if sl.switchMark = true then 1 else 0) + (if sl.fadeMark = true then 2 else 0)),
             BitVec.ofNat 32 (main (p.2 + 1)), BitVec.ofNat 32 (backup (p.2 + 1)), BitVec.ofNat 32 (blend (p.2 + 1)),
             BitVec.ofNat 32 sl.counts.fill, BitVec.ofNat 32 sl.counts.patched, 0, 0, 0, 0, 0] }]
        else [])) := by
  induction due with
  | nil => intros; rfl
  | cons j due ih =>
    intro n map
    rw [Slot.allWrites, Slot.cutOff_cutBy, ih, List.zipIdx_cons, List.flatMap_cons, Slot.offWrites_cutBy, Slot.header_ready,
      hmain, hbackup, hblend]
    rfl

end Sys2Proof.Machine
end

section
/-! # The deadline of a block, settled (R112) -/

namespace Sys2Proof.Machine

/-! ### The queue that it leaves -/

/-- What a deadline keeps of a job. -/
def BlendJob.key (j : BlendJob) : Nat × Nat × Nat := (j.group, j.block, j.channel)

theorem map_key_startHead (js : List BlendJob) : (startHead js).map BlendJob.key = js.map BlendJob.key := by
  cases js with
  | nil => rfl
  | cons j js =>
    rw [startHead]
    split <;> rfl

theorem BlendJob.key_atDeadline (j : BlendJob) (period : Nat) : (j.atDeadline period).map BlendJob.key
    = if !(decide (j.block ≤ period) && j.phase == .queued) then some j.key else none := by
  by_cases hq : j.phase = .queued
  · rw [atDeadline_queued hq, hq]
    by_cases hp : j.block ≤ period <;> simp [hp]
  · rw [atDeadline_running hq, beq_false_of_ne hq, Bool.and_false]
    split <;> rfl

/-- A deadline takes the QUEUED jobs of heard blocks away and keeps the order of the others. -/
theorem map_key_filterMap_atDeadline (js : List BlendJob) (period : Nat) :
    (js.filterMap (BlendJob.atDeadline period)).map BlendJob.key
      = (js.filter (fun j => !(decide (j.block ≤ period) && j.phase == .queued))).map BlendJob.key := by
  induction js with
  | nil => rfl
  | cons j js ih =>
    have hkey := j.key_atDeadline period
    rw [List.filterMap_cons, List.filter_cons]
    cases h : j.atDeadline period with
    | none =>
      rw [h] at hkey
      split at hkey
      · nomatch hkey
      · next hout => rw [if_neg hout]; exact ih
    | some i =>
      rw [h] at hkey
      split at hkey
      · next hin =>
        rw [if_pos hin, List.map_cons, List.map_cons, ih, Option.some.inj hkey]
      · nomatch hkey

theorem BlendJob.atDeadline_heard {i j : BlendJob} {period : Nat} (h : j.atDeadline period = some i)
    (hp : i.block ≤ period) : i.phase = .draining := by
  by_cases hq : j.phase = .queued
  · rw [atDeadline_queued hq] at h
    split at h
    · nomatch h
    · next hlate => exact absurd ((Option.some.inj h) ▸ hp) hlate
  · rw [atDeadline_running hq] at h
    split at h
    · rw [← Option.some.inj h]
    · next hlate => exact absurd ((Option.some.inj h) ▸ hp) hlate

/-- The jobs of heard blocks that a deadline leaves are DRAINING. -/
theorem draining_of_deadline {js : List BlendJob} {period : Nat} {i : BlendJob}
    (hi : i ∈ startHead (js.filterMap (BlendJob.atDeadline period))) (hp : i.block ≤ period) : i.phase = .draining := by
  have hleft : ∀ i ∈ js.filterMap (BlendJob.atDeadline period), i.block ≤ period → i.phase = .draining := fun i hi => by
    obtain ⟨j, -, hj⟩ := List.mem_filterMap.1 hi
    exact BlendJob.atDeadline_heard hj
  cases hrest : js.filterMap (BlendJob.atDeadline period) with
  | nil => rw [hrest] at hi; nomatch hi
  | cons j rest =>
    rw [hrest] at hi hleft
    have hhead := hleft j List.mem_cons_self
    by_cases hq : j.phase = .queued
    · rw [startHead, if_pos hq] at hi
      rcases List.mem_cons.1 hi with rfl | hi
      · exact nomatch hq.symm.trans (hhead hp)
      · exact hleft i (List.mem_cons_of_mem _ hi) hp
    · rw [startHead_running hq] at hi
      exact hleft i hi hp

/-! ### The claims of the cancelled jobs -/

/-- A QUEUED job drops its pins on Output and Old; the running job keeps them. -/
def Pool.afterDeadline (p : Pool) (j : BlendJob) : Pool :=
  if j.phase = .queued then (p.unpin j.output).unpin j.old else p

theorem BlendJob.overdue_iff (j : BlendJob) (period : Nat) :
    j.overdue period = true ↔ j.block ≤ period ∧ j.phase ≠ .draining := by
  simp [BlendJob.overdue]

theorem foldl_afterDeadline {j : BlendJob} {js : List BlendJob} (hj : j.phase ≠ .queued) (h : ∀ i ∈ js, i.phase = .queued)
    (period : Nat) (p : Pool) : ((j :: js).filter (fun j => j.overdue period)).foldl Pool.afterDeadline p
      = (js.filter (fun i => decide (i.block ≤ period))).foldl (fun p i => (p.unpin i.output).unpin i.old) p := by
  have hrest : js.filter (fun j => j.overdue period) = js.filter (fun i => decide (i.block ≤ period)) :=
    List.filter_congr fun i hi => by
      rw [BlendJob.overdue, h i hi]
      exact Bool.and_true _
  have hqueued : ∀ p, (js.filter (fun j => j.overdue period)).foldl Pool.afterDeadline p
      = (js.filter (fun i => decide (i.block ≤ period))).foldl (fun p i => (p.unpin i.output).unpin i.old) p := fun p => by
    rw [hrest]
    exact foldl_congr fun q i hi => if_pos (h i (List.mem_filter.1 hi).1)
  rw [List.filter_cons]
  split
  · rw [List.foldl_cons, Pool.afterDeadline, if_neg hj]
    exact hqueued p
  · exact hqueued p

/-! ### The slots of the cancelled jobs -/

/-- Job `j` is one of slot `k` of group `g`, which is `sl`. -/
def Slot.carries (sl : Slot) (g k : Nat) (j : BlendJob) : Bool :=
  decide (j.group = g ∧ j.block % 16 = k ∧ sl.block = j.block)

theorem Slot.carries_iff {sl : Slot} {g k : Nat} {j : BlendJob} :
    sl.carries g k j = true ↔ j.group = g ∧ j.block % 16 = k ∧ sl.block = j.block := decide_eq_true_iff

theorem Slot.filter_one {sl : Slot} {g k : Nat} {j : BlendJob} (h : sl.carries g k j = true) :
    [j].filter (sl.carries g k) = [j] := List.filter_cons_of_pos h

theorem Slot.filter_other {sl : Slot} {g k : Nat} {j : BlendJob} (h : ¬(g = j.group ∧ k = j.block % 16)) :
    [j].filter (sl.carries g k) = [] := List.filter_cons_of_neg fun hof => by
  obtain ⟨hg, hk, -⟩ := Slot.carries_iff.1 hof
  exact h ⟨hg.symm, hk.symm⟩

/-- The jobs `js` are cancelled in turn, and the writes of their slots are `extra`. -/
structure State.CutOff (js : List BlendJob) (extra : List SlotWrite) (s t : State) : Prop where
  frame : t = { s with
    pool := js.foldl Pool.afterDeadline s.pool
    resolver := { s.resolver with rings := t.resolver.rings, writes := s.resolver.writes ++ extra } }
  slot : ∀ g k, t.slot g k = (s.slot g k).cutAll (js.filter ((s.slot g k).carries g k))
  writes : ∀ g k, extra.filter (fun w => decide (w.group = g ∧ w.slot = k))
    = Slot.allWrites g k (s.recordAddr g k) (s.slot g k) (js.filter ((s.slot g k).carries g k))

theorem Slot.allWrites_append (g k a : Nat) (due due' : List BlendJob) : ∀ sl : Slot,
    Slot.allWrites g k a sl (due ++ due') = Slot.allWrites g k a sl due ++ Slot.allWrites g k a (sl.cutAll due) due' := by
  induction due with
  | nil => intros; rfl
  | cons j due ih =>
    intro sl
    rw [List.cons_append, Slot.allWrites, ih, Slot.allWrites, List.append_assoc]
    rfl

theorem Slot.offWrites_place {sl : Slot} {g k a : Nat} {j : BlendJob} {w : SlotWrite} (h : w ∈ sl.offWrites g k a j) :
    w.group = g ∧ w.slot = k := by
  rcases List.mem_append.1 h with h | h
  · rcases List.mem_cons.1 h with rfl | h
    · exact ⟨rfl, rfl⟩
    · rw [List.mem_singleton.1 h]
      exact ⟨rfl, rfl⟩
  · rw [Slot.leaveWrites] at h
    split at h
    · rw [List.mem_singleton.1 h]
      exact ⟨rfl, rfl⟩
    · nomatch h

theorem State.CutOff.trans {js js' : List BlendJob} {extra extra' : List SlotWrite} {s t u : State}
    (h : State.CutOff js extra s t) (h' : State.CutOff js' extra' t u) : State.CutOff (js ++ js') (extra ++ extra') s u := by
  have hof : ∀ g k, (t.slot g k).carries g k = (s.slot g k).carries g k := fun g k => by
    rw [h.slot, Slot.cutAll_eq]
    rfl
  have haddr : ∀ g k, t.recordAddr g k = s.recordAddr g k := fun g k => by
    rw [h.frame]
    rfl
  refine ⟨?_, fun g k => ?_, fun g k => ?_⟩
  · have hframe := h'.frame
    rw [h.frame] at hframe
    rw [List.foldl_append, ← List.append_assoc]
    exact hframe
  · rw [h'.slot, hof, h.slot, List.filter_append, Slot.cutAll, Slot.cutAll, Slot.cutAll, List.foldl_append]
  · rw [List.filter_append, List.filter_append, Slot.allWrites_append, h.writes, h'.writes, hof, haddr, h.slot]

theorem State.cutOff_nil (s : State) : State.CutOff [] [] s s :=
  ⟨by rw [List.append_nil]; rfl, fun _ _ => rfl, fun _ _ => rfl⟩

/-- The deadline of one job: its claims, and its cut in the slot that carries its block. -/
theorem State.deadlineJob_eq (s : State) (j : BlendJob) : s.deadlineJob j
    = State.jobCancelled { s with pool := s.pool.afterDeadline j } j.group j.block j.channel j.new := rfl

theorem State.cutOff_one (s : State) (j : BlendJob) : ∃ extra, State.CutOff [j] extra s (s.deadlineJob j) := by
  rw [State.deadlineJob_eq]
  by_cases hc : (s.slot j.group (j.block % 16)).block = j.block
  · have hsent := State.slotSent_jobCancelled (s := { s with pool := s.pool.afterDeadline j }) rfl hc j.channel j.new
    refine ⟨_, hsent.frame, fun g k => ?_, fun g k => ?_⟩
    · by_cases hat : g = j.group ∧ k = j.block % 16
      · obtain ⟨rfl, rfl⟩ := hat
        rw [Slot.filter_one (Slot.carries_iff.2 ⟨rfl, rfl, hc⟩)]
        exact hsent.slot
      · rw [Slot.filter_other hat]
        exact hsent.slots g k (Decidable.not_and_iff_not_or_not.1 hat)
    · by_cases hat : g = j.group ∧ k = j.block % 16
      · obtain ⟨rfl, rfl⟩ := hat
        rw [Slot.filter_one (Slot.carries_iff.2 ⟨rfl, rfl, hc⟩)]
        refine (List.filter_eq_self.2 fun w hw => decide_eq_true ?_).trans (List.append_nil _).symm
        exact Slot.offWrites_place hw
      · rw [Slot.filter_other hat]
        refine List.filter_eq_nil_iff.2 fun w hw hof => hat ?_
        obtain ⟨hg, hk⟩ := Slot.offWrites_place hw
        obtain ⟨hg', hk'⟩ := of_decide_eq_true hof
        exact ⟨hg'.symm.trans hg, hk'.symm.trans hk⟩
  · rw [State.jobCancelled_gone (by exact hc)]
    have hnone : ∀ g k, [j].filter ((s.slot g k).carries g k) = [] := fun g k => List.filter_cons_of_neg fun hof => by
      obtain ⟨rfl, rfl, hb⟩ := Slot.carries_iff.1 hof
      exact hc hb
    refine ⟨[], ?_, fun g k => ?_, fun g k => ?_⟩
    · rw [List.append_nil]
      rfl
    · rw [hnone]
      rfl
    · rw [hnone]
      rfl

/-- All jobs of a deadline, from the head of the queue on. -/
theorem State.cutOff_jobs (js : List BlendJob) : ∀ s : State,
    ∃ extra, State.CutOff js extra s (js.foldl (fun t j => t.deadlineJob j) s) := by
  induction js with
  | nil => exact fun s => ⟨[], s.cutOff_nil⟩
  | cons j js ih =>
    intro s
    obtain ⟨extra, hone⟩ := s.cutOff_one j
    obtain ⟨more, hrest⟩ := ih (s.deadlineJob j)
    exact ⟨extra ++ more, hone.trans hrest⟩

/-- The jobs of slot `sl` among those that a deadline cancels. -/
theorem filter_overdue_carries (js : List BlendJob) (sl : Slot) (g k period : Nat) :
    (js.filter (fun j => j.overdue period)).filter (sl.carries g k) = js.filter (fun j => decide (j.block ≤ period
      ∧ j.phase ≠ .draining ∧ j.group = g ∧ j.block % 16 = k ∧ sl.block = j.block)) := by
  rw [List.filter_filter]
  refine List.filter_congr fun j _ => ?_
  rw [Slot.carries, Bool.eq_iff_iff, Bool.and_eq_true, j.overdue_iff, decide_eq_true_iff, decide_eq_true_iff, and_comm,
    and_assoc]

/-- Settles O55, by the jobs that the deadline cancels: one slot and its writes after each of them in turn. -/
theorem blendDeadline : Obligations.BlendDeadline := by
  intro s
  refine ⟨fun h => congrArg _ (if_neg h), fun h => ?_⟩
  obtain ⟨extra, hcut⟩ := State.cutOff_jobs (s.blend.filter (fun j => j.overdue s.part.period))
    { s with blend := startHead (s.blend.filterMap (BlendJob.atDeadline s.part.period)) }
  have hexec : exec .blendDeadline s = .next _ := congrArg Host.Outcome.next (if_pos h)
  generalize (s.blend.filter (fun j => j.overdue s.part.period)).foldl (fun t j => t.deadlineJob j)
    { s with blend := startHead (s.blend.filterMap (BlendJob.atDeadline s.part.period)) } = t at hcut hexec
  have hblend : t.blend = startHead (s.blend.filterMap (BlendJob.atDeadline s.part.period)) := by rw [hcut.frame]
  have hpool : t.pool = (s.blend.filter (fun j => j.overdue s.part.period)).foldl Pool.afterDeadline s.pool := by
    rw [hcut.frame]
  have hwrites : t.resolver.writes = s.resolver.writes ++ extra := by rw [hcut.frame]
  refine ⟨t, hexec, ?_, fun j hj => draining_of_deadline (hblend ▸ hj), ?_, fun j js hb hj hjs => ⟨?_, ?_⟩,
    ⟨extra, hwrites⟩, fun g k n due sl cut hk hsl hcutsrc hdue hn => ?_⟩
  · rw [hwrites, hblend, hpool]
    exact hcut.frame
  · rw [hblend]
    exact (map_key_startHead _).trans (map_key_filterMap_atDeadline _ _)
  · rw [hblend, hb, deadline_queue hj hjs]
  · rw [hpool, hb, foldl_afterDeadline hj hjs]
  · have hslot := hcut.slot g k
    have hsent := hcut.writes g k
    subst hsl hcutsrc hn
    rw [filter_overdue_carries] at hslot hsent
    change t.slot g k = (s.slot g k).cutAll (s.blend.filter fun j => decide (j.block ≤ s.part.period
      ∧ j.phase ≠ .draining ∧ j.group = g ∧ j.block % 16 = k ∧ (s.slot g k).block = j.block)) at hslot
    change _ = Slot.allWrites g k (s.recordAddr g k) (s.slot g k) (s.blend.filter fun j => decide (j.block ≤ s.part.period
      ∧ j.phase ≠ .draining ∧ j.group = g ∧ j.block % 16 = k ∧ (s.slot g k).block = j.block)) at hsent
    rw [← hdue] at hslot hsent
    refine ⟨?_, fun j hj hone => ?_, fun c hnone => ?_, fun main backup blend more hmain hbackup hblend hmore => ?_⟩
    · conv =>
        lhs
        rw [hslot, Slot.cutAll_eq, ← hslot]
      rfl
    · rw [hslot, Slot.map_cutAll hj hone]
    · rw [hslot, Slot.map_cutAll_other hnone]
    · obtain rfl := List.append_cancel_left (hwrites.symm.trans hmore)
      have hall := Slot.allWrites_cutBy (g := g) (k := k) (a := s.recordAddr g k) hmain hbackup hblend due 0
        (s.slot g k).map
      rw [Slot.cutBy_zero] at hall
      exact hsent.trans hall

end Sys2Proof.Machine
end

section
/-! # Every step keeps the order of the block: accounts and control (R23, R24, R49, R167)

A claim raises no account. An allocation raises one that has room. What an act of the blocks does to the pool follows from
these two, and it leaves alone the parts of the state that the rest of the order speaks of (`State.Helm`). -/

namespace Sys2Proof.Machine

/-! ### The accounts -/

theorem Table.countP_insert {α : Type} (P : Nat × α → Bool) (k : Nat) (v : α) (t : Table α) :
    (Table.insert k v t).countP P = t.countP P + if P (k, v) then 1 else 0 := by
  induction t with
  | nil => simp [Table.insert, List.countP_cons]
  | cons e t ih =>
    obtain ⟨j, w⟩ := e
    unfold Table.insert
    split
    · rw [List.countP_cons]
    · rw [List.countP_cons, ih, List.countP_cons]
      omega

theorem Table.countP_erase_le {α : Type} (P : Nat × α → Bool) (t : Table α) (k : Nat) :
    (Table.erase t k).countP P ≤ t.countP P := List.Sublist.countP_le List.filter_sublist

/-- An erased entry is no longer counted. -/
theorem Table.countP_erase_of_mem {α : Type} (P : Nat × α → Bool) {t : Table α} {e : Nat × α} (he : e ∈ t) :
    (Table.erase t e.1).countP P + (if P e then 1 else 0) ≤ t.countP P := by
  induction t with
  | nil => cases he
  | cons a t ih =>
    have hcons : (Table.erase (a :: t) e.1).countP P ≤ (Table.erase t e.1).countP P
        + if a.1 != e.1 then (if P a then 1 else 0) else 0 := by
      unfold Table.erase
      rw [List.filter_cons]
      split <;> simp_all [List.countP_cons]
    rw [List.countP_cons]
    have hle := Table.countP_erase_le P t e.1
    obtain rfl | hmem := List.mem_cons.1 he
    · simp only [bne_self_eq_false, Bool.false_eq_true, if_false] at hcons
      omega
    · have := ih hmem
      split at hcons <;> omega

theorem Table.countP_set_le {α : Type} [DecidableEq α] (P : Nat × α → Bool) (d : α) (t : Table α) (k : Nat) (v : α) :
    (Table.set d t k v).countP P ≤ (Table.erase t k).countP P + if P (k, v) then 1 else 0 := by
  unfold Table.set
  split
  · omega
  · exact Nat.le_of_eq (Table.countP_insert ..)

section
variable {p q : Pool}

/-- A bucket in use that keeps its charge is counted as before. -/
theorem Pool.inUse_setBucket_le {b : Nat} (hb : (p.bucket b).state ≠ .free) {e : Bucket}
    (he : e.charged = (p.bucket b).charged) (c : Charge) : (p.setBucket b e).inUse c ≤ p.inUse c := by
  have hset := Table.countP_set_le (fun x => x.2.charged == c) Bucket.initial p.table b e
  have herase := Table.countP_erase_of_mem (fun x => x.2.charged == c) (p.mem_bucket hb)
  simp only [he] at hset
  exact Nat.le_trans hset herase

/-- A bucket put in use is counted by its own account, once. -/
theorem Pool.inUse_setBucket_new (b : Nat) (e : Bucket) (c : Charge) :
    (p.setBucket b e).inUse c ≤ p.inUse c + if e.charged == c then 1 else 0 :=
  Nat.le_trans (Table.countP_set_le (fun x : Nat × Bucket => x.2.charged == c) Bucket.initial p.table b e)
    (Nat.add_le_add_right (Table.countP_erase_le _ _ _) _)

/-- `q` keeps the sizes of the accounts of `p`, charges no account more, and uses no bucket where `p` uses none. -/
structure Pool.Below (p q : Pool) : Prop where
  inUse : ∀ c, q.inUse c ≤ p.inUse c
  quota : q.quota = p.quota
  buckets : q.buckets = p.buckets
  empty : p.table = [] → q.table = []

theorem Pool.Below.refl (p : Pool) : p.Below p := ⟨fun _ => Nat.le_refl _, rfl, rfl, fun h => h⟩

theorem Pool.Below.trans {o : Pool} (h : p.Below q) (h' : q.Below o) : p.Below o :=
  ⟨fun c => Nat.le_trans (h'.inUse c) (h.inUse c), h'.quota.trans h.quota, h'.buckets.trans h.buckets,
    fun he => h'.empty (h.empty he)⟩

/-- In an empty table every bucket is FREE. -/
theorem Pool.free_of_empty (h : p.table = []) (b : Nat) : (p.bucket b).state = .free := by
  rw [Pool.bucket, h]
  rfl

theorem Pool.Below.setBucket {b : Nat} (hb : (p.bucket b).state ≠ .free) {e : Bucket}
    (he : e.charged = (p.bucket b).charged) : p.Below (p.setBucket b e) :=
  ⟨Pool.inUse_setBucket_le hb he, rfl, rfl, fun h => absurd (Pool.free_of_empty h b) hb⟩

theorem Pool.Below.toFree {b : Nat} (hb : (p.bucket b).state ≠ .free) : p.Below (p.toFree b) := by
  refine ⟨fun c => ?_, rfl, rfl, fun h => absurd (Pool.free_of_empty h b) hb⟩
  show (Table.set Bucket.initial p.table b Bucket.initial).countP (fun x => x.2.charged == c) ≤ _
  rw [Table.set, if_pos rfl]
  exact Table.countP_erase_le _ _ _

/-- A claim that takes no bucket raises no account. -/
theorem Pool.Claim.below (h : p.Claim q) : p.Below q := by
  have hfree : ∀ {st : BucketState} {b : Nat}, (p.bucket b).state = st → st ≠ .free → (p.bucket b).state ≠ .free :=
    fun h hn => h ▸ hn
  cases h with
  | retain b =>
    unfold Pool.retain
    split
    next hs => exact .setBucket (hfree hs (by decide)) rfl
    · exact .refl p
  | free b =>
    unfold Pool.free
    split
    next hs => exact .toFree (hs.elim (fun h => hfree h (by decide)) (fun h => hfree h (by decide)))
    · exact .refl p
  | pin b =>
    unfold Pool.pin
    split
    next hs => exact .setBucket (hfree hs (by decide)) rfl
    · split
      next hs => exact .setBucket (hfree hs (by decide)) rfl
      · exact .refl p
  | unpin b =>
    unfold Pool.unpin
    split
    next hs =>
      split
      · exact .setBucket (hfree hs (by decide)) rfl
      · exact .toFree (hfree hs (by decide))
    · exact .refl p
  | exhausted r v => exact ⟨fun _ => Nat.le_refl _, rfl, rfl, fun h => h⟩

theorem Pool.Claims.below (h : p.Claims q) : p.Below q := by
  induction h with
  | refl => exact .refl p
  | tail _ h ih => exact ih.trans h.below

/-- The accounts keep to their sizes (R23). -/
structure Pool.Within (p : Pool) : Prop where
  quota : ∀ r, p.inUse (.quota r) ≤ p.quota.get r
  common : p.inUse (.common .rig1) + p.inUse (.common .rig2) ≤ p.commonSize
  blend : p.inUse .blend ≤ 64

theorem Pool.Below.within (h : p.Below q) (hp : p.Within) : q.Within := by
  refine ⟨fun r => ?_, ?_, Nat.le_trans (h.inUse _) hp.blend⟩
  · rw [h.quota]
    exact Nat.le_trans (h.inUse _) (hp.quota r)
  · rw [Pool.commonSize, h.quota, h.buckets]
    exact Nat.le_trans (Nat.add_le_add (h.inUse _) (h.inUse _)) hp.common

/-- A pool with no bucket in use is within any accounts. -/
theorem Pool.Within.of_empty (h : p.table = []) : p.Within := by
  have h0 : ∀ c, p.inUse c = 0 := fun c => by rw [Pool.inUse, h]; rfl
  exact ⟨fun r => by rw [h0]; exact Nat.zero_le _, by rw [h0, h0]; exact Nat.zero_le _, by rw [h0]; exact Nat.zero_le _⟩

theorem Pool.allocate_eq (p : Pool) (c : Charge) (st : BucketState) (pins : Nat) :
    (p.allocate c st pins).2 = p ∨ ∃ b rest, (p.allocate c st pins).2
      = { p.setBucket b { state := st, pinCount := pins, charged := c } with freeList := rest } := by
  unfold Pool.allocate
  split
  · exact .inl rfl
  · exact .inr ⟨_, _, rfl⟩

/-- An allocation charges one account once, and the others not. -/
theorem Pool.inUse_allocate_le (p : Pool) (c : Charge) (st : BucketState) (pins : Nat) (d : Charge) :
    (p.allocate c st pins).2.inUse d ≤ p.inUse d + if c == d then 1 else 0 := by
  obtain h | ⟨b, rest, h⟩ := p.allocate_eq c st pins
  · rw [h]
    omega
  · rw [h]
    exact p.inUse_setBucket_new b _ d

theorem Pool.allocate_sizes (p : Pool) (c : Charge) (st : BucketState) (pins : Nat) :
    (p.allocate c st pins).2.quota = p.quota ∧ (p.allocate c st pins).2.buckets = p.buckets := by
  obtain h | ⟨b, rest, h⟩ := p.allocate_eq c st pins
  · rw [h]
    exact ⟨rfl, rfl⟩
  · rw [h]
    exact ⟨rfl, rfl⟩

/-- An allocation to an account with room keeps the accounts within their sizes. -/
theorem Pool.Within.allocate (h : p.Within) {c : Charge} (st : BucketState) (pins : Nat)
    (hquota : ∀ r, c = .quota r → p.inUse (.quota r) < p.quota.get r)
    (hcommon : ∀ r, c = .common r → p.inUse (.common .rig1) + p.inUse (.common .rig2) < p.commonSize)
    (hblend : c = .blend → p.inUse .blend < 64) : (p.allocate c st pins).2.Within := by
  have hle := p.inUse_allocate_le c st pins
  obtain ⟨hq, hb⟩ := p.allocate_sizes c st pins
  refine ⟨fun r => ?_, ?_, ?_⟩
  · rw [hq]
    have := hle (.quota r)
    split at this
    next he => exact Nat.le_trans this (hquota r (by simpa using he))
    · exact Nat.le_trans this (h.quota r)
  · rw [Pool.commonSize, hq, hb]
    show _ ≤ p.commonSize
    have h1 := hle (.common .rig1)
    have h2 := hle (.common .rig2)
    have := h.common
    split at h1
    next he =>
      have := hcommon .rig1 (by simpa using he)
      rw [if_neg (by simp_all)] at h2
      omega
    · split at h2
      next he =>
        have := hcommon .rig2 (by simpa using he)
        omega
      · omega
  · have := hle .blend
    split at this
    next he => exact Nat.le_trans this (hblend (by simpa using he))
    · exact Nat.le_trans this h.blend

theorem Pool.Within.laneAllocate (h : p.Within) (r : Rig) (target : Bool) : (p.laneAllocate r target).2.Within := by
  have hroom : ∀ c, p.laneCharge r target = some c → (p.allocate c .filling 0).2.Within := by
    intro c hc
    refine h.allocate _ _ (fun q hq => ?_) (fun q hq => ?_) (fun hb => ?_)
    all_goals
      subst c
      unfold Pool.laneCharge Pool.commonFree at hc
      repeat' split at hc
    all_goals simp_all
    all_goals omega
  unfold Pool.laneAllocate
  split
  · exact h
  next c hc =>
    have := hroom c hc
    split <;> simp_all

theorem Pool.Within.blendAllocate (h : p.Within) : p.blendAllocate.2.Within := by
  unfold Pool.blendAllocate
  split
  next hroom =>
    have hlt : p.inUse .blend < p.blendSize := by
      simp only [Pool.blendRoom, Bool.and_eq_true] at hroom
      exact of_decide_eq_true hroom.1
    refine h.allocate _ _ (fun q hq => nomatch hq) (fun q hq => nomatch hq) (fun _ => Nat.lt_of_lt_of_le hlt ?_)
    unfold Pool.blendSize
    split <;> omega
  · exact h

end

end Sys2Proof.Machine
end

section
/-! # The rows of the clock and of the Local Port, made of single acts

A row of the Clock Monitor sets the clock, posts its notices and makes period events in RUNNING. A row of the Local Port
writes words, begins and ends reads, and lets the Memory Port take words of the part's writes. What these single acts keep, the
rows keep. -/

namespace Sys2Proof.Machine

/-! ### The Clock Monitor -/

/-- A single act of the Clock Monitor. -/
inductive State.ClockAct : State → State → Prop
  | set (s : State) (c : Clock) : State.ClockAct s (s.setClock c)
  | post (s : State) (b : NoticeBody) : State.ClockAct s (s.post none none b)
  | period (s : State) (early : List PeriodWork) (h : s.part.state = .running) : State.ClockAct s (s.periodEvent early)

/-- Acts of the Clock Monitor one after another. -/
def State.ClockRun : State → State → Prop := Reach State.ClockAct

section
variable {a s : State}

theorem State.ClockRun.refl (s : State) : s.ClockRun s := Reach.refl
theorem State.ClockRun.setClock (h : a.ClockRun s) (c : Clock) : a.ClockRun (s.setClock c) := h.tail (.set s c)
theorem State.ClockRun.post (h : a.ClockRun s) (b : NoticeBody) : a.ClockRun (s.post none none b) := h.tail (.post s b)
theorem State.ClockRun.changeClock (h : a.ClockRun s) (c : Clock) (w : ClockReason) : a.ClockRun (s.changeClock c w) :=
  (h.setClock c).post _

/-- A property that each single act keeps is kept by a run. -/
theorem State.ClockRun.preserves {P : State → Prop} (hP : ∀ {s t : State}, State.ClockAct s t → P s → P t)
    (h : a.ClockRun s) (ha : P a) : P s := by
  induction h with
  | refl => exact ha
  | tail _ ht ih => exact hP ht ih

theorem State.ClockRun.deliverBeat (h : a.ClockRun s) (n : Nat) (early : List PeriodWork) :
    a.ClockRun (s.deliverBeat n early) := by
  unfold State.deliverBeat
  split
  next hrun =>
    split
    · exact h
    · exact h.tail (.period s early hrun)
  · exact h

theorem State.ClockRun.windowClosed (h : a.ClockRun s) : a.ClockRun s.windowClosed := by
  unfold State.windowClosed
  extract_lets empty
  split
  · exact h.changeClock _ _
  · exact h.setClock _

theorem State.ClockRun.acceptEdge (h : a.ClockRun s) : a.ClockRun s.acceptEdge := by
  unfold State.acceptEdge
  extract_lets c
  split
  · exact h.changeClock _ _
  · exact h.setClock _

theorem State.ClockRun.synthesize (h : a.ClockRun s) (sb : Nat) (early : List PeriodWork) :
    a.ClockRun (s.synthesize sb early) := (h.setClock _).deliverBeat _ _

theorem State.ClockRun.closeOverdueWindow (h : a.ClockRun s) : a.ClockRun s.closeOverdueWindow := by
  unfold State.closeOverdueWindow
  split
  · exact h
  · split
    · exact h.windowClosed
    · exact h

theorem State.ClockRun.flywheelEdge (h : a.ClockRun s) (early : List PeriodWork) : a.ClockRun (s.flywheelEdge early) := by
  unfold State.flywheelEdge State.edgeAtBeat
  split
  · exact h.acceptEdge
  · split
    · exact h.setClock _
    · split
      · exact h.acceptEdge.deliverBeat _ _
      · split
        · exact (h.synthesize _ _).setClock _
        · exact (h.synthesize _ _).acceptEdge
  · exact h.setClock _

theorem State.ClockRun.loseClock (h : a.ClockRun s) (early : List PeriodWork) : a.ClockRun (s.loseClock early) :=
  (h.changeClock _ _).deliverBeat _ _

theorem State.ClockRun.clockEdge (h : a.ClockRun s) (early : List PeriodWork) : a.ClockRun (s.clockEdge early) := by
  have hclosed := h.closeOverdueWindow
  unfold State.clockEdge State.collectEdge State.collect State.lockedEdge
  dsimp only
  split
  · split
    · exact hclosed.setClock _
    · split
      · split
        · exact hclosed.changeClock _ _
        · exact hclosed.setClock _
      · exact hclosed.setClock _
  · split
    · exact hclosed
    · split
      · exact (hclosed.setClock _).deliverBeat _ _
      · exact (hclosed.loseClock _).flywheelEdge _
  · exact hclosed.flywheelEdge _

end

/-! ### The Local Port -/

/-- A single act of the Local Port or of the Memory Port behind it. -/
inductive State.PortAct : State → State → Prop
  | pass (s : State) (x : Nat) (v : Word) (en : Enables) : State.PortAct s (s.passThrough x v en)
  | go (s : State) : State.PortAct s s.goEvent
  | kick (s : State) (k : Nat) : State.PortAct s (s.kick k)
  | noticeReturn (s : State) (k : Nat) : State.PortAct s (s.noticeReturn k)
  | acts {s t : State} (h : s.Acts false true t) : State.PortAct s t
  | answer (s : State) (d : List Word) (e : Bool) : State.PortAct s (s.answerLocal d e)
  | idle (s : State) : State.PortAct s { s with burst := none }
  | read (s : State) (b : ReadBurst) (h : 0 < b.left) : State.PortAct s { s with burst := some b }
  | wait (s : State) (b : ReadBurst) (q : LocalRequest) (h : s.burst = some b) :
      State.PortAct s { s with burst := some { b with waiting := b.waiting ++ [q] } }
  | took (s : State) (n : Nat) (w : Writer) : State.PortAct s (s.took n w)

/-- Acts of the Local Port one after another. -/
def State.PortRun : State → State → Prop := Reach State.PortAct

section
variable {a s : State}

theorem State.PortRun.refl (s : State) : s.PortRun s := Reach.refl
theorem State.PortRun.act {t : State} (h : a.PortRun s) (ht : s.PortAct t) : a.PortRun t := h.tail ht

theorem State.PortRun.preserves {P : State → Prop} (hP : ∀ {s t : State}, State.PortAct s t → P s → P t)
    (h : a.PortRun s) (ha : P a) : P s := by
  induction h with
  | refl => exact ha
  | tail _ ht ih => exact hP ht ih

theorem State.PortRun.foldl {β : Type} {f : State → β → State} (hf : ∀ {t : State} (b : β), a.PortRun t → a.PortRun (f t b)) :
    ∀ (l : List β) {t : State}, a.PortRun t → a.PortRun (l.foldl f t)
  | [], _, h => h
  | b :: l, _, h => State.PortRun.foldl hf l (hf b h)

theorem State.PortRun.localWrite (h : a.PortRun s) (x : Nat) (v : Word) (en : Enables) : a.PortRun (s.localWrite x v en) := by
  have hpass := h.act (.pass s x v en)
  unfold State.localWrite State.handGo State.handKick State.handReturn State.releaseWrite
  split
  · exact h
  · exact h
  · exact h
  · exact hpass
  · split
    · exact hpass.act (.go _)
    · exact hpass
  · split
    · exact hpass.act (.kick _ _)
    · exact hpass
  · split
    · exact hpass.act (.noticeReturn _ _)
    · exact hpass
  · split
    · exact hpass.act (.acts ((State.Acts.refl _).readerRelease _ _ _))
    · exact h.act (.acts ((State.Acts.refl s).subWordRelease _))

theorem State.PortRun.localRequest (h : a.PortRun s) (q : LocalRequest) : a.PortRun (s.localRequest q) := by
  unfold State.localRequest
  split
  · unfold State.takeRequest
    split
    · exact h.localWrite _ _ _
    · exact h.act (.answer s _ _)
    · exact h.act (.read s _ (Nat.succ_pos _))
  next b hb => exact h.act (.wait s b q hb)

theorem State.PortRun.keepRead (h : a.PortRun s) (b : ReadBurst) : a.PortRun (s.keepRead b) := by
  unfold State.keepRead
  split
  · exact State.PortRun.foldl (fun q h => h.localRequest q) _ ((h.act (.idle s)).act (.answer _ _ _))
  next hleft => exact h.act (.read s b (Nat.pos_of_ne_zero hleft))

theorem State.Acts.setMapFault {fill win : Bool} (h : a.Acts fill win s) (g : Nat) (v : Bool) : a.Acts fill win (s.setMapFault g v) :=
  h.modifyRing g _

/-- The state that a read's answer leaves differs by acts of the Slot Resolver alone. -/
theorem State.Acts.readWordOf (s : State) (b : ReadBurst) (st : ReadStatus) : s.Acts false true (s.readWordOf b st).1 := by
  have hearly : s.Acts false true (s.readEarly b).1 := by
    show s.Acts false true (if b.early then s else s.countReaderEarly)
    split
    · exact .refl s
    · exact (State.Acts.refl s).countReaderEarly
  have htranslate : ∀ g k c o, s.Acts false true (s.translate b g k c o st).1 := by
    intro g k c o
    cases st with
    | firstError => exact (State.Acts.refl s).mapFault g k c
    | ok => exact (State.Acts.refl s).setMapFault g false
    | secondError => exact (State.Acts.refl s).setMapFault g false
    | entryRead => exact (State.Acts.refl s).setMapFault g false
  have hlive : s.Acts false true (s.liveWord b st).1 := by
    unfold State.liveWord
    dsimp only
    split
    · exact .refl s
    · split
      · exact .refl s
      · split
        · exact hearly
        · exact hearly
        · exact htranslate _ _ _ _
        · exact htranslate _ _ _ _
  unfold State.readWordOf
  split
  · exact .refl s
  · split
    · exact hlive
    · exact .refl s
    · exact .refl s

theorem State.PortRun.portEvents (h : a.PortRun s) (es : List PortEvent) : a.PortRun (s.portEvents es) := by
  refine State.PortRun.foldl (fun {t} e h => ?_) es h
  cases e with
  | took w n => exact h.act (.took t n w)
  | answer st =>
    show a.PortRun (match t.burst with
      | none => t
      | some b => (t.readWordOf b st).1.keepRead (t.readWordOf b st).2)
    split
    · exact h
    · exact (h.act (.acts (State.Acts.readWordOf t _ st))).keepRead _

end

end Sys2Proof.Machine
end

section
/-! # Every step keeps the order of the block: what runs alone, and the rows

`State.Helm` names what the order speaks of beside the pool and the contexts. Most operations leave it as it is; the Go, the
anchor take, the Command Unit, the Status Writer, the Notice Unit and the teardown change it, each under its condition. -/

namespace Sys2Proof.Machine

/-- What the order of the block speaks of beside the pool and the contexts. -/
structure Helm where
  capturing : Bool
  ports : PerRig (List RigRequest)
  sup : Supervisor
  writing : Bool
  dramSize : Nat

def State.helm (s : State) : Helm :=
  { capturing := s.capturing, ports := s.cache.ports, sup := s.sup, writing := s.notices.writing
    dramSize := s.lines.dramSize }

/-- The clauses of `State.Order` on the helm. -/
structure Helm.Order (h : Helm) : Prop where
  ports : h.capturing = false → h.ports = ⟨[], []⟩
  takeAlone : h.sup.take ≠ none → h.capturing = false ∧ h.sup.command.phase = .idle ∧ h.sup.teardown = none
    ∧ h.sup.status.writing = none ∧ h.writing = false ∧ h.sup.goPending = false
  takeOk : ∀ a, h.sup.take = some (.initialising a) → a.ok h.dramSize = true
  anchorOk : ∀ a, h.sup.anchor = some a → a.ok h.dramSize = true
  teardown : h.sup.teardown ≠ none → h.capturing = false ∧ h.sup.command.phase = .executing
    ∧ h.sup.command.directoryWait = .none
  result : h.sup.command.phase = .writing → h.sup.command.resultData.length = 5

section
variable {s t : State}

theorem State.order_iff : s.Order ↔ s.pool.Within ∧ (s.capturing = false → s.sup.teardown = none → s.pool.table = [])
    ∧ s.helm.Order ∧ Table.wf Context.initial s.cache.contexts :=
  ⟨fun h => ⟨⟨h.quota, h.common, h.blend⟩, h.atRest,
      ⟨h.ports, h.takeAlone, h.takeOk, h.anchorOk, h.teardown, h.result⟩, h.contexts⟩,
    fun ⟨hp, hrest, hh, hc⟩ => ⟨hp.quota, hp.common, hp.blend, hrest, hh.ports, hh.takeAlone, hh.takeOk, hh.anchorOk,
      hh.teardown, hc, hh.result⟩⟩

theorem State.Order.within (h : s.Order) : s.pool.Within := (State.order_iff.1 h).1
theorem State.Order.helm (h : s.Order) : s.helm.Order := (State.order_iff.1 h).2.2.1

/-- An operation that keeps the pool or has none of its buckets in use, and brings no state to rest. -/
theorem State.Order.of_helm (h : s.Order) (hpool : t.pool = s.pool) (hctx : t.cache.contexts = s.cache.contexts)
    (hrest : t.capturing = false → t.sup.teardown = none → s.capturing = false ∧ s.sup.teardown = none)
    (hh : t.helm.Order) : t.Order := by
  refine State.order_iff.2 ⟨hpool ▸ h.within, fun hc ht => ?_, hh, hctx ▸ h.contexts⟩
  obtain ⟨hc', ht'⟩ := hrest hc ht
  exact hpool ▸ h.atRest hc' ht'

/-- An operation that touches none of what the order speaks of. -/
theorem State.Order.congr (h : s.Order) (hpool : t.pool = s.pool) (hctx : t.cache.contexts = s.cache.contexts)
    (hh : t.helm = s.helm) : t.Order := by
  have hc : t.capturing = s.capturing := congrArg Helm.capturing hh
  have hs : t.sup = s.sup := congrArg Helm.sup hh
  refine h.of_helm hpool hctx (fun h1 h2 => ⟨hc ▸ h1, hs ▸ h2⟩) (hh ▸ h.helm)

/-! ### The acts of the blocks -/

/-- A notice posted is not yet written. -/
@[simp] theorem State.writing_post (s : State) (g : Option Nat) (r : Option Rig) (b : NoticeBody) :
    (s.post g r b).notices.writing = s.notices.writing := by
  unfold State.post NoticeUnit.post
  dsimp only
  repeat' split
  all_goals rfl

theorem State.helm_post (s : State) (g : Option Nat) (r : Option Rig) (b : NoticeBody) : (s.post g r b).helm = s.helm := by
  simp only [State.helm, State.capturing, State.writing_post, State.post_part, State.post_cache, State.post_sup,
    State.post_lines]

variable {fill win : Bool}

theorem State.Act.helm (h : State.Act fill win s t) : t.helm = s.helm := by
  cases h with
  | post g r b => exact s.helm_post g r b
  | _ => rfl

/-- Where no bucket may be put in use, a single update raises no account. -/
theorem State.Act.below (h : State.Act false win s t) : s.pool.Below t.pool := by
  cases h with
  | claim f hf => exact hf.below
  | laneBucket r target hf => cases hf
  | blendBucket hf => cases hf
  | _ => exact .refl _

theorem State.Act.within (h : State.Act fill win s t) (hw : s.pool.Within) : t.pool.Within := by
  cases h with
  | claim f hf => exact hf.below.within hw
  | laneBucket r target hf => exact hw.laneAllocate r target
  | blendBucket hf => exact hw.blendAllocate
  | _ => exact hw

theorem State.Act.contexts (h : State.Act fill win s t) (hc : Table.wf Context.initial s.cache.contexts) :
    Table.wf Context.initial t.cache.contexts := by
  cases h with
  | context k f hf => exact Table.wf_set _ _ _ hc
  | _ => exact hc

/-- Runs that put buckets in use belong to a show. -/
theorem State.Order.acts (h : s.Order) (ha : s.Acts fill win t) (hfill : fill = true → s.capturing = true) : t.Order := by
  have hhelm : t.helm = s.helm := ha.keeps State.Act.helm
  refine State.order_iff.2 ⟨ha.preserves State.Act.within h.within, fun hc ht => ?_, hhelm ▸ h.helm,
    ha.preserves State.Act.contexts h.contexts⟩
  have hc' : s.capturing = false := (congrArg Helm.capturing hhelm).symm.trans hc
  have ht' : s.sup.teardown = none := (congrArg (fun x => x.sup.teardown) hhelm).symm.trans ht
  cases fill with
  | true => rw [hfill rfl] at hc'; cases hc'
  | false =>
    have hbelow : s.pool.Below t.pool :=
      ha.preserves (P := fun u => s.pool.Below u.pool) (fun hact hb => hb.trans hact.below) (.refl _)
    exact hbelow.empty (h.atRest hc' ht')

theorem State.Order.quiet (h : s.Order) (ha : s.Acts false true t) : t.Order := h.acts ha (fun hf => nomatch hf)

/-! ### The Status Writer -/

theorem State.Order.beginStatus (h : s.Order) (htake : s.sup.take = none) (b : Nat) : (s.beginStatus b).Order :=
  h.of_helm rfl rfl (fun hc ht => ⟨hc, ht⟩)
    { ports := h.ports, takeAlone := fun hn => absurd htake hn, takeOk := h.takeOk, anchorOk := h.anchorOk
      teardown := h.teardown, result := h.result }

theorem State.Order.requestStatus (h : s.Order) : s.requestStatus.Order := by
  unfold State.requestStatus
  split
  · exact h
  · split
    · exact h.of_helm rfl rfl (fun hc ht => ⟨hc, ht⟩) ⟨h.ports, h.takeAlone, h.takeOk, h.anchorOk, h.teardown, h.result⟩
    next hbusy =>
      refine h.beginStatus ?_ _
      simp only [Bool.or_eq_true, not_or, Bool.not_eq_true, Option.isSome_eq_false_iff, Option.isNone_iff_eq_none] at hbusy
      exact hbusy.2

theorem State.Order.beginFollowUp (h : s.Order) (htake : s.sup.take = none) : s.beginFollowUp.Order := by
  unfold State.beginFollowUp
  split
  · exact h
  · split
    · exact h.beginStatus htake _
    · exact h

/-! ### Period events, beats and edges -/

theorem State.capturing_of_running (h : s.part.state = .running) : s.capturing = true := by simp [State.capturing, h]

theorem State.Order.blendDeadline (h : s.Order) : s.blendDeadline.Order := by
  unfold State.blendDeadline
  split
  · have hqueue : State.Order { s with blend := startHead (s.blend.filterMap (BlendJob.atDeadline s.part.period)) } :=
      h.congr rfl rfl rfl
    exact hqueue.quiet (State.Acts.foldl (win := true) (fun j h => h.deadlineJob j) _ (.refl _))
  · exact h

theorem State.Order.doWorks (early : List PeriodWork) : ∀ {s : State}, s.Order → (s.doWorks early).Order := by
  induction early with
  | nil => exact fun h => h
  | cons w early ih =>
    intro s h
    refine ih (s := s.doWork w) ?_
    cases w with
    | laneStale c r l => exact h.quiet ((State.Acts.refl s).laneStale c r l)
    | streamingExpiry c => exact h.quiet ((State.Acts.refl s).streamingExpiry c)
    | forcedRelease g k => exact h.quiet ((State.Acts.refl s).forcedRelease g k)
    | blendDeadline => exact h.blendDeadline
    | healthWindowClose g => exact h.quiet ((State.Acts.refl s).healthWindowClose rfl g)

theorem State.part_doWorks (s : State) (early : List PeriodWork) : (s.doWorks early).part = s.part :=
  congrArg (fun x => x.1.part) (s.still_doWorks early)

theorem State.Order.periodEvent (h : s.Order) (hrun : s.part.state = .running) (early : List PeriodWork) :
    (s.periodEvent early).Order := by
  have hworks : (s.raisePeriod.doWorks early).Order := State.Order.doWorks early (h.congr rfl rfl rfl)
  have hcap : (s.raisePeriod.doWorks early).capturing = true :=
    State.capturing_of_running (by rw [State.part_doWorks]; exact hrun)
  exact (hworks.acts ((State.Acts.refl (fill := true) (win := true) _).resolve rfl) (fun _ => hcap)).requestStatus

theorem State.Order.clockRun (h : s.Order) (hr : s.ClockRun t) : t.Order := by
  refine hr.preserves (fun hact ho => ?_) h
  cases hact with
  | set c => exact ho.congr rfl rfl rfl
  | post b => exact ho.quiet ((State.Acts.refl _).post _ _ _)
  | period early hrun => exact ho.periodEvent hrun early

theorem State.Order.advance (h : s.Order) (dt : Nat) : (s.advance dt).Order := h.congr rfl rfl rfl

theorem State.Order.pulse (h : s.Order) (dt : Nat) (w : Bool) : (s.pulse dt w).Order := by
  unfold State.pulse
  split
  · exact h.advance dt
  · exact h.congr rfl rfl rfl

theorem State.Order.startShow (h : s.Order) (ha : s.part.state = .armed) : s.startShow.Order := by
  have hrunning : s.startRunning.Order := by
    refine h.congr rfl rfl ?_
    simp [State.helm, State.capturing, State.startRunning, ha]
  have hcap : s.startRunning.capturing = true := State.capturing_of_running rfl
  have hresolved : s.startRunning.Acts true true (s.startRunning.beginWindows.resolveMany (s.resolver.resolveLead + 1)) :=
    State.Acts.resolveMany rfl _ ((State.Acts.refl _).beginWindows rfl)
  exact (hrunning.acts (hresolved.post _ _ _) (fun _ => hcap)).requestStatus

theorem State.Order.syncEdge (h : s.Order) : s.syncEdge.Order := by
  unfold State.syncEdge
  split
  next ha =>
    split
    · exact h.startShow ha
    · exact h.quiet ((State.Acts.refl _).post _ _ _)
  · exact h

/-! ### Rig ports, loads and write-backs -/

/-- Outside a show the ports hold no request, so a port that goes on finds nothing (R49). -/
theorem State.serve_empty (s : State) (r : Rig) (hports : s.cache.ports = ⟨[], []⟩) : s.serve r (s.cache.ports.get r) = s := by
  have hget : s.cache.ports.get r = [] := by rw [hports]; cases r <;> rfl
  rw [hget]
  exact State.setPort_same s r [] hget

theorem State.Order.setPort (h : s.Order) (r : Rig) (q : List RigRequest) (hq : s.capturing = false → q = []) :
    (s.setPort r q).Order := by
  refine h.of_helm rfl rfl (fun hc ht => ⟨hc, ht⟩) ⟨fun hc => ?_, h.takeAlone, h.takeOk, h.anchorOk, h.teardown, h.result⟩
  show s.cache.ports.set r q = _
  rw [h.ports hc, hq hc]
  cases r <;> rfl

theorem Cache.contexts_sendRead (x : Cache) (c : Nat) : (x.sendRead c).contexts = x.contexts := by
  unfold Cache.sendRead
  split <;> rfl

theorem Cache.ports_sendRead (x : Cache) (c : Nat) : (x.sendRead c).ports = x.ports := by
  unfold Cache.sendRead
  split <;> rfl

theorem Cache.askLoad_keeps (x : Cache) (c : Nat) (r : Rig) (l : Nat) :
    (x.askLoad c r l).contexts = x.contexts ∧ (x.askLoad c r l).ports = x.ports := by
  unfold Cache.askLoad Cache.openRequest
  split
  · exact ⟨rfl, rfl⟩
  · dsimp only
    split
    · exact ⟨rfl, rfl⟩
    · rw [Cache.contexts_sendRead, Cache.ports_sendRead]
      exact ⟨rfl, rfl⟩

/-- A cache that keeps its contexts and ports. -/
theorem State.Order.withCache (h : s.Order) {x : Cache} (hctx : x.contexts = s.cache.contexts) (hp : x.ports = s.cache.ports) :
    State.Order { s with cache := x } := by
  refine h.congr rfl hctx ?_
  simp only [State.helm, State.capturing, hp]

theorem State.Order.serve (r : Rig) : ∀ (qs : List RigRequest) {s : State}, s.Order → s.capturing = true → (s.serve r qs).Order
  | [], _, h, hc => h.setPort r [] (fun hn => absurd hc (by simp [hn]))
  | .read x n :: qs, _, h, hc => State.Order.serve r qs (h.congr rfl rfl rfl) hc
  | .write w :: qs, s, h, hc => by
    unfold State.serve
    split
    · exact State.Order.serve r qs h hc
    · split
      · rename_i k _
        have hacts : s.Acts true true (s.handleLaneWrite k r w) := (State.Acts.refl s).handleLaneWrite rfl k r w
        have hcap : (s.handleLaneWrite k r w).capturing = true := by
          rw [State.capturing, hacts.part_eq]
          exact hc
        exact State.Order.serve r qs (h.acts hacts (fun _ => hc)) hcap
      · have hheld := h.setPort r (.write w :: qs) (fun hn => absurd hc (by simp [hn]))
        obtain ⟨hctx, hp⟩ := Cache.askLoad_keeps (s.setPort r (.write w :: qs)).cache _ r _
        exact hheld.withCache hctx hp

theorem State.Order.rigWrite (h : s.Order) (r : Rig) (w : RigWrite) : (s.rigWrite r w).Order := by
  unfold State.rigWrite State.rigRequest
  split
  next hc =>
    split
    · exact State.Order.serve r _ h hc
    · exact h.setPort r _ (fun hn => absurd hc (by simp [hn]))
  · exact h

theorem State.Order.rigRead (h : s.Order) (r : Rig) (x n : Nat) : (s.rigRequest r (.read x n)).Order := by
  unfold State.rigRequest
  split
  · exact (h.congr (t := s.answerRig r x n) rfl rfl rfl).setPort r [] (fun _ => rfl)
  next hbusy =>
    refine h.setPort r _ (fun hn => absurd ?_ hbusy)
    rw [h.ports hn]
    cases r <;> rfl

theorem State.Order.resumePort (h : s.Order) (q : LoadRequest) (r : Rig) : (s.resumePort q r).Order := by
  unfold State.resumePort
  split
  · cases hc : s.capturing with
    | true => exact State.Order.serve r _ h hc
    | false => rw [s.serve_empty r (h.ports hc)]; exact h
  · exact h

theorem State.Order.resumePorts (h : s.Order) (q : LoadRequest) : (s.resumePorts q).Order := (h.resumePort q .rig1).resumePort q .rig2

/-- Only the count of stray writes may change. -/
theorem State.countStray_only (s : State) (r : Rig) :
    ∃ x, s.countStray r = { s with cache := { s.cache with strayWrites := x } } := by
  unfold State.countStray
  split
  · split
    · exact ⟨_, rfl⟩
    · exact ⟨s.cache.strayWrites, rfl⟩
  · exact ⟨s.cache.strayWrites, rfl⟩

theorem State.Order.countStray (h : s.Order) (r : Rig) : (s.countStray r).Order := by
  obtain ⟨x, hx⟩ := s.countStray_only r
  rw [hx]
  exact h.withCache rfl rfl

theorem State.Order.dropHeld (h : s.Order) (q : LoadRequest) (u : Bool) (r : Rig) : (s.dropHeld q u r).Order := by
  have hcounted : (if u then s.countStray r else s).Order := by
    split
    · exact h.countStray r
    · exact h
  unfold State.dropHeld
  split
  · refine hcounted.setPort r _ (fun hc => ?_)
    rw [hcounted.ports hc]
    cases r <;> rfl
  · exact h

theorem State.Order.abandonLoad (h : s.Order) (q : LoadRequest) (u : Bool) : (s.abandonLoad q u).Order :=
  (((h.withCache (x := s.cache.closeRequest q.channel) rfl rfl).dropHeld q u .rig1).dropHeld q u .rig2).resumePorts q

theorem State.Order.takeSends : ∀ (sends : List CacheSend) {s : State}, s.Order → (s.takeSends sends).Order
  | [], _, h => h.withCache rfl rfl
  | .cached _ _ :: rest, _, h => State.Order.takeSends rest (h.congr rfl rfl rfl)
  | .read _ :: rest, _, h => State.Order.takeSends rest h
  | .writeback _ :: _, _, h => h.withCache rfl rfl

theorem Cache.wf_modifyContext {x : Cache} (h : Table.wf Context.initial x.contexts) (k : Nat) (f : Context → Context) :
    Table.wf Context.initial (x.modifyContext k f).contexts := Table.wf_set _ _ _ h

theorem Cache.wf_filled {x : Cache} (h : Table.wf Context.initial x.contexts) (q : LoadRequest) (k : Nat) (d : DirEntry) (n : Nat) :
    Table.wf Context.initial (x.filled q k d n).contexts :=
  Cache.wf_modifyContext h k (fun _ => Context.loaded q.channel d n)

theorem Cache.wf_evict {x : Cache} (h : Table.wf Context.initial x.contexts) (k c : Nat) (d : DirEntry) :
    Table.wf Context.initial (x.evict k c d).contexts :=
  Cache.wf_modifyContext (x := x.setMapEntry (x.context k).channel none) h k (fun y => { y with residence := .evicting })

/-- A cache that keeps its ports and lists its contexts in canonical form. -/
theorem State.Order.withContexts (h : s.Order) {x : Cache} (hctx : Table.wf Context.initial x.contexts)
    (hp : x.ports = s.cache.ports) : State.Order { s with cache := x } := by
  have hh : State.helm { s with cache := x } = s.helm := by simp only [State.helm, State.capturing, hp]
  exact State.order_iff.2 ⟨h.within, h.atRest, hh ▸ h.helm, hctx⟩

theorem State.Order.completeLoad (h : s.Order) (q : LoadRequest) (k : Nat) (d : DirEntry) : (s.completeLoad q k d).Order :=
  (State.Order.takeSends _ (h.withContexts (x := s.cache.filled q k d s.part.period)
    (Cache.wf_filled h.contexts q k d s.part.period) rfl)).resumePorts q

theorem State.Order.loadReadDone (h : s.Order) (q : LoadRequest) (e : Bool) : (s.loadReadDone q e).Order := by
  unfold State.loadReadDone State.stage2 State.loadReadError
  split
  · exact (h.quiet ((State.Acts.refl s).post _ _ _)).abandonLoad q false
  · split
    · split
      · exact (h.withCache (x := { s.cache with exhaustReported := false }) rfl rfl).completeLoad q _ _
      · split
        · exact h.withContexts
            (x := { s.cache.evict _ q.channel (s.dirEntry q.channel) with exhaustReported := false })
            (Cache.wf_evict h.contexts _ q.channel (s.dirEntry q.channel)) rfl
        · refine State.Order.abandonLoad ?_ q false
          unfold State.reportContextExhausted
          split
          · exact h
          · exact (h.quiet ((State.Acts.refl s).post _ _ _)).withCache rfl rfl
    · exact h.abandonLoad q true

/-- The write-back of channel `d` is taken, and what waited for it reads. -/
theorem State.Order.written (h : s.Order) (d : Nat) : (s.writebackTaken.writebackDone d).Order := by
  have htaken : s.writebackTaken.Order := h.congr rfl rfl rfl
  have hcache : ∀ x : Cache, (x.startRead d).contexts = x.contexts ∧ (x.startRead d).ports = x.ports := by
    intro x
    unfold Cache.startRead
    dsimp only
    split
    · rw [Cache.contexts_sendRead, Cache.ports_sendRead]
      exact ⟨rfl, rfl⟩
    · exact ⟨rfl, rfl⟩
  obtain ⟨hctx, hp⟩ := hcache s.writebackTaken.cache
  refine htaken.of_helm rfl hctx (fun hc ht => ⟨hc, ht⟩)
    ⟨fun hc => hp.trans (htaken.ports hc), htaken.takeAlone, htaken.takeOk, htaken.anchorOk, fun ht => ?_, htaken.result⟩
  obtain ⟨hc, hphase, hwait⟩ := htaken.teardown ht
  refine ⟨hc, hphase, ?_⟩
  show (if s.writebackTaken.sup.command.directoryWait = .writeback ∧ _ then _ else _) = _
  rw [hwait]
  rfl

theorem State.Order.evictionEnds (h : s.Order) (k : Nat) : (s.evictionEnds k).Order := by
  have hstart := h.written (s.context k).channel
  unfold State.evictionEnds
  dsimp only
  split
  · exact (State.Order.takeSends _ hstart).withContexts
      (Cache.wf_modifyContext (State.Order.takeSends _ hstart).contexts k _) rfl
  · exact hstart.completeLoad _ _ _

end

end Sys2Proof.Machine
end

section
/-! # Every step keeps the order of the block: the teardown, the jobs and the command ring -/

namespace Sys2Proof.Machine

section
variable {s t : State}

/-! ### The teardown -/

/-- An act of a teardown under way, which raises no account. -/
theorem State.Order.tearing (h : s.Order) (ht : s.sup.teardown ≠ none) (hpool : s.pool.Below t.pool)
    (hctx : Table.wf Context.initial t.cache.contexts) {x : Teardown}
    (hh : t.helm = { s.helm with sup := { s.sup with teardown := some x } }) : t.Order := by
  obtain ⟨hcap, hphase, hwait⟩ := h.teardown ht
  have hsup : t.sup = { s.sup with teardown := some x } := congrArg Helm.sup hh
  refine State.order_iff.2 ⟨hpool.within h.within, fun _ hn => ?_, ?_, hctx⟩
  · rw [hsup] at hn
    nomatch hn
  · rw [hh]
    exact ⟨h.ports, fun htake => absurd (h.takeAlone htake).2.2.1 ht, h.takeOk, h.anchorOk, fun _ => ⟨hcap, hphase, hwait⟩, h.result⟩

theorem State.Order.setTeardown (h : s.Order) (ht : s.sup.teardown ≠ none) (x : Teardown) :
    (s.setTeardown (some x)).Order := h.tearing ht (.refl _) h.contexts rfl

theorem State.Order.invalidateContexts (h : s.Order) (ht : s.sup.teardown ≠ none) : s.invalidateContexts.Order := by
  unfold State.invalidateContexts
  split
  · exact h.tearing ht (.refl _) (Table.wf_nil _) rfl
  · exact h

theorem State.helm_dropShow (s : State) : s.dropShow.helm = s.helm := by
  have hpart : s.dropShow.part = s.part := by rw [State.dropShow_eq]
  have hports : s.dropShow.cache.ports = s.cache.ports := by rw [State.dropShow_eq]
  have hlines : s.dropShow.lines = s.lines := by rw [State.dropShow_eq]
  simp only [State.helm, State.capturing, hpart, hports, hlines, State.sup_dropShow, State.notices_dropShow]

theorem State.contexts_dropShow (s : State) :
    s.dropShow.cache.contexts = Table.map Context.initial Context.dropped s.cache.contexts := by
  rw [State.dropShow_eq]

theorem State.pool_dropShow (s : State) : s.dropShow.pool = s.pool.dropShow s.cache.contexts s.resolver.rings := by
  rw [State.dropShow]

theorem State.Order.dropShow (h : s.Order) (ht : s.sup.teardown ≠ none) : s.dropShow.Order := by
  obtain ⟨x, hx⟩ := Option.ne_none_iff_exists'.1 ht
  refine h.tearing ht (x := x) ?_ ?_ ?_
  · rw [State.pool_dropShow]
    exact ((Pool.Claims.refl s.pool).dropShow _ _).below
  · rw [State.contexts_dropShow]
    exact Table.wf_map _ _ _
  · rw [State.helm_dropShow, ← hx]
    rfl

theorem State.Order.advanceTeardown (h : s.Order) : s.advanceTeardown.Order := by
  unfold State.advanceTeardown
  split
  · exact h
  next hx =>
    have ht : s.sup.teardown ≠ none := by rw [hx]; nofun
    split
    · exact ((h.dropShow ht).setTeardown (by rwa [State.sup_dropShow]) _).invalidateContexts nofun
    · exact h
  next hx => exact h.invalidateContexts (by rw [hx]; nofun)
  · exact h

/-! ### Jobs that end -/

theorem State.Order.claim (h : s.Order) {f : Pool → Pool} (hf : s.pool.Claims (f s.pool)) : (s.claim f).Order :=
  h.quiet ((State.Acts.refl s).claim hf)

theorem State.Order.dropHead (h : s.Order) : s.dropHead.Order := h.congr rfl rfl rfl

theorem State.Order.landOutput (h : s.Order) (j : BlendJob) : (s.landOutput j).Order := h.congr rfl rfl rfl

theorem State.Order.flushHead (h : s.Order) (j : BlendJob) : (s.flushHead j).Order :=
  (h.dropHead.claim ((Pool.Claims.refl _).flushJob j)).advanceTeardown

theorem State.Order.drainHead (h : s.Order) (j : BlendJob) : (s.drainHead j).Order :=
  (h.dropHead.claim ((Pool.Claims.refl _).drainJob j)).advanceTeardown

theorem State.Order.completeHead (h : s.Order) (j : BlendJob) : (s.completeHead j).Order := by
  unfold State.completeHead
  split
  · exact (h.landOutput j).flushHead j
  · exact ((h.landOutput j).claim ((Pool.Claims.refl _).completeJob j)).dropHead.quiet ((State.Acts.refl _).jobCompleted _ _)

theorem State.Order.readError (h : s.Order) (j : BlendJob) (i : BlendInput) : (s.readError j i).Order := by
  unfold State.readError State.failJob
  split
  · split
    · exact h.flushHead j
    · exact (h.dropHead.claim ((Pool.Claims.refl _).cancelJob j)).quiet
        (((State.Acts.refl _).jobCancelled _ _ _ _).post _ _ _)
  · split
    · exact h.drainHead j
    · exact h

/-! ### The command ring (R171) -/

/-- The Command Unit executes an entry that nothing holds. -/
theorem State.executing_iff : s.executing = true ↔
    s.sup.command.phase = .executing ∧ s.sup.command.directoryWait = .none ∧ s.sup.teardown = none := by
  simp [State.executing, and_assoc]

theorem length_resultWords (d : List Word) : (resultWords d).length = 5 := by
  unfold resultWords
  rw [List.length_take, List.length_append, List.length_replicate]
  omega

/-- An anchor take keeps every command out of the hand. -/
theorem State.Order.take_none (h : s.Order) (hp : s.sup.command.phase = .executing) : s.sup.take = none := by
  refine Classical.byContradiction fun htake => ?_
  exact nomatch hp.symm.trans (h.takeAlone htake).2.1

/-- The Command Unit changes while it executes: what it makes of a result has five words. -/
theorem State.Order.modifyCommand (h : s.Order) (hp : s.sup.command.phase = .executing) (ht : s.sup.teardown = none)
    {f : CommandUnit → CommandUnit}
    (hf : (f s.sup.command).phase = .writing → (f s.sup.command).resultData.length = 5) : (s.modifyCommand f).Order :=
  h.of_helm rfl rfl (fun hc ht => ⟨hc, ht⟩)
    ⟨h.ports, fun htake => absurd (h.take_none hp) htake, h.takeOk, h.anchorOk, fun hn => absurd ht hn, hf⟩

theorem State.Order.answerCommand (h : s.Order) (hp : s.sup.command.phase = .executing) (ht : s.sup.teardown = none)
    (r : ResultCode) (d : List Word) : (s.answerCommand r d).Order :=
  h.modifyCommand hp ht (fun _ => length_resultWords d)

theorem State.Order.withMem (h : s.Order) (m : Memory) : State.Order { s with mem := m } := h.congr rfl rfl rfl

theorem State.Order.writeDirEntry (h : s.Order) (c : Nat) (d : DirEntry) : (s.writeDirEntry c d).Order := h.withMem _

theorem State.Order.configure (h : s.Order) (hp : s.part.state = .standby) (ht : s.sup.teardown = none)
    (b : BridgeSettings) : (s.configure b).Order := by
  have hc : s.capturing = false := by simp [State.capturing, hp]
  have hempty := h.atRest hc ht
  exact State.order_iff.2 ⟨.of_empty hempty, fun _ _ => hempty,
    ⟨h.ports, h.takeAlone, h.takeOk, h.anchorOk, h.teardown, h.result⟩, h.contexts⟩

theorem State.Order.onArm (h : s.Order) (hp : s.part.state = .standby) (htake : s.sup.take = none)
    (ht : s.sup.teardown = none) (b : Nat) : (s.onArm b).Order := by
  have hc : s.capturing = false := by simp [State.capturing, hp]
  have hempty := h.atRest hc ht
  exact State.order_iff.2 ⟨.of_empty hempty, fun _ _ => hempty,
    ⟨fun _ => h.ports hc, fun hn => absurd htake hn, h.takeOk, h.anchorOk, fun hn => absurd ht hn, h.result⟩, h.contexts⟩

theorem State.pool_torn (s : State) : s.torn.pool
    = (s.blend.filter (fun j => j.phase == .queued)).foldl (fun q j => q.flushJob j) s.pool := by
  unfold State.torn
  rw [State.dropHeldWrites_eq]
  rfl

theorem State.Order.torn (h : s.Order) (hp : s.sup.command.phase = .executing)
    (hw : s.sup.command.directoryWait = .none) : s.torn.Order := by
  have hpool : s.torn.pool.Within := by
    rw [State.pool_torn]
    exact (Pool.Claims.foldl (fun q j => (Pool.Claims.refl q).flushJob j) _ (.refl s.pool)).below.within h.within
  rw [State.torn_eq]
  refine State.order_iff.2 ⟨hpool, ?_, ⟨fun _ => rfl, fun htake => absurd (h.take_none hp) htake, h.takeOk, h.anchorOk,
    fun _ => ⟨rfl, hp, hw⟩, h.result⟩, h.contexts⟩
  exact fun _ => nofun

theorem State.Order.beginTeardown (h : s.Order) (hp : s.sup.command.phase = .executing)
    (hw : s.sup.command.directoryWait = .none) : s.beginTeardown.Order := (h.torn hp hw).advanceTeardown

theorem State.Order.commandAct {c : Instr} (h : s.Order) (he : s.executing = true) (hact : s.CommandAct c t) : t.Order := by
  obtain ⟨hp, hw, ht⟩ := State.executing_iff.1 he
  cases hact with
  | acts hacts hm r d =>
    have hsup := congrArg Helm.sup (hacts.keeps (m := State.helm) State.Act.helm)
    exact (h.acts hacts nofun).answerCommand (by rw [← hp]; exact congrArg (fun u => u.command.phase) hsup)
      ((congrArg Supervisor.teardown hsup).trans ht) r d
  | await w => exact h.modifyCommand hp ht (fun hwriting => nomatch hp.symm.trans hwriting)
  | configure hs b d => exact (h.configure hs ht b).answerCommand hp ht _ _
  | undefine hs ch => exact (h.writeDirEntry ch DirEntry.undefined).answerCommand hp ht _ _
  | arm hs b d =>
    have hacts := State.Acts.arm (s := s) (b := b)
    have hsup := congrArg Helm.sup (hacts.keeps (m := State.helm) State.Act.helm)
    exact ((h.onArm hs (h.take_none hp) ht b).quiet hacts).answerCommand
      (by rw [← hp]; exact congrArg (fun u => u.command.phase) hsup) ((congrArg Supervisor.teardown hsup).trans ht) _ _
  | teardown hc => exact h.beginTeardown hp hw
  | lock v =>
    have hlocked : (s.modifySup (fun u => { u with locked := v })).Order := h.of_helm rfl rfl (fun hc ht => ⟨hc, ht⟩)
      ⟨h.ports, h.takeAlone, h.takeOk, h.anchorOk, h.teardown, h.result⟩
    exact hlocked.answerCommand hp ht _ _

theorem State.Order.finishDefineChannel (h : s.Order) (hp : s.sup.command.phase = .executing)
    (ht : s.sup.teardown = none) : s.finishDefineChannel.Order := by
  have hwritten := h.writeDirEntry s.cmdChannel ((s.dirEntry s.cmdChannel).redefined s.cmdGroup s.cmdKind)
  unfold State.finishDefineChannel
  exact hwritten.answerCommand hp ht _ _

theorem State.Order.commandDirectoryRead (h : s.Order) (hp : s.sup.command.phase = .executing)
    (hw : s.sup.command.directoryWait = .read) (e : Bool) : (s.commandDirectoryRead e).Order := by
  have ht : s.sup.teardown = none := by
    refine Classical.byContradiction fun hn => ?_
    exact nomatch hw.symm.trans (h.teardown hn).2.2
  unfold State.commandDirectoryRead
  split
  · exact h.answerCommand hp ht _ _
  · split
    · exact h.finishDefineChannel hp ht
    · exact h.answerCommand hp ht _ _

/-- The teardown ends with an empty pool and a result of five words. -/
theorem State.Order.endTeardown (h : s.Order) (ht : s.sup.teardown ≠ none) (ws : List (Nat × List Word)) :
    (s.endTeardown ws).Order := by
  obtain ⟨hc, hp, hw⟩ := h.teardown ht
  have htake : s.sup.take = none := h.take_none hp
  have hrebuilt : ((State.setTeardown { s with mem := takeWrites s.mem ws } none).claim Pool.rebuild).Order :=
    State.order_iff.2 ⟨.of_empty rfl, fun _ _ => rfl,
      ⟨h.ports, fun hn => absurd htake hn, h.takeOk, h.anchorOk, fun hn => absurd rfl hn, h.result⟩, h.contexts⟩
  have hacts : ((State.setTeardown { s with mem := takeWrites s.mem ws } none).claim Pool.rebuild).Acts false true
      ((s.definedGroups.foldl State.endGroup
        ((State.setTeardown { s with mem := takeWrites s.mem ws } none).claim Pool.rebuild)).setTallies) :=
    (State.Acts.foldl (f := State.endGroup) (fun _ h => (h.modifyGroup _ _).setHealth rfl _ _) _ (.refl _)).setTallies
  have hsup := congrArg Helm.sup (hacts.keeps (m := State.helm) State.Act.helm)
  exact (hrebuilt.quiet hacts).answerCommand (by rw [← hp]; exact congrArg (fun u => u.command.phase) hsup)
    (congrArg Supervisor.teardown hsup) _ _

end

end Sys2Proof.Machine
end

section
/-! # Every step keeps the order of the block: Go, the anchor take, the units behind the Local Port -/

namespace Sys2Proof.Machine

section
variable {s t : State}

theorem State.Order.ite (h : s.Order) (p : Prop) [Decidable p] (ht : t.Order) : (if p then t else s).Order := by
  split
  · exact ht
  · exact h

theorem State.Order.unlessHeld (h : s.Order) (ht : t.Order) : (s.unlessHeld t).Order := by
  unfold State.unlessHeld
  split
  · exact h
  · exact ht

/-! ### The Supervisor Interface (R11, R165 to R170) -/

/-- The Supervisor Interface changes and the teardown stays. -/
theorem State.Order.withSup (h : s.Order) {x : Supervisor} (ht : x.teardown = s.sup.teardown)
    (hh : Helm.Order { s.helm with sup := x }) : State.Order { s with sup := x } :=
  h.of_helm rfl rfl (fun hc hn => ⟨hc, ht.symm.trans hn⟩) hh

theorem State.not_takeBlocked_iff : s.takeBlocked = false ↔ s.sup.command.phase = .idle ∧ s.sup.teardown = none
    ∧ s.sup.status.writing = none ∧ s.notices.writing = false := by
  simp [State.takeBlocked, and_assoc]

theorem State.Order.startTake (h : s.Order) (hc : s.capturing = false) (hb : s.takeBlocked = false) : s.startTake.Order := by
  obtain ⟨hp, ht, hs, hw⟩ := State.not_takeBlocked_iff.1 hb
  exact h.withSup (x := { s.sup with take := some .reading, goPending := false }) rfl
    ⟨h.ports, fun _ => ⟨hc, hp, ht, hs, hw, rfl⟩, nofun, h.anchorOk, h.teardown, h.result⟩

theorem State.capturing_false (h : ¬(s.part.state = .armed ∨ s.part.state = .running)) : s.capturing = false :=
  Bool.eq_false_iff.2 fun hc => h (State.capturing_iff.1 hc)

theorem State.Order.goEvent (h : s.Order) : s.goEvent.Order := by
  unfold State.goEvent
  split
  · exact h.withMem _
  next hc =>
    split
    · exact h
    next hidle =>
      split
      · refine h.withSup (x := { s.sup with goPending := true }) rfl
          ⟨h.ports, fun htake => ?_, h.takeOk, h.anchorOk, h.teardown, h.result⟩
        exact absurd (Or.inl (Option.isSome_iff_ne_none.2 htake)) hidle
      next hb => exact h.startTake (State.capturing_false hc) (Bool.eq_false_iff.2 hb)

/-- A Go in wait is not yet an anchor take. -/
theorem State.Order.take_of_pending (h : s.Order) (hg : s.sup.goPending = true) : s.sup.take = none := by
  refine Classical.byContradiction fun htake => ?_
  obtain ⟨-, -, -, -, -, hn⟩ := h.takeAlone htake
  exact nomatch hg.symm.trans hn

/-- The Command Unit changes outside takes and teardowns. -/
theorem State.Order.modifyIdle (h : s.Order) (htake : s.sup.take = none) (ht : s.sup.teardown = none)
    {f : CommandUnit → CommandUnit}
    (hf : (f s.sup.command).phase = .writing → (f s.sup.command).resultData.length = 5) : (s.modifyCommand f).Order :=
  h.withSup rfl ⟨h.ports, fun hn => absurd htake hn, h.takeOk, h.anchorOk, fun hn => absurd ht hn, hf⟩

theorem CommandUnit.resumed_writing {u : CommandUnit} (h : u.resumed.phase = .writing) : u.resumed = u := by
  unfold CommandUnit.resumed at h ⊢
  split at h
  · nomatch h
  next hn => exact if_neg hn

theorem State.Order.resume (h : s.Order) (htake : s.sup.take = none) (ht : s.sup.teardown = none) :
    (s.modifyCommand CommandUnit.resumed).Order :=
  h.modifyIdle htake ht fun hw => by
    have hsame := CommandUnit.resumed_writing hw
    rw [hsame] at hw ⊢
    exact h.result hw

theorem State.Order.deferredGo (h : s.Order) (hg : s.sup.goPending = true) (hb : s.takeBlocked = false) : s.deferredGo.Order := by
  have htake := h.take_of_pending hg
  obtain ⟨-, ht, -, -⟩ := State.not_takeBlocked_iff.1 hb
  unfold State.deferredGo
  split
  · have hdropped : (s.modifySup (fun u => { u with goPending := false })).Order :=
      h.withSup (x := { s.sup with goPending := false }) rfl
        ⟨h.ports, fun hn => absurd htake hn, h.takeOk, h.anchorOk, h.teardown, h.result⟩
    exact State.Order.resume (hdropped.withMem _) htake ht
  next hc => exact h.startTake (State.capturing_false hc) hb

theorem State.Order.failTake (h : s.Order) (htake : s.sup.take ≠ none) : s.failTake.Order := by
  obtain ⟨-, -, ht, -⟩ := h.takeAlone htake
  have hdropped : ((s.writeAnchorResult .badAnchor).modifySup (fun u => { u with take := none })).Order :=
    (h.withMem _).withSup (x := { s.sup with take := none }) rfl
      ⟨h.ports, fun hn => absurd rfl hn, nofun, h.anchorOk, h.teardown, h.result⟩
  exact (hdropped.resume rfl ht).beginFollowUp rfl

theorem State.Order.initialise (h : s.Order) (htake : s.sup.take ≠ none) {a : Anchor} (ha : a.ok s.lines.dramSize = true) :
    (s.initialise a).Order := by
  refine State.order_iff.2 ⟨.of_empty rfl, fun _ _ => rfl, ⟨fun _ => rfl, fun _ => ?_, ?_, h.anchorOk, h.teardown, h.result⟩,
    Table.wf_nil _⟩
  · obtain ⟨hc, hp, ht, hs, hw, hg⟩ := h.takeAlone htake
    exact ⟨hc, hp, ht, hs, hw, hg⟩
  · rintro b hb
    obtain rfl : a = b := by injection hb with hb; injection hb
    exact ha

theorem State.Order.anchorRead (h : s.Order) (htake : s.sup.take = some .reading) (e : Bool) : (s.anchorRead e).Order := by
  have hsome : s.sup.take ≠ none := by rw [htake]; nofun
  unfold State.anchorRead
  split
  · exact h.failTake hsome
  next hok =>
    refine h.initialise hsome ?_
    simp only [Bool.or_eq_true, not_or, Bool.not_eq_true', Bool.not_eq_false] at hok
    exact hok.2

theorem State.Order.endTake (h : s.Order) {a : Anchor} (htake : s.sup.take = some (.initialising a)) : (s.endTake a).Order := by
  obtain ⟨hc, -, ht, -⟩ := h.takeAlone (by rw [htake]; nofun)
  unfold State.endTake
  refine State.Order.requestStatus ?_
  generalize writeWord (landTake s.mem a s.landed 128 6144 131072) 4 (word ResultCode.done.code) = m
  refine State.order_iff.2 ⟨h.within, fun _ _ => h.atRest hc ht, ⟨fun _ => h.ports hc, fun hn => absurd rfl hn, nofun, ?_,
    fun hn => absurd ht hn, nofun⟩, h.contexts⟩
  rintro b hb
  obtain rfl : a = b := by injection hb
  exact h.takeOk a htake

theorem State.Order.postRingFault (h : s.Order) (why : RingReason) (k : Nat) : (s.postRingFault why k).Order :=
  h.quiet ((State.Acts.refl s).post _ _ _)

theorem State.Order.kick (h : s.Order) (k : Nat) : (s.kick k).Order := by
  unfold State.kick
  split
  · exact h.postRingFault _ _
  · split
    · exact h
    · rw [State.modifyCommand, CommandUnit.kicked]
      split
      next hf =>
        obtain ⟨hidle, hmay⟩ := hf
        have htake : s.sup.take = none := by
          simp only [Bool.and_eq_true, Option.isNone_iff_eq_none] at hmay
          exact hmay.1
        refine h.withSup rfl ⟨h.ports, fun hn => absurd htake hn, h.takeOk, h.anchorOk, fun hn => ?_, nofun⟩
        exact nomatch hidle.symm.trans (h.teardown hn).2.1
      · exact h.withSup rfl ⟨h.ports, h.takeAlone, h.takeOk, h.anchorOk, h.teardown, h.result⟩

/-- Outside the phases IDLE and EXECUTING neither a take nor a teardown runs. -/
theorem State.Order.unit_alone (h : s.Order) (hi : s.sup.command.phase ≠ .idle) (he : s.sup.command.phase ≠ .executing) :
    s.sup.take = none ∧ s.sup.teardown = none :=
  ⟨Classical.byContradiction fun hn => hi (h.takeAlone hn).2.1, Classical.byContradiction fun hn => he (h.teardown hn).2.1⟩

theorem State.sup_post (s : State) (g : Option Nat) (r : Option Rig) (b : NoticeBody) : (s.post g r b).sup = s.sup :=
  congrArg Helm.sup (s.helm_post g r b)

theorem State.Order.stopFetch (h : s.Order) (hf : s.sup.command.phase = .fetching) (why : RingReason) : (s.stopFetch why).Order := by
  obtain ⟨htake, ht⟩ := h.unit_alone (by rw [hf]; nofun) (by rw [hf]; nofun)
  exact (h.postRingFault why _).modifyIdle ((congrArg Supervisor.take (s.sup_post _ _ _)).trans htake)
    ((congrArg Supervisor.teardown (s.sup_post _ _ _)).trans ht) nofun

theorem State.Order.fetchDone (h : s.Order) (hf : s.sup.command.phase = .fetching) (e : Bool) : (s.fetchDone e).Order := by
  obtain ⟨htake, ht⟩ := h.unit_alone (by rw [hf]; nofun) (by rw [hf]; nofun)
  unfold State.fetchDone
  split
  · exact h.stopFetch hf _
  · split
    · exact h.modifyIdle htake ht nofun
    · exact h.stopFetch hf _

theorem CommandUnit.finished_phase (u : CommandUnit) (n : Nat) (g : Bool) : (u.finished n g).phase ≠ .writing := by
  unfold CommandUnit.finished
  split
  · nofun
  · dsimp only
    split <;> nofun

theorem State.Order.resultWritten (h : s.Order) (hw : s.sup.command.phase = .writing) : s.resultWritten.Order := by
  obtain ⟨htake, ht⟩ := h.unit_alone (by rw [hw]; nofun) (by rw [hw]; nofun)
  unfold State.resultWritten
  dsimp only
  generalize hu : ({ s with mem := takeWrites s.mem s.resultInFlight, landed := { s.landed with result := 0 } } : State) = u
  have hlanded : u.Order := by
    rw [← hu]
    exact h.congr rfl rfl rfl
  have hsup : u.sup = s.sup := by rw [← hu]
  have hposted : u.postCommandDone.Order ∧ u.postCommandDone.sup = u.sup := by
    unfold State.postCommandDone
    dsimp only
    split
    · exact ⟨hlanded.quiet ((State.Acts.refl u).post _ _ _), u.sup_post _ _ _⟩
    · exact ⟨hlanded, rfl⟩
  have hkept : u.postCommandDone.requestStatus.sup.take = none ∧ u.postCommandDone.requestStatus.sup.teardown = none := by
    rw [State.requestStatus_eq, hposted.2, hsup]
    exact ⟨htake, ht⟩
  exact hposted.1.requestStatus.modifyIdle hkept.1 hkept.2 (fun hn => absurd hn (CommandUnit.finished_phase _ _ _))

end

end Sys2Proof.Machine
end

section
/-! # Every step keeps the order of the block: the rows (R23, R24, R49, R165, R167) -/

namespace Sys2Proof.Machine

section
variable {s t : State}

/-! ### The Notice Unit and the Status Writer (R175, R177) -/

/-- The notices change, and no write of one begins in an anchor take. -/
theorem State.Order.withNotices (h : s.Order) {u : NoticeUnit} (hw : u.writing = true → s.sup.take ≠ none → s.notices.writing = true) :
    State.Order { s with notices := u } := by
  refine h.of_helm rfl rfl (fun hc ht => ⟨hc, ht⟩)
    ⟨h.ports, fun htake => ?_, h.takeOk, h.anchorOk, h.teardown, h.result⟩
  obtain ⟨hc, hp, ht, hs, hn, hg⟩ := h.takeAlone htake
  exact ⟨hc, hp, ht, hs, Bool.eq_false_iff.2 fun hu => (nomatch hn.symm.trans (hw hu htake)), hg⟩

theorem State.Order.withLines (h : s.Order) {l : Lines} (hl : l.dramSize = s.lines.dramSize) : State.Order { s with lines := l } :=
  h.congr rfl rfl (by simp only [State.helm, State.capturing, hl])

theorem State.Order.assertInterrupt (h : s.Order) (d : Bool) : (s.assertInterrupt d).Order := h.withLines rfl

theorem State.Order.noticeReturn (h : s.Order) (k : Nat) : (s.noticeReturn k).Order := by
  unfold State.noticeReturn
  split
  · exact h.postRingFault _ _
  · split
    · exact h
    · split
      · exact h.postRingFault _ _
      · have hreturned : State.Order { s with notices := s.notices.returned k s.noticeEntries } :=
          h.withNotices fun hw _ => hw
        exact hreturned.withLines rfl

theorem State.Order.noticeWriteBegin (h : s.Order) (hr : s.noticeReady = true) :
    State.Order { s with notices := { s.notices with writing := true } } := by
  refine h.withNotices fun _ htake => absurd ?_ htake
  simp only [State.noticeReady, Bool.and_eq_true, Option.isNone_iff_eq_none] at hr
  exact hr.1.2

theorem State.Order.noticeWritten (h : s.Order) : s.noticeWritten.Order := by
  have hlanded : State.Order { s with mem := takeWrites s.mem s.noticeInFlight, landed := { s.landed with notice := 0 } } :=
    h.congr rfl rfl rfl
  have hwritten : State.Order { s with
      mem := takeWrites s.mem s.noticeInFlight
      landed := { s.landed with notice := 0 }
      notices := s.notices.written s.noticeEntries s.milliseconds } := hlanded.withNotices nofun
  exact hwritten.assertInterrupt _

theorem State.Order.withStatus (h : s.Order) {x : StatusWriter} (hw : s.sup.take ≠ none → x.writing = none) :
    State.Order { s with sup := { s.sup with status := x } } := by
  refine h.withSup (x := { s.sup with status := x }) rfl
    ⟨h.ports, fun htake => ?_, h.takeOk, h.anchorOk, h.teardown, h.result⟩
  obtain ⟨hc, hp, ht, -, hn, hg⟩ := h.takeAlone htake
  exact ⟨hc, hp, ht, hw htake, hn, hg⟩

theorem State.Order.statusWritten (h : s.Order) (w : StatusWrite) : (s.statusWritten w).Order := by
  have hended : State.Order { s with
      mem := writeWords s.mem w.base w.words
      sup := { s.sup with status := { s.sup.status with writing := none } } } :=
    (h.withMem (writeWords s.mem w.base w.words)).withStatus (x := { s.sup.status with writing := none }) fun _ => rfl
  unfold State.statusWritten
  dsimp only
  split
  · exact hended
  next hn =>
    refine hended.beginFollowUp ?_
    simp only [Bool.or_eq_true, not_or, Bool.not_eq_true, Option.isSome_eq_false_iff, Option.isNone_iff_eq_none] at hn
    exact hn.1

/-! ### Words taken of the writes in flight (R162) -/

theorem State.Order.land (h : s.Order) (k : Nat) (ws : List (Nat × List Word)) : (s.land k ws).Order := h.withMem _

theorem State.Order.countLanded (h : s.Order) (f : Landed → Landed) : (s.countLanded f).Order := h.congr rfl rfl rfl

theorem State.Order.landSlotWrites (h : s.Order) (ws : List (Nat × List Word)) (rest : List SlotWrite) :
    (s.landSlotWrites ws rest).Order := h.congr rfl rfl rfl

theorem State.Order.tookStatus (h : s.Order) (n : Nat) : (s.tookStatus n).Order := by
  unfold State.tookStatus
  split
  · exact h
  next w hw =>
    refine (h.land _ _).withStatus fun htake => ?_
    exact nomatch hw.symm.trans (h.takeAlone htake).2.2.2.1

theorem State.Order.tookTeardown (h : s.Order) (n : Nat) : (s.tookTeardown n).Order := by
  unfold State.tookTeardown
  split
  next ws hws => exact (h.land _ _).setTeardown (show s.sup.teardown ≠ none by rw [hws]; nofun) _
  · exact h

theorem State.Order.withStore (h : s.Order) (m : Memory) (x : Landed) : State.Order { s with mem := m, landed := x } :=
  h.congr rfl rfl rfl

theorem State.Order.tookTake (h : s.Order) (z d l : Nat) : (s.tookTake z d l).Order := by
  unfold State.tookTake
  split
  · exact h.withStore _ _
  · exact h

theorem State.Order.took (h : s.Order) (n : Nat) (w : Writer) : (s.took n w).Order := by
  cases w with
  | status => exact h.tookStatus n
  | notice => rw [State.took]; exact (h.land _ _).countLanded _
  | result => rw [State.took]; exact (h.land _ _).countLanded _
  | teardown => exact h.tookTeardown n
  | writeback => rw [State.took]; exact (h.land _ _).countLanded _
  | blend => rw [State.took]; exact (h.land _ _).countLanded _
  | slots => exact h.landSlotWrites _ _
  | zeroBucket => exact h.tookTake _ _ _
  | directory => exact h.tookTake _ _ _
  | liveDirectory => exact h.tookTake _ _ _

/-! ### The Local Port (R156, R158) -/

theorem State.Order.portAct (h : s.Order) (hact : s.PortAct t) : t.Order := by
  cases hact with
  | pass x v en => exact h.withMem _
  | go => exact h.goEvent
  | kick k => exact h.kick k
  | noticeReturn k => exact h.noticeReturn k
  | acts hacts => exact h.quiet hacts
  | answer d e => exact h.congr rfl rfl rfl
  | idle => exact h.congr rfl rfl rfl
  | read b hb => exact h.congr rfl rfl rfl
  | wait b q hb => exact h.congr rfl rfl rfl
  | took n w => exact h.took n w

theorem State.Order.portRun (h : s.Order) (hr : s.PortRun t) : t.Order := hr.preserves (fun hact ho => ho.portAct hact) h

theorem State.Order.localRequest (h : s.Order) (q : LocalRequest) : (s.localRequest q).Order :=
  h.portRun ((State.PortRun.refl s).localRequest q)

theorem State.Order.portEvents (h : s.Order) (es : List PortEvent) : (s.portEvents es).Order :=
  h.portRun ((State.PortRun.refl s).portEvents es)

/-! ### Every row -/

theorem State.Order.takeoverRises (h : s.Order) : s.takeoverRises.Order := by
  have hhigh : s.takeoverHigh.Order := h.withLines rfl
  unfold State.takeoverRises
  split
  · exact hhigh.quiet (State.Acts.foldl (fun g h => h.takeoverSet g) _ (.refl _))
  · exact hhigh

theorem State.fresh_afterReset (b a l : Bool) : (s.afterReset b a l).Fresh := rfl

theorem State.fresh_holdReset : s.holdReset.Fresh := rfl

theorem State.Order.next (h : s.Order) {u : State} (hu : s.Order → u.Order)
    (ht : Host.Outcome.next u = (.next t : Host.Outcome State Fault Refusal)) : t.Order := Host.Outcome.next.inj ht ▸ hu h

theorem State.order_of_exec (c : Instr) (h : s.Order) (ht : exec c s = .next t) : t.Order := by
  have hring : ringRow c = true → t.Order := by
    intro hc
    obtain he | ⟨hexecuting, u, he, hact⟩ := exec_command hc s
    · exact h.next (fun h => h) (he.symm.trans ht)
    · exact h.next (fun h => h.commandAct hexecuting hact) (he.symm.trans ht)
  have hpulse : ∀ dt wide, (s.pulse dt wide).Order := fun dt wide => h.pulse dt wide
  have hrig : ∀ r w, exec c s = .next (s.unlessHeld (s.rigWrite r w)) → t.Order := fun r w he =>
    h.next (fun h => h.unlessHeld (h.rigWrite r w)) (he.symm.trans ht)
  have hlocal : ∀ q, exec c s = .next (s.unlessHeld (s.localRequest q)) → t.Order := fun q he =>
    h.next (fun h => h.unlessHeld (h.localRequest q)) (he.symm.trans ht)
  have hquiet : ∀ u, exec c s = .next u → s.Acts false true u → t.Order := fun u he hacts =>
    h.next (fun h => h.quiet hacts) (he.symm.trans ht)
  cases c with
  | reset b a l line =>
    cases line with
    | low => exact h.next (fun h => h.unlessHeld State.fresh_holdReset.order) ht
    | high => exact h.next (fun _ => (State.fresh_afterReset b a l).order) ht
    | shortPulse =>
      refine h.next (fun h => h.unlessHeld ?_) ht
      split
      · exact (State.fresh_afterReset b a l).order
      · exact h.congr rfl rfl rfl
  | refclkStop =>
    refine h.next (fun h => ?_) ht
    split
    · exact h
    · exact h.congr rfl rfl rfl
  | refclkResume =>
    refine h.next (fun h => ?_) ht
    exact h.congr rfl rfl rfl
  | blockClockEdge dt wide early =>
    refine h.next (fun _ => ?_) ht
    exact (hpulse dt wide).ite _ ((hpulse dt wide).unlessHeld ((hpulse dt wide).clockRun ((State.ClockRun.refl _).clockEdge early)))
  | clockLoss dt early =>
    exact h.next (fun h => (h.advance dt).ite _ ((h.advance dt).clockRun ((State.ClockRun.refl _).loseClock early))) ht
  | synthesizedBeat dt early =>
    refine h.next (fun h => ?_) ht
    have hclosed := (State.ClockRun.refl (s.advance dt)).closeOverdueWindow
    split
    · exact (h.advance dt).clockRun hclosed
    · exact (h.advance dt).clockRun (hclosed.synthesize _ early)
  | acceptanceWindowClose dt =>
    exact h.next (fun h => (h.advance dt).ite _ ((h.advance dt).clockRun (State.ClockRun.refl _).windowClosed)) ht
  | showSync dt wide =>
    refine h.next (fun _ => ?_) ht
    exact (hpulse dt wide).ite _ ((hpulse dt wide).unlessHeld (hpulse dt wide).syncEdge)
  | takeoverFallingEdge dt =>
    refine h.next (fun h => (h.advance dt).unlessHeld ?_) ht
    exact (h.advance dt).withLines rfl
  | takeoverRisingEdge dt => exact h.next (fun h => (h.advance dt).unlessHeld (h.advance dt).takeoverRises) ht
  | goWrite v en => exact hlocal _ rfl
  | deferredGo =>
    refine h.next (fun h => ?_) ht
    split
    next hg =>
      simp only [Bool.and_eq_true, Bool.not_eq_true'] at hg
      exact h.deferredGo hg.1 hg.2
    · exact h
  | anchorReadDone e =>
    refine h.next (fun h => ?_) ht
    split
    next htake => exact h.anchorRead htake e
    · exact h
  | anchorTakeEnd =>
    refine h.next (fun h => ?_) ht
    split
    next htake => exact h.endTake htake
    · exact h
  | commandKick v en => exact hlocal _ rfl
  | commandFetchDone e =>
    refine h.next (fun h => ?_) ht
    split
    next hf => exact h.fetchDone hf e
    · exact h
  | commandDirectoryReadDone e =>
    refine h.next (fun h => ?_) ht
    split
    next hd => exact h.commandDirectoryRead hd.1 hd.2 e
    · exact h
  | commandResultWritten =>
    refine h.next (fun h => ?_) ht
    split
    next hw => exact h.resultWritten hw
    · exact h
  | unknownCommand | configureBridge | defineGroup | setThresholds | defineChannel | undefineChannel | readContext | armShow
  | endShow | switch | hold | releaseHold | queryCoverage | lock | unlock => exact hring rfl
  | teardownEnd =>
    refine h.next (fun h => ?_) ht
    split
    next ws hws => exact h.endTeardown (by rw [hws]; nofun) ws
    · exact h
  | noticeReturn v en => exact hlocal _ rfl
  | noticeWriteBegin =>
    refine h.next (fun h => ?_) ht
    split
    next hr => exact h.noticeWriteBegin hr
    · exact h
  | noticeWriteEnd dt => exact h.next (fun h => (h.advance dt).ite _ (h.advance dt).noticeWritten) ht
  | coalesceTimeout dt => exact h.next (fun h => (h.advance dt).assertInterrupt _) ht
  | statusWriteEnd =>
    refine h.next (fun h => ?_) ht
    split
    · exact h
    · exact h.statusWritten _
  | payloadWrite r a v en => exact hrig r _ rfl
  | headerWrite r a v en => exact hrig r _ rfl
  | commit r a v en => exact hrig r _ rfl
  | rigPortUnusedWrite r a v en => exact hrig r _ rfl
  | contextLoadReadDone ch e =>
    refine h.next (fun h => ?_) ht
    split
    · exact h
    · exact (h.loadReadDone _ e).advanceTeardown
  | evictionWritebackEnd k => exact h.next (fun h => h.ite _ (h.evictionEnds k).advanceTeardown) ht
  | laneStale ch r l => exact hquiet _ rfl ((State.Acts.refl s).laneStale ch r l)
  | streamingExpiry ch => exact hquiet _ rfl ((State.Acts.refl s).streamingExpiry ch)
  | slotRecordWritten g k =>
    refine h.next (fun h => ?_) ht
    split
    · exact h
    · exact (h.landSlotWrites _ _).quiet ((State.Acts.refl _).recordTaken g k _)
  | slotHeaderWritten g hd =>
    cases hd with
    | ready k =>
      refine h.next (u := s.readyHeaderWritten g k) (fun h => ?_) ht
      unfold State.readyHeaderWritten
      split
      · exact h
      · exact (h.landSlotWrites _ _).quiet ((State.Acts.refl _).headerTaken g k _)
    | other k =>
      refine h.next (u := s.otherWritten g k) (fun h => ?_) ht
      unfold State.otherWritten
      split
      · exact h
      · exact h.ite _ (h.landSlotWrites _ _)
  | liveWindowRead p n ev =>
    refine h.next (fun h => h.unlessHeld (State.Order.portEvents ?_ ev)) ht
    cases p with
    | localPort addr => exact h.localRequest _
    | burst => exact h
    | rigPort r addr => exact h.rigRead r addr n
  | readerRelease g k v en =>
    refine h.next (fun h => ?_) ht
    split
    · exact h
    · exact h.unlessHeld (h.localRequest _)
  | forcedRelease g k => exact hquiet _ rfl ((State.Acts.refl s).forcedRelease g k)
  | blendJobComplete =>
    refine h.next (fun h => ?_) ht
    split
    · exact h
    · exact h.ite _ (h.completeHead _)
  | blendDeadline => exact h.next (fun h => h.blendDeadline) ht
  | blendDrainEnd =>
    refine h.next (fun h => ?_) ht
    split
    · exact h
    · exact h.ite _ ((h.landOutput _).drainHead _)
  | blendReadError i =>
    refine h.next (fun h => ?_) ht
    split
    · exact h
    · exact h.readError _ i
  | healthWindowClose g => exact hquiet _ rfl ((State.Acts.refl s).healthWindowClose rfl g)
  | localPortWrite a v en => exact hlocal _ rfl
  | blendReadingDone =>
    refine h.next (fun h => ?_) ht
    split
    · exact h
    · exact h.ite _ (h.congr rfl rfl rfl)

/-- A step keeps the order of the block. -/
theorem State.order_of_step (h : s.Order) (ht : step s = .next t) : t.Order := by
  unfold step at ht
  split at ht
  · exact h.next (fun h => h.congr (t := s.tick) rfl rfl rfl) ht
  next c cs _ => exact State.order_of_exec c (h.congr (t := { s with pending := cs }) rfl rfl rfl) ht

end

end Sys2Proof.Machine
end

section
/-! # Every step keeps the shape of the queues: the parts of the shape, and the Blend Job Queue (R106, R108, R112, R162)

The shape falls into parts, each about a few of the state's figures: the Blend Job Queue, the loads of the Channel Cache, the
retained lists, the pending notices, the Local Port's read and the counts of words taken. `State.Forms` is their conjunction;
what the shape says of a part held in reset stands apart. -/

namespace Sys2Proof.Machine

/-! ### The parts of the shape -/

/-- The job has its samples where its phase says so. -/
def BlendJob.Sampled (j : BlendJob) : Prop :=
  (j.phase = .queued ∨ j.phase = .reading → j.samples = none) ∧ (j.phase = .writing → j.samples ≠ none)
    ∧ ∀ out, j.samples = some out → out.length = 128

/-- The form of the Blend Job Queue. -/
structure JobsForm (js : List BlendJob) : Prop where
  running : BlendQueue js
  room : js.length ≤ 48
  samples : ∀ j ∈ js, j.Sampled

/-- The running job has its output in hand. -/
def HasOutput (js : List BlendJob) : Prop := ∃ j rest, js = j :: rest ∧ j.samples ≠ none

/-- The loads and the accesses in flight of the Channel Cache, apart from what the first access is. -/
structure LoadsForm (td : Option Teardown) (x : Cache) : Prop where
  waits : td = none → ∀ q ∈ x.loads, q.waiting.rig1 = true ∨ q.waiting.rig2 = true
  oneLoad : ∀ r, x.loads.countP (fun q => q.waiting.get r) ≤ 1
  held : ∀ r, x.ports.get r = [] → ∀ q ∈ x.loads, q.waiting.get r = false
  twoLoads : x.loads.length ≤ 2
  reads : ∀ c, CacheSend.read c ∈ x.sends → ∃ q ∈ x.loads, q.channel = c ∧ q.stage = .reading
  channels : (x.loads.map (fun q => q.channel)).Nodup
  writtenBack : ∀ ws, td = some (.writingBack ws) → x.loads = []

/-- The first access in flight of the Channel Cache, if there is one, is a write-back. -/
def WritebackFirst (sends : List CacheSend) : Prop := ∀ y ys, sends = y :: ys → ∃ k, y = .writeback k

/-- The counts of words taken. -/
structure State.Counted (s : State) : Prop where
  notice : 0 < s.landed.notice → s.notices.writing = true ∧ s.landed.notice < 8
  result : 0 < s.landed.result → s.sup.command.phase = .writing ∧ s.landed.result < 7
  blend : 0 < s.landed.blend → s.landed.blend < 128 ∧ HasOutput s.blend
  take : 0 < s.landed.zeroBucket + s.landed.directory + s.landed.liveDirectory →
    ∃ a, s.sup.take = some (.initialising a)
  regions : s.landed.zeroBucket ≤ 128 ∧ s.landed.directory ≤ 6144 ∧ s.landed.liveDirectory ≤ 131072

/-- The first access in flight of the Channel Cache is a write-back, and words are counted as taken of it alone. -/
structure State.Sending (s : State) : Prop where
  first : WritebackFirst s.cache.sends
  counted : 0 < s.landed.writeback → s.cache.sends ≠ [] ∧ s.landed.writeback < 8

/-- The shape, apart from the first access of the Channel Cache and from what it says of a part held in reset. -/
structure State.Bare (s : State) : Prop where
  jobs : JobsForm s.blend
  loads : LoadsForm s.sup.teardown s.cache
  lists : ∀ k, (s.context k).Rising
  notices : s.notices.queue.length ≤ 32
  burst : ∀ b, s.burst = some b → 0 < b.left
  counted : s.Counted

/-- The shape, apart from what it says of a part held in reset. -/
structure State.Forms (s : State) : Prop where
  bare : s.Bare
  sending : s.Sending

/-- What the forms speak of. -/
structure Figures where
  blend : List BlendJob
  cache : Cache
  teardown : Option Teardown
  notices : NoticeUnit
  burst : Option ReadBurst
  landed : Landed
  phase : CommandPhase
  take : Option AnchorTake

def State.figures (s : State) : Figures :=
  { blend := s.blend, cache := s.cache, teardown := s.sup.teardown, notices := s.notices, burst := s.burst
    landed := s.landed, phase := s.sup.command.phase, take := s.sup.take }

/-- A part held in reset stands at its values of reset with its outputs released (R182). -/
def State.Released (s : State) : Prop :=
  s.Fresh ∧ s.lines.tallyMain = false ∧ s.lines.tallyBackup = false ∧ s.lines.interrupt = false

section
variable {s t : State}

theorem State.shape_iff : s.Shape ↔ s.Forms ∧ (s.lines.resetLow = true → s.Released) := by
  constructor
  · intro h
    obtain ⟨hnotice, hresult, hwriteback, hblend, htake, hregions⟩ := h.landed
    have hreads : ∀ c, CacheSend.read c ∈ s.cache.sends → ∃ q ∈ s.cache.loads, q.channel = c ∧ q.stage = .reading := by
      intro c hc
      cases hx : s.cache.sends with
      | nil => rw [hx] at hc; nomatch hc
      | cons x xs =>
        obtain ⟨⟨k, hk⟩, hrest⟩ := h.sends x xs hx
        rw [hx, hk] at hc
        exact hrest c ((List.mem_cons.1 hc).resolve_left nofun)
    exact ⟨⟨⟨⟨h.running, h.room, h.samples⟩,
      ⟨h.waits, h.oneLoad, h.held, h.twoLoads, hreads, h.channels, h.writtenBack⟩,
      h.lists, h.notices, h.burst, ⟨hnotice, hresult, hblend, htake, hregions⟩⟩,
      ⟨fun y ys hy => (h.sends y ys hy).1, hwriteback⟩⟩, h.inReset⟩
  · rintro ⟨⟨h, hs⟩, hreset⟩
    have hsends : ∀ x xs, s.cache.sends = x :: xs → (∃ k, x = .writeback k)
        ∧ ∀ c, CacheSend.read c ∈ xs → ∃ q ∈ s.cache.loads, q.channel = c ∧ q.stage = .reading := fun x xs hx =>
      ⟨hs.first x xs hx, fun c hc => h.loads.reads c (by rw [hx]; exact List.mem_cons_of_mem _ hc)⟩
    exact ⟨h.jobs.running, h.jobs.room, h.jobs.samples, h.loads.waits, h.loads.oneLoad, h.loads.held, h.loads.twoLoads,
      hsends, h.loads.channels, h.loads.writtenBack, h.lists, h.notices, h.burst, hreset,
      ⟨h.counted.notice, h.counted.result, hs.counted, h.counted.blend, h.counted.take, h.counted.regions⟩⟩

/-! ### The Blend Job Queue -/

section
variable {j : BlendJob} {js : List BlendJob}

theorem BlendJob.Sampled.phase (h : j.Sampled) {p : JobPhase} (hread : p = .queued ∨ p = .reading → j.samples = none)
    (hwrite : p = .writing → j.samples ≠ none) : BlendJob.Sampled { j with phase := p } := ⟨hread, hwrite, h.2.2⟩

theorem JobsForm.nil : JobsForm [] := ⟨nofun, Nat.zero_le _, nofun⟩

/-- The head of the queue starts. -/
theorem startHead_cons (j : BlendJob) (js : List BlendJob) :
    startHead (j :: js) = { j with phase := if j.phase = .queued then .reading else j.phase } :: js := rfl

theorem BlendJob.Sampled.started (h : j.Sampled) :
    BlendJob.Sampled { j with phase := if j.phase = .queued then .reading else j.phase } := by
  split
  next hq => exact h.phase (fun _ => h.1 (.inl hq)) nofun
  · exact h

theorem JobsForm.startHead {js : List BlendJob} (hq : ∀ i ∈ js.tail, i.phase = .queued) (hroom : js.length ≤ 48)
    (hs : ∀ j ∈ js, j.Sampled) : JobsForm (Machine.startHead js) := by
  refine ⟨BlendQueue.startHead hq, ?_, ?_⟩
  · cases js with
    | nil => exact hroom
    | cons j js => exact hroom
  · cases js with
    | nil => nofun
    | cons j js =>
      rw [startHead_cons]
      intro i hi
      rcases List.mem_cons.1 hi with rfl | hi
      · exact (hs j List.mem_cons_self).started
      · exact hs i (List.mem_cons_of_mem _ hi)

/-- Behind the head every job is QUEUED. -/
theorem JobsForm.queued (h : JobsForm js) : ∀ i ∈ js.tail, i.phase = .queued := by
  cases js with
  | nil => nofun
  | cons j js => exact (h.running j js rfl).2

/-- The head leaves and the next starts. -/
theorem JobsForm.tail (h : JobsForm js) : JobsForm (Machine.startHead js.tail) := by
  refine JobsForm.startHead (fun i hi => h.queued i (List.mem_of_mem_tail hi)) ?_ fun i hi => h.samples i (List.mem_of_mem_tail hi)
  rw [List.length_tail]
  exact Nat.le_trans (Nat.sub_le _ _) h.room

/-- A job joins a queue that has room. -/
theorem JobsForm.join (h : JobsForm js) (hroom : js.length < 48) (hq : j.phase = .queued) (hs : j.samples = none) :
    JobsForm (Machine.startHead (js ++ [j])) := by
  refine JobsForm.startHead (fun i hi => ?_) ?_ fun i hi => ?_
  · cases js with
    | nil => nomatch hi
    | cons k rest =>
      rcases List.mem_append.1 hi with hi | hi
      · exact h.queued i hi
      · rw [List.mem_singleton.1 hi, hq]
  · rw [List.length_append]
    exact hroom
  · rcases List.mem_append.1 hi with hi | hi
    · exact h.samples i hi
    · rw [List.mem_singleton.1 hi]
      exact ⟨fun _ => hs, fun hw => (nomatch hq.symm.trans hw), fun out ho => (nomatch hs.symm.trans ho)⟩

/-- The running job keeps its output while others join. -/
theorem HasOutput.join (h : JobsForm js) (ho : HasOutput js) (j : BlendJob) : HasOutput (Machine.startHead (js ++ [j])) := by
  obtain ⟨i, rest, rfl, hs⟩ := ho
  exact ⟨i, rest ++ [j], startHead_running (h.running i rest rfl).1, hs⟩

/-- The jobs that a deadline leaves. -/
theorem JobsForm.deadline (h : JobsForm js) (n : Nat) : JobsForm (Machine.startHead (js.filterMap (BlendJob.atDeadline n))) := by
  cases js with
  | nil => exact .nil
  | cons j rest =>
    obtain ⟨hj, hrest⟩ := h.running j rest rfl
    have hsampled := h.samples j List.mem_cons_self
    rw [deadline_queue hj hrest]
    refine ⟨?_, ?_, ?_⟩
    · intro i is hi
      injection hi with hi his
      subst hi his
      refine ⟨?_, fun i hi => hrest i (List.mem_filter.1 hi).1⟩
      split
      · nofun
      · exact hj
    · exact Nat.le_trans (Nat.succ_le_succ (List.length_filter_le _ _)) h.room
    · intro i hi
      rcases List.mem_cons.1 hi with rfl | hi
      · split
        · exact hsampled.phase nofun nofun
        · exact hsampled
      · exact h.samples i (List.mem_cons_of_mem _ (List.mem_filter.1 hi).1)

theorem HasOutput.deadline (h : JobsForm js) (ho : HasOutput js) (n : Nat) :
    HasOutput (Machine.startHead (js.filterMap (BlendJob.atDeadline n))) := by
  obtain ⟨j, rest, rfl, hs⟩ := ho
  obtain ⟨hj, hrest⟩ := h.running j rest rfl
  refine ⟨_, _, deadline_queue hj hrest n, ?_⟩
  split
  · exact hs
  · exact hs

/-- The flush of an End Show leaves the running job alone (R115). -/
theorem JobsForm.flushed (h : JobsForm js) : JobsForm (js.filter (fun j => j.phase != .queued)) := by
  cases js with
  | nil => exact .nil
  | cons j rest =>
    obtain ⟨hj, hrest⟩ := h.running j rest rfl
    have hnone : rest.filter (fun j => j.phase != .queued) = [] :=
      List.filter_eq_nil_iff.2 fun i hi => by rw [hrest i hi]; exact nofun
    have hkept : (j :: rest).filter (fun j => j.phase != .queued) = j :: rest.filter (fun j => j.phase != .queued) :=
      List.filter_cons_of_pos (bne_iff_ne.2 hj)
    rw [hkept, hnone]
    refine ⟨?_, Nat.succ_le_succ (Nat.zero_le _), fun i hi => h.samples i ?_⟩
    · intro i is hi
      injection hi with hi his
      subst hi his
      exact ⟨hj, nofun⟩
    · rw [List.mem_singleton.1 hi]
      exact List.mem_cons_self

theorem HasOutput.flushed (h : JobsForm js) (ho : HasOutput js) : HasOutput (js.filter (fun j => j.phase != .queued)) := by
  obtain ⟨j, rest, rfl, hs⟩ := ho
  exact ⟨j, _, List.filter_cons_of_pos (bne_iff_ne.2 (h.running j rest rfl).1), hs⟩

/-- The running job has its input words in hand (R108). -/
theorem JobsForm.computed (h : JobsForm (j :: js)) (hr : j.reads = true) {out : List Word} (hout : out.length = 128) :
    JobsForm (j.computed out :: js) := by
  obtain ⟨hj, hrest⟩ := h.running j js rfl
  have hphase : (j.computed out).phase = .writing ∨ (j.computed out).phase = .draining := by
    rcases (j.reads_iff).1 hr with h | ⟨h, -⟩
    · exact .inl (if_pos h)
    · exact .inr ((if_neg (by rw [h]; nofun)).trans h)
  refine ⟨?_, h.room, fun i hi => ?_⟩
  · intro i is hi
    injection hi with hi his
    subst hi his
    exact ⟨by rcases hphase with h | h <;> rw [h] <;> nofun, hrest⟩
  · rcases List.mem_cons.1 hi with rfl | hi
    · refine ⟨fun hp => ?_, fun _ => nofun, fun o ho => ?_⟩
      · rcases hphase with h | h <;> rw [h] at hp <;> exact hp.elim nofun nofun
      · rw [← Option.some.inj ho]
        exact hout
    · exact h.samples i (List.mem_cons_of_mem _ hi)

end

/-! ### The acts of the blocks -/

theorem NoticeUnit.length_post {u : NoticeUnit} (h : u.queue.length ≤ 32) (n : Notice) : (u.post n).queue.length ≤ 32 := by
  unfold NoticeUnit.post
  split
  next hroom =>
    rw [List.length_append]
    exact hroom
  · exact h

theorem State.length_post (h : s.notices.queue.length ≤ 32) (g : Option Nat) (r : Option Rig) (b : NoticeBody) :
    (s.post g r b).notices.queue.length ≤ 32 := by
  unfold State.post
  dsimp only
  split
  · exact h
  · exact NoticeUnit.length_post h _

/-- The counts keep what they speak of where the Blend Job Queue keeps its output. -/
theorem State.Counted.congr (h : s.Counted) (hlanded : t.landed = s.landed) (hw : t.notices.writing = s.notices.writing)
    (hp : t.sup.command.phase = s.sup.command.phase) (hb : HasOutput s.blend → HasOutput t.blend)
    (htake : t.sup.take = s.sup.take) : t.Counted := by
  constructor
  case notice => rw [hlanded, hw]; exact h.notice
  case result => rw [hlanded, hp]; exact h.result
  case blend =>
    rw [hlanded]
    exact fun hpos => (h.blend hpos).imp_right hb
  case take => rw [hlanded, htake]; exact h.take
  case regions => rw [hlanded]; exact h.regions

theorem LoadsForm.congr {td : Option Teardown} {x y : Cache} (h : LoadsForm td x) (hl : y.loads = x.loads)
    (hp : y.ports = x.ports) (hs : y.sends = x.sends) : LoadsForm td y := by
  constructor
  case waits => rw [hl]; exact h.waits
  case oneLoad => rw [hl]; exact h.oneLoad
  case held => rw [hl, hp]; exact h.held
  case twoLoads => rw [hl]; exact h.twoLoads
  case reads => rw [hl, hs]; exact h.reads
  case channels => rw [hl]; exact h.channels
  case writtenBack => rw [hl]; exact h.writtenBack

theorem State.Sending.congr (h : s.Sending) (hs : t.cache.sends = s.cache.sends) (hl : t.landed = s.landed) : t.Sending := by
  constructor
  · rw [hs]; exact h.first
  · rw [hs, hl]; exact h.counted

theorem State.Bare.act {fill win : Bool} (h : s.Bare) (hact : State.Act fill win s t) : t.Bare := by
  cases hact with
  | post g r b =>
    exact ⟨h.jobs, h.loads, h.lists, State.length_post h.notices g r b, h.burst,
      h.counted.congr rfl (s.writing_post g r b) rfl id rfl⟩
  | job j hroom hq hs =>
    exact ⟨h.jobs.join hroom hq hs, h.loads, h.lists, h.notices, h.burst,
      h.counted.congr rfl rfl rfl (fun ho => ho.join h.jobs j) rfl⟩
  | context k f hf =>
    refine ⟨h.jobs, h.loads.congr rfl rfl rfl, fun i => ?_, h.notices, h.burst, h.counted.congr rfl rfl rfl id rfl⟩
    rw [State.context_modifyContext]
    split
    · exact hf (h.lists k)
    · exact h.lists i
  | refresh k =>
    exact ⟨h.jobs, h.loads.congr rfl rfl rfl, h.lists, h.notices, h.burst, h.counted.congr rfl rfl rfl id rfl⟩
  | _ => exact ⟨h.jobs, h.loads, h.lists, h.notices, h.burst, h.counted.congr rfl rfl rfl id rfl⟩

theorem State.Sending.act {fill win : Bool} (h : s.Sending) (hact : State.Act fill win s t) : t.Sending := by
  cases hact with
  | _ => exact h.congr rfl rfl

theorem State.Bare.acts {fill win : Bool} (h : s.Bare) (ha : s.Acts fill win t) : t.Bare :=
  ha.preserves (fun hact hf => hf.act hact) h

theorem State.Forms.acts {fill win : Bool} (h : s.Forms) (ha : s.Acts fill win t) : t.Forms :=
  ⟨h.bare.acts ha, ha.preserves (fun hact hf => hf.act hact) h.sending⟩

theorem State.Forms.quiet (h : s.Forms) (ha : s.Acts false true t) : t.Forms := h.acts ha

theorem State.Bare.congr (h : s.Bare) (he : t.figures = s.figures) : t.Bare := by
  obtain ⟨hb, hx, ht, hn, hburst, hl, hp, htake⟩ := Figures.mk.inj he
  refine ⟨hb ▸ h.jobs, by rw [ht, hx]; exact h.loads, fun k => ?_, hn ▸ h.notices, hburst ▸ h.burst,
    h.counted.congr hl (by rw [hn]) hp (fun ho => hb ▸ ho) htake⟩
  rw [State.context, hx]
  exact h.lists k

/-- An operation that touches none of what the forms speak of. -/
theorem State.Forms.congr (h : s.Forms) (he : t.figures = s.figures) : t.Forms :=
  ⟨h.bare.congr he, h.sending.congr (congrArg (fun f => f.cache.sends) he) (congrArg Figures.landed he)⟩

end

end Sys2Proof.Machine
end

section
/-! # Every step keeps the shape of the queues: the loads of the Channel Cache (R55 to R61, R157) -/

namespace Sys2Proof.Machine

/-- No load waits for rig port `r`. -/
def Cache.Unawaited (x : Cache) (r : Rig) : Prop := ∀ q ∈ x.loads, q.waiting.get r = false

section
variable {td : Option Teardown} {x y : Cache} {q : LoadRequest} {r : Rig}

/-! ### A write is held for a load (R55, R56) -/

theorem LoadsForm.setPort (h : LoadsForm td x) (r : Rig) {qs : List RigRequest} (hq : qs = [] → x.Unawaited r) :
    LoadsForm td { x with ports := x.ports.set r qs } := by
  refine ⟨h.waits, h.oneLoad, fun p hp => ?_, h.twoLoads, h.reads, h.channels, h.writtenBack⟩
  rw [PerRig.get_set] at hp
  split at hp
  next he => exact he ▸ hq hp
  · exact h.held p hp

theorem LoadRequest.get_join (q : LoadRequest) (r p : Rig) :
    (q.join r).waiting.get p = if p = r then true else q.waiting.get p := PerRig.get_set _ _ _ _

/-- Two requests of a list that at most one satisfies are the same. -/
theorem eq_of_countP_le_one {α : Type} {P : α → Bool} {l : List α} (h : l.countP P ≤ 1) {a b : α} (ha : a ∈ l) (hb : b ∈ l)
    (hPa : P a = true) (hPb : P b = true) : a = b := by
  rw [List.countP_eq_length_filter] at h
  have ha' := List.mem_filter.2 ⟨ha, hPa⟩
  have hb' := List.mem_filter.2 ⟨hb, hPb⟩
  match hl : l.filter P with
  | [] => rw [hl] at ha'; nomatch ha'
  | [c] => rw [hl] at ha' hb'; rw [List.mem_singleton.1 ha', List.mem_singleton.1 hb']
  | _ :: _ :: _ => rw [hl] at h; exact absurd h (by simp)

/-- The requests of one channel are one at most. -/
theorem countP_channel_le {l : List LoadRequest} (h : (l.map (fun q => q.channel)).Nodup) (c : Nat) :
    l.countP (fun q => q.channel == c) ≤ 1 := by
  have hcount := List.nodup_iff_count.1 h c
  rwa [List.count, List.countP_map] at hcount

/-- A port that no load waits for joins the load of a channel. -/
theorem LoadsForm.joined (h : LoadsForm td x) (hf : x.Unawaited r) (hp : x.ports.get r ≠ []) (c : Nat)
    (ht : td = none) :
    LoadsForm td { x with loads := x.loads.map (fun q => if q.channel = c then q.join r else q) } := by
  have hchannel : ∀ q : LoadRequest, (if q.channel = c then q.join r else q).channel = q.channel := fun q => by split <;> rfl
  have hstage : ∀ q : LoadRequest, (if q.channel = c then q.join r else q).stage = q.stage := fun q => by split <;> rfl
  have hother : ∀ (q : LoadRequest) (p : Rig), p ≠ r →
      (if q.channel = c then q.join r else q).waiting.get p = q.waiting.get p := fun q p hpr => by
    split
    · rw [LoadRequest.get_join, if_neg hpr]
    · rfl
  constructor
  case waits =>
    intro _ q hq
    obtain ⟨o, ho, rfl⟩ := List.mem_map.1 hq
    split
    · cases r
      · exact .inl rfl
      · exact .inr rfl
    · exact h.waits ht o ho
  case oneLoad =>
    intro p
    rw [List.countP_map]
    by_cases hpr : p = r
    · subst hpr
      refine Nat.le_trans (List.countP_mono_left fun q hq hw => ?_) (countP_channel_le h.channels c)
      refine Classical.byContradiction fun hn => ?_
      have hkept : (if q.channel = c then q.join p else q) = q := if_neg fun hc => hn (beq_iff_eq.2 hc)
      rw [Function.comp_apply, hkept, hf q hq] at hw
      nomatch hw
    · refine Nat.le_trans (List.countP_mono_left fun q hq hw => ?_) (h.oneLoad p)
      rwa [Function.comp_apply, hother q p hpr] at hw
  case held =>
    intro p hpp q hq
    obtain ⟨o, ho, rfl⟩ := List.mem_map.1 hq
    rw [hother o p (fun hpr => hp (hpr ▸ hpp))]
    exact h.held p hpp o ho
  case twoLoads => rw [List.length_map]; exact h.twoLoads
  case reads =>
    intro d hd
    obtain ⟨o, ho, hoc, hos⟩ := h.reads d hd
    exact ⟨_, List.mem_map_of_mem ho, (hchannel o).trans hoc, (hstage o).trans hos⟩
  case channels =>
    rw [List.map_map]
    exact (List.map_congr_left (fun q _ => hchannel q) : x.loads.map _ = x.loads.map (fun q => q.channel)) ▸ h.channels
  case writtenBack => exact fun ws hws => nomatch ht.symm.trans hws

theorem Cache.sendRead_eq (x : Cache) (c : Nat) :
    x.sendRead c = { x with sends := if x.sends.isEmpty then [] else x.sends ++ [.read c] } := by
  unfold Cache.sendRead
  split
  next he =>
    rw [← List.isEmpty_iff.1 he]
  · rfl

theorem Cache.mem_sendRead {c d : Nat} (hd : CacheSend.read d ∈ (x.sendRead c).sends) : CacheSend.read d ∈ x.sends ∨ d = c := by
  rw [Cache.sendRead_eq] at hd
  dsimp only at hd
  split at hd
  · nomatch hd
  · refine (List.mem_append.1 hd).imp_right fun hd => ?_
    injection List.mem_singleton.1 hd

/-- The read of a load that reads is sent. -/
theorem LoadsForm.sendRead (h : LoadsForm td x) {c : Nat} (hq : ∃ q ∈ x.loads, q.channel = c ∧ q.stage = .reading) :
    LoadsForm td (x.sendRead c) := by
  have hreads : ∀ d, CacheSend.read d ∈ (x.sendRead c).sends → ∃ q ∈ x.loads, q.channel = d ∧ q.stage = .reading := by
    intro d hd
    rcases Cache.mem_sendRead hd with hd | rfl
    · exact h.reads d hd
    · exact hq
  rw [Cache.sendRead_eq] at hreads ⊢
  exact ⟨h.waits, h.oneLoad, h.held, h.twoLoads, hreads, h.channels, h.writtenBack⟩

/-- A new load of a port that no load waits for. -/
theorem LoadsForm.opened (h : LoadsForm td x) (ht : td = none) (hf : x.Unawaited r) (hp : x.ports.get r ≠ []) {c : Nat}
    (hc : x.loading c = false) (l : Nat) : LoadsForm td { x with loads := x.loads ++ [x.newRequest c r l] } := by
  have hself : (x.newRequest c r l).waiting.get r = true := PerRig.get_set_eq _ _ _
  have hother : ∀ p, p ≠ r → (x.newRequest c r l).waiting.get p = false := fun p hpr => by
    rw [Cache.newRequest, PerRig.get_set, if_neg hpr]
    cases p <;> rfl
  constructor
  case waits =>
    intro _ q hq
    rcases List.mem_append.1 hq with hq | hq
    · exact h.waits ht q hq
    · rw [List.mem_singleton.1 hq]
      cases r
      · exact .inl rfl
      · exact .inr rfl
  case oneLoad =>
    intro p
    rw [List.countP_append, List.countP_singleton]
    by_cases hpr : p = r
    · subst hpr
      exact Nat.le_of_eq (by rw [if_pos hself, List.countP_eq_zero.2 fun q hq => by rw [hf q hq]; nofun])
    · rw [if_neg (by rw [hother p hpr]; nofun)]
      exact h.oneLoad p
  case held =>
    intro p hpp q hq
    rcases List.mem_append.1 hq with hq | hq
    · exact h.held p hpp q hq
    · rw [List.mem_singleton.1 hq]
      exact hother p fun hpr => hp (hpr ▸ hpp)
  case twoLoads =>
    have hall : ∃ p, x.loads.countP (fun q => q.waiting.get p) = x.loads.length := by
      cases r with
      | rig1 => exact ⟨.rig2, List.countP_eq_length.2 fun q hq => (h.waits ht q hq).resolve_left (Bool.eq_false_iff.1 (hf q hq))⟩
      | rig2 => exact ⟨.rig1, List.countP_eq_length.2 fun q hq => (h.waits ht q hq).resolve_right (Bool.eq_false_iff.1 (hf q hq))⟩
    obtain ⟨p, hp⟩ := hall
    rw [List.length_append, ← hp]
    exact Nat.succ_le_succ (h.oneLoad p)
  case reads =>
    intro d hd
    obtain ⟨q, hq, hqd⟩ := h.reads d hd
    exact ⟨q, List.mem_append_left _ hq, hqd⟩
  case channels =>
    rw [List.map_append, List.nodup_append]
    refine ⟨h.channels, nodup_single _, ?_⟩
    rintro d hd e he rfl
    obtain ⟨q, hq, rfl⟩ := List.mem_map.1 hd
    rw [List.map_singleton, List.mem_singleton] at he
    exact List.any_eq_false.1 hc q hq (beq_iff_eq.2 he)
  case writtenBack => exact fun ws hws => nomatch ht.symm.trans hws

theorem LoadsForm.ask (h : LoadsForm td x) (ht : td = none) (hf : x.Unawaited r) (hp : x.ports.get r ≠ []) (c l : Nat) :
    LoadsForm td (x.askLoad c r l) := by
  unfold Cache.askLoad Cache.openRequest
  split
  · exact h.joined hf hp c ht
  next hc =>
    have hopened := h.opened ht hf hp (Bool.eq_false_iff.2 hc) l
    dsimp only
    split
    · exact hopened
    next he =>
      refine hopened.sendRead ⟨_, List.mem_append_right _ (List.mem_singleton.2 rfl), rfl, ?_⟩
      exact if_neg he

/-- Who asks for a load does not ask for the other port. -/
theorem Cache.Unawaited.ask {p : Rig} (h : x.Unawaited p) (hpr : p ≠ r) (c l : Nat) : (x.askLoad c r l).Unawaited p := by
  unfold Cache.askLoad Cache.openRequest
  split
  · intro q hq
    obtain ⟨o, ho, rfl⟩ := List.mem_map.1 hq
    split
    · rw [LoadRequest.get_join, if_neg hpr]
      exact h o ho
    · exact h o ho
  · have hopened : ∀ q ∈ x.loads ++ [x.newRequest c r l], q.waiting.get p = false := fun q hq => by
      rcases List.mem_append.1 hq with hq | hq
      · exact h q hq
      · rw [List.mem_singleton.1 hq, Cache.newRequest, PerRig.get_set, if_neg hpr]
        cases p <;> rfl
    dsimp only
    split
    · exact hopened
    · rw [Cache.sendRead_eq]
      exact hopened

theorem WritebackFirst.nil : WritebackFirst [] := nofun

theorem WritebackFirst.append {sends : List CacheSend} (h : WritebackFirst sends) (hn : sends ≠ []) (more : List CacheSend) :
    WritebackFirst (sends ++ more) := by
  cases sends with
  | nil => exact absurd rfl hn
  | cons w ws =>
    intro y ys hy
    injection hy with hy
    exact hy ▸ h w ws rfl

/-- A read is sent behind a write-back, or at once. -/
theorem Cache.sends_sendRead (x : Cache) (c : Nat) : (x.sendRead c).sends = x.sends ∨
    x.sends ≠ [] ∧ (x.sendRead c).sends = x.sends ++ [.read c] := by
  unfold Cache.sendRead
  split
  · exact .inl rfl
  next he => exact .inr ⟨fun hn => he (List.isEmpty_iff.2 hn), rfl⟩

theorem Cache.sends_askLoad (x : Cache) (c : Nat) (r : Rig) (l : Nat) : (x.askLoad c r l).sends = x.sends ∨
    x.sends ≠ [] ∧ (x.askLoad c r l).sends = x.sends ++ [.read c] := by
  unfold Cache.askLoad Cache.openRequest
  split
  · exact .inl rfl
  · dsimp only
    split
    · exact .inl rfl
    · exact Cache.sends_sendRead _ c

theorem Cache.context_askLoad (x : Cache) (c : Nat) (r : Rig) (l k : Nat) : (x.askLoad c r l).context k = x.context k := by
  rw [Cache.context, Cache.context, (x.askLoad_keeps c r l).1]

/-! ### A load ends (R58, R61) -/

theorem Cache.mem_closeRequest {c : Nat} : q ∈ (x.closeRequest c).loads ↔ q ∈ x.loads ∧ q.channel ≠ c := by
  rw [Cache.closeRequest, List.mem_filter, bne_iff_ne]

/-- A request closes whose read is not in flight. -/
theorem LoadsForm.close (h : LoadsForm td x) {c : Nat} (hc : CacheSend.read c ∉ x.sends) : LoadsForm td (x.closeRequest c) := by
  have hsub : (x.loads.filter (fun q => q.channel != c)).Sublist x.loads := List.filter_sublist
  constructor
  case waits => exact fun ht q hq => h.waits ht q (Cache.mem_closeRequest.1 hq).1
  case oneLoad => exact fun r => Nat.le_trans hsub.countP_le (h.oneLoad r)
  case held => exact fun r hr q hq => h.held r hr q (Cache.mem_closeRequest.1 hq).1
  case twoLoads => exact Nat.le_trans hsub.length_le h.twoLoads
  case reads =>
    intro d hd
    obtain ⟨q, hq, hqd, hqs⟩ := h.reads d hd
    refine ⟨q, Cache.mem_closeRequest.2 ⟨hq, fun hqc => hc ?_⟩, hqd, hqs⟩
    rw [← hqc, hqd]
    exact hd
  case channels => exact h.channels.sublist (hsub.map _)
  case writtenBack =>
    intro ws hws
    rw [Cache.closeRequest, h.writtenBack ws hws]
    rfl

/-- A port waits for one load, and not when it has closed. -/
theorem LoadsForm.unawaited_close (h : LoadsForm td x) (hq : q ∈ x.loads) (hw : q.waiting.get r = true) :
    (x.closeRequest q.channel).Unawaited r := by
  intro o ho
  obtain ⟨ho, hne⟩ := Cache.mem_closeRequest.1 ho
  refine Bool.eq_false_iff.2 fun hwo => hne ?_
  rw [eq_of_countP_le_one (h.oneLoad r) ho hq hwo hw]

/-! ### Evictions (R56, R60) -/

theorem LoadsForm.evict (h : LoadsForm td x) {c : Nat} (hc : CacheSend.read c ∉ x.sends) (k : Nat) (d : DirEntry) :
    LoadsForm td (x.evict k c d) := by
  have hchannel : ∀ q : LoadRequest, (if q.channel = c then { q with stage := .evicting k d } else q).channel = q.channel :=
    fun q => by split <;> rfl
  have hwaiting : ∀ q : LoadRequest, (if q.channel = c then { q with stage := .evicting k d } else q).waiting = q.waiting :=
    fun q => by split <;> rfl
  have hloads : (x.evict k c d).loads = x.loads.map (fun q => if q.channel = c then { q with stage := .evicting k d } else q) := rfl
  have hports : (x.evict k c d).ports = x.ports := rfl
  constructor
  case waits =>
    intro ht q hq
    obtain ⟨o, ho, rfl⟩ := List.mem_map.1 (hloads ▸ hq)
    rw [hwaiting]
    exact h.waits ht o ho
  case oneLoad =>
    intro r
    rw [hloads, List.countP_map]
    refine Nat.le_trans (List.countP_mono_left fun q _ hw => ?_) (h.oneLoad r)
    rwa [Function.comp_apply, hwaiting] at hw
  case held =>
    intro r hr q hq
    obtain ⟨o, ho, rfl⟩ := List.mem_map.1 (hloads ▸ hq)
    rw [hwaiting]
    exact h.held r (hports ▸ hr) o ho
  case twoLoads => rw [hloads, List.length_map]; exact h.twoLoads
  case reads =>
    intro e he
    have he' : CacheSend.read e ∈ x.sends := (List.mem_append.1 he).resolve_right fun hn => nomatch List.mem_singleton.1 hn
    obtain ⟨q, hq, hqe, hqs⟩ := h.reads e he'
    have hkept : (if q.channel = c then { q with stage := .evicting k d } else q) = q :=
      if_neg fun hqc => hc (by rw [← hqc, hqe]; exact he')
    exact ⟨q, hloads ▸ hkept ▸ List.mem_map_of_mem (f := fun q => if q.channel = c then { q with stage := .evicting k d } else q) hq,
      hqe, hqs⟩
  case channels =>
    rw [hloads, List.map_map]
    exact (List.map_congr_left (fun q _ => hchannel q) : x.loads.map _ = x.loads.map (fun q => q.channel)) ▸ h.channels
  case writtenBack =>
    intro ws hws
    rw [hloads, h.writtenBack ws hws]
    rfl

/-- A load that waited for the write-back of a channel reads now. -/
def LoadRequest.wakened (d : Nat) (q : LoadRequest) : LoadRequest := if q.awaits d then { q with stage := .reading } else q

theorem LoadRequest.channel_wakened (d : Nat) (q : LoadRequest) : (q.wakened d).channel = q.channel := by
  unfold LoadRequest.wakened
  split <;> rfl

theorem LoadRequest.waiting_wakened (d : Nat) (q : LoadRequest) : (q.wakened d).waiting = q.waiting := by
  unfold LoadRequest.wakened
  split <;> rfl

theorem LoadRequest.wakened_of_stage (h : q.stage ≠ .waitWriteback) (d : Nat) : q.wakened d = q :=
  if_neg fun hc => h ((q.awaits_iff d).1 hc).2

theorem LoadsForm.startRead (h : LoadsForm td x) (d : Nat) : LoadsForm td (x.startRead d) := by
  have hstarted : LoadsForm td { x with loads := x.loads.map (LoadRequest.wakened d) } := by
    constructor
    case waits =>
      intro ht q hq
      obtain ⟨o, ho, rfl⟩ := List.mem_map.1 hq
      rw [LoadRequest.waiting_wakened]
      exact h.waits ht o ho
    case oneLoad =>
      intro r
      rw [List.countP_map]
      refine Nat.le_trans (List.countP_mono_left fun q _ hw => ?_) (h.oneLoad r)
      rwa [Function.comp_apply, LoadRequest.waiting_wakened] at hw
    case held =>
      intro r hr q hq
      obtain ⟨o, ho, rfl⟩ := List.mem_map.1 hq
      rw [LoadRequest.waiting_wakened]
      exact h.held r hr o ho
    case twoLoads => rw [List.length_map]; exact h.twoLoads
    case reads =>
      intro e he
      obtain ⟨q, hq, hqe, hqs⟩ := h.reads e he
      refine ⟨_, List.mem_map_of_mem hq, (q.channel_wakened d).trans hqe, ?_⟩
      rw [LoadRequest.wakened_of_stage (by rw [hqs]; nofun)]
      exact hqs
    case channels =>
      rw [List.map_map]
      exact (List.map_congr_left (fun q _ => q.channel_wakened d) : x.loads.map _ = x.loads.map (fun q => q.channel)) ▸ h.channels
    case writtenBack =>
      intro ws hws
      rw [h.writtenBack ws hws]
      rfl
  show LoadsForm td (if x.loads.any (fun q => q.awaits d) then
    Cache.sendRead { x with loads := x.loads.map (LoadRequest.wakened d) } d
    else { x with loads := x.loads.map (LoadRequest.wakened d) })
  split
  next hany =>
    obtain ⟨q, hq, ha⟩ := List.any_eq_true.1 hany
    refine hstarted.sendRead ⟨_, List.mem_map_of_mem hq, (q.channel_wakened d).trans ((q.awaits_iff d).1 ha).1, ?_⟩
    rw [LoadRequest.wakened, if_pos ha]
  · exact hstarted

theorem Cache.mem_startRead (x : Cache) {d : Nat} (hq : q ∈ x.loads) (hs : q.stage ≠ .waitWriteback) : q ∈ (x.startRead d).loads := by
  have hmem : q ∈ x.loads.map (LoadRequest.wakened d) :=
    LoadRequest.wakened_of_stage hs d ▸ List.mem_map_of_mem (f := LoadRequest.wakened d) hq
  show q ∈ (if x.loads.any (fun q => q.awaits d) then
    Cache.sendRead { x with loads := x.loads.map (LoadRequest.wakened d) } d
    else { x with loads := x.loads.map (LoadRequest.wakened d) }).loads
  split
  · rw [Cache.sendRead_eq]
    exact hmem
  · exact hmem

/-- The requests at the start of a teardown, which no port waits for. -/
theorem LoadsForm.torn (h : LoadsForm td x) (hy : y.loads = x.loads.map (fun q => { q with waiting := ⟨false, false⟩ }))
    (hs : y.sends = x.sends) : LoadsForm (some .flushing) y := by
  have hfalse : ∀ q ∈ y.loads, ∀ r, q.waiting.get r = false := fun q hq r => by
    obtain ⟨o, -, rfl⟩ := List.mem_map.1 (hy ▸ hq)
    cases r <;> rfl
  constructor
  case waits => nofun
  case oneLoad =>
    intro r
    rw [List.countP_eq_zero.2 fun q hq => by rw [hfalse q hq r]; nofun]
    exact Nat.zero_le _
  case held => exact fun r _ q hq => hfalse q hq r
  case twoLoads => rw [hy, List.length_map]; exact h.twoLoads
  case reads =>
    intro c hc
    obtain ⟨q, hq, hqc, hqs⟩ := h.reads c (hs ▸ hc)
    refine ⟨{ q with waiting := ⟨false, false⟩ }, ?_, hqc, hqs⟩
    rw [hy]
    exact List.mem_map_of_mem (f := fun q : LoadRequest => { q with waiting := ⟨false, false⟩ }) hq
  case channels =>
    rw [hy, List.map_map]
    exact h.channels
  case writtenBack => nofun

/-- Without a load nothing is asked of the cache but its accesses. -/
theorem LoadsForm.of_none (hl : x.loads = []) (hr : ∀ c, CacheSend.read c ∉ x.sends) (td : Option Teardown) : LoadsForm td x := by
  constructor
  case waits => rw [hl]; nofun
  case oneLoad => rw [hl]; exact fun _ => Nat.zero_le _
  case held => rw [hl]; nofun
  case twoLoads => rw [hl]; exact Nat.zero_le _
  case reads => exact fun c hc => absurd hc (hr c)
  case channels => rw [hl]; exact List.nodup_nil
  case writtenBack => exact fun _ _ => hl

/-- With no load left, the teardown may go on to any stage, or end. -/
theorem LoadsForm.free (h : LoadsForm td x) (hl : x.loads = []) (td' : Option Teardown) : LoadsForm td' x :=
  .of_none hl (fun c hc => by
    obtain ⟨q, hq, -⟩ := h.reads c hc
    rw [hl] at hq
    nomatch hq) td'

end

end Sys2Proof.Machine
end

section
/-! # Every step keeps the shape of the queues: rig ports, loads, jobs and the teardown -/

namespace Sys2Proof.Machine

section
variable {s t : State} {q : LoadRequest} {r : Rig}

/-! ### Rig ports (R36, R157) -/

/-- The cache changes in what no count speaks of. -/
theorem State.Bare.withCache (h : s.Bare) {x : Cache} (hl : LoadsForm s.sup.teardown x) (hc : ∀ k, (x.context k).Rising) :
    State.Bare { s with cache := x } :=
  ⟨h.jobs, hl, hc, h.notices, h.burst, h.counted.congr rfl rfl rfl id rfl⟩

theorem State.Sending.withCache (h : s.Sending) {x : Cache} (hs : x.sends = s.cache.sends
    ∨ s.cache.sends ≠ [] ∧ ∃ more, x.sends = s.cache.sends ++ more) : State.Sending { s with cache := x } := by
  rcases hs with hs | ⟨hn, more, hs⟩
  · exact h.congr hs rfl
  · refine ⟨?_, fun hpos => ⟨?_, (h.counted hpos).2⟩⟩
    · rw [hs]
      exact h.first.append hn more
    · rw [hs]
      exact List.append_ne_nil_of_left_ne_nil hn more

theorem State.Forms.withCache (h : s.Forms) {x : Cache} (hl : LoadsForm s.sup.teardown x) (hc : ∀ k, (x.context k).Rising)
    (hs : x.sends = s.cache.sends ∨ s.cache.sends ≠ [] ∧ ∃ more, x.sends = s.cache.sends ++ more) :
    State.Forms { s with cache := x } := ⟨h.bare.withCache hl hc, h.sending.withCache hs⟩

theorem State.Forms.setPort (h : s.Forms) (r : Rig) {qs : List RigRequest} (hq : qs = [] → s.cache.Unawaited r) :
    (s.setPort r qs).Forms := h.withCache (h.bare.loads.setPort r hq) h.bare.lists (.inl rfl)

theorem State.Forms.answerRig (h : s.Forms) (r : Rig) (a n : Nat) : (s.answerRig r a n).Forms := h.congr rfl

theorem State.Act.loads {fill win : Bool} (h : State.Act fill win s t) : t.cache.loads = s.cache.loads := by
  cases h with
  | _ => rfl

theorem State.Act.sup {fill win : Bool} (h : State.Act fill win s t) : t.sup = s.sup := congrArg Helm.sup h.helm

/-- What is left once a port has gone on: in form, with the teardown as it was, and no load for a port that had none. -/
structure State.GoesOn (r : Rig) (s t : State) : Prop where
  forms : t.Forms
  teardown : t.sup.teardown = s.sup.teardown
  other : ∀ p, p ≠ r → s.cache.Unawaited p → t.cache.Unawaited p

theorem State.Forms.serve (r : Rig) : ∀ (qs : List RigRequest) {s : State}, s.Forms → s.sup.teardown = none →
    s.cache.Unawaited r → State.GoesOn r s (s.serve r qs)
  | [], _, h, _, hf => ⟨h.setPort r (fun _ => hf), rfl, fun _ _ hp => hp⟩
  | .read x n :: qs, s, h, ht, hf =>
    have hrest := State.Forms.serve r qs (h.answerRig r x n) ht hf
    ⟨hrest.forms, hrest.teardown, hrest.other⟩
  | .write w :: qs, s, h, ht, hf => by
    unfold State.serve
    split
    · exact State.Forms.serve r qs h ht hf
    · split
      next k _ =>
        have hacts : s.Acts true true (s.handleLaneWrite k r w) := (State.Acts.refl s).handleLaneWrite rfl k r w
        have hloads := hacts.keeps (m := fun s => s.cache.loads) State.Act.loads
        have hsup := hacts.keeps (m := State.sup) State.Act.sup
        have hkept : ∀ {p : Rig}, s.cache.Unawaited p → (s.handleLaneWrite k r w).cache.Unawaited p := fun hp q hq =>
          hp q (hloads ▸ hq)
        have hrest := State.Forms.serve r qs (h.acts hacts) (by rw [hsup]; exact ht) (hkept hf)
        exact ⟨hrest.forms, hrest.teardown.trans (by rw [hsup]), fun p hp hu => hrest.other p hp (hkept hu)⟩
      next c l _ _ _ =>
        have hheld := h.setPort r (qs := .write w :: qs) nofun
        have hport : (s.setPort r (.write w :: qs)).cache.ports.get r ≠ [] := by
          rw [State.setPort, PerRig.get_set_eq]
          nofun
        refine ⟨hheld.withCache (hheld.bare.loads.ask ht hf hport c l) (fun k => ?_) ?_, rfl, fun p hp hu =>
          Cache.Unawaited.ask (x := (s.setPort r (.write w :: qs)).cache) hu hp c l⟩
        · rw [Cache.context_askLoad]
          exact hheld.bare.lists k
        · exact (Cache.sends_askLoad _ c r l).imp_right fun hs => ⟨hs.1, _, hs.2⟩

/-- A port with nothing held waits for no load. -/
theorem State.Forms.unawaited (h : s.Forms) (hr : s.cache.ports.get r = []) : s.cache.Unawaited r := h.bare.loads.held r hr

theorem State.Forms.rigWrite (h : s.Forms) (ho : s.Order) (r : Rig) (w : RigWrite) : (s.rigWrite r w).Forms := by
  unfold State.rigWrite State.rigRequest
  split
  next hc =>
    have ht : s.sup.teardown = none := by
      refine Classical.byContradiction fun hn => ?_
      exact nomatch hc.symm.trans (ho.teardown hn).1
    split
    next he => exact (State.Forms.serve r _ h ht (h.unawaited (List.isEmpty_iff.1 he))).forms
    · exact h.setPort r (fun hn => absurd hn (List.append_ne_nil_of_right_ne_nil _ nofun))
  · exact h

theorem State.Forms.rigRead (h : s.Forms) (r : Rig) (x n : Nat) : (s.rigRequest r (.read x n)).Forms := by
  unfold State.rigRequest
  split
  next he => exact (h.answerRig r x n).setPort r (fun _ => h.unawaited (List.isEmpty_iff.1 he))
  · exact h.setPort r (fun hn => absurd hn (List.append_ne_nil_of_right_ne_nil _ nofun))

/-! ### The end of a load (R57 to R61) -/

/-- The ports that waited go on, each with no load that it waits for. -/
theorem State.Forms.resumePorts (h : s.Forms)
    (hw : ∀ r, q.waiting.get r = true → s.sup.teardown = none ∧ s.cache.Unawaited r) : (s.resumePorts q).Forms := by
  have hfirst : State.GoesOn .rig1 s (s.resumePort q .rig1) := by
    unfold State.resumePort
    split
    next hr => exact State.Forms.serve .rig1 _ h (hw .rig1 hr).1 (hw .rig1 hr).2
    · exact ⟨h, rfl, fun _ _ hp => hp⟩
  unfold State.resumePorts
  rw [State.resumePort]
  split
  next hr =>
    obtain ⟨ht, hu⟩ := hw .rig2 hr
    exact (State.Forms.serve .rig2 _ hfirst.forms (hfirst.teardown.trans ht) (hfirst.other .rig2 nofun hu)).forms
  · exact hfirst.forms

/-- Only in a show does a port wait for a load. -/
theorem State.Order.teardown_of_waiting (ho : s.Order) (h : LoadsForm s.sup.teardown s.cache) (hq : q ∈ s.cache.loads)
    (hw : q.waiting.get r = true) : s.sup.teardown = none := by
  refine Classical.byContradiction fun hn => ?_
  have hempty : s.cache.ports.get r = [] := by
    rw [ho.ports (ho.teardown hn).1]
    cases r <;> rfl
  exact nomatch hw.symm.trans (h.held r hempty q hq)

theorem State.Forms.countStray (h : s.Forms) (r : Rig) : (s.countStray r).Forms := by
  obtain ⟨x, hx⟩ := s.countStray_only r
  rw [hx]
  exact h.withCache (h.bare.loads.congr rfl rfl rfl) h.bare.lists (.inl rfl)

theorem State.loads_countStray (s : State) (r : Rig) : (s.countStray r).cache.loads = s.cache.loads := by
  obtain ⟨x, hx⟩ := s.countStray_only r
  rw [hx]

theorem State.sup_countStray (s : State) (r : Rig) : (s.countStray r).sup = s.sup := by
  obtain ⟨x, hx⟩ := s.countStray_only r
  rw [hx]

/-- A held write is dropped: the requests stay, and the teardown. -/
theorem State.dropHeld_keeps (s : State) (q : LoadRequest) (u : Bool) (r : Rig) :
    (s.dropHeld q u r).cache.loads = s.cache.loads ∧ (s.dropHeld q u r).sup = s.sup := by
  unfold State.dropHeld
  split
  · cases u with
    | true => exact ⟨s.loads_countStray r, s.sup_countStray r⟩
    | false => exact ⟨rfl, rfl⟩
  · exact ⟨rfl, rfl⟩

theorem State.Forms.dropHeld (h : s.Forms) (u : Bool) (hr : q.waiting.get r = true → s.cache.Unawaited r) :
    (s.dropHeld q u r).Forms := by
  have hcounted : (if u then s.countStray r else s).Forms ∧ (if u then s.countStray r else s).cache.loads = s.cache.loads := by
    cases u with
    | true => exact ⟨h.countStray r, s.loads_countStray r⟩
    | false => exact ⟨h, rfl⟩
  unfold State.dropHeld
  split
  next hw => exact hcounted.1.setPort r fun _ o ho => hr hw o (hcounted.2 ▸ ho)
  · exact h

theorem State.Forms.close (h : s.Forms) {c : Nat} (hc : CacheSend.read c ∉ s.cache.sends) :
    State.Forms { s with cache := s.cache.closeRequest c } := h.withCache (h.bare.loads.close hc) h.bare.lists (.inl rfl)

theorem State.Forms.abandonLoad (h : s.Forms) (ho : s.Order) (hq : q ∈ s.cache.loads)
    (hc : CacheSend.read q.channel ∉ s.cache.sends) (u : Bool) : (s.abandonLoad q u).Forms := by
  have hfree : ∀ r, q.waiting.get r = true → (s.cache.closeRequest q.channel).Unawaited r := fun r hr =>
    h.bare.loads.unawaited_close hq hr
  have hclosed := h.close hc
  unfold State.abandonLoad
  generalize hs : ({ s with cache := s.cache.closeRequest q.channel } : State) = closed at hclosed ⊢
  have hloads : closed.cache = s.cache.closeRequest q.channel := by rw [← hs]
  have hsup : closed.sup = s.sup := by rw [← hs]
  obtain ⟨hl1, hs1⟩ := closed.dropHeld_keeps q u .rig1
  obtain ⟨hl2, hs2⟩ := (closed.dropHeld q u .rig1).dropHeld_keeps q u .rig2
  have hdropped : (closed.dropHeld q u .rig1).Forms := hclosed.dropHeld u fun hr => hloads ▸ hfree .rig1 hr
  have hboth : ((closed.dropHeld q u .rig1).dropHeld q u .rig2).Forms :=
    hdropped.dropHeld u fun hr o ho' => hfree .rig2 hr o (by rw [← hloads, ← hl1]; exact ho')
  refine hboth.resumePorts fun r hr => ⟨?_, fun o ho' => hfree r hr o ?_⟩
  · rw [hs2, hs1, hsup]
    exact ho.teardown_of_waiting h.bare.loads hq hr
  · rw [← hloads, ← hl1, ← hl2]
    exact ho'

/-- The accesses left in flight are the last of those there were, and begin with a write-back. -/
theorem State.sends_takeSends : ∀ (sends : List CacheSend) (s : State),
    WritebackFirst (s.takeSends sends).cache.sends ∧ (s.takeSends sends).cache.sends <:+ sends
  | [], _ => ⟨.nil, List.suffix_rfl⟩
  | .cached _ _ :: rest, _ => (State.sends_takeSends rest _).imp_right fun h => h.trans (List.suffix_cons _ _)
  | .read _ :: rest, s => (State.sends_takeSends rest s).imp_right fun h => h.trans (List.suffix_cons _ _)
  | .writeback k :: rest, _ =>
    ⟨fun y ys hy => ⟨k, by injection hy with hy; exact hy.symm⟩, List.suffix_rfl⟩

/-- The accesses up to the first write-back are taken. -/
theorem State.Bare.takeSends (h : s.Bare) {sends : List CacheSend}
    (hr : ∀ c, CacheSend.read c ∈ sends → ∃ q ∈ s.cache.loads, q.channel = c ∧ q.stage = .reading)
    (hw : 0 < s.landed.writeback → (∃ k rest, sends = .writeback k :: rest) ∧ s.landed.writeback < 8) :
    (s.takeSends sends).Forms := by
  obtain ⟨hfirst, hsuffix⟩ := State.sends_takeSends sends s
  have hne : 0 < s.landed.writeback → (s.takeSends sends).cache.sends ≠ [] := fun hpos => by
    obtain ⟨⟨k, rest, rfl⟩, -⟩ := hw hpos
    exact List.cons_ne_nil _ _
  rw [State.takeSends_frame]
  refine ⟨⟨h.jobs, ⟨h.loads.waits, h.loads.oneLoad, h.loads.held, h.loads.twoLoads,
    fun c hc => hr c (hsuffix.subset hc), h.loads.channels, h.loads.writtenBack⟩, h.lists, h.notices, h.burst,
    h.counted.congr rfl rfl rfl id rfl⟩, ⟨hfirst, fun hpos => ⟨hne hpos, (hw hpos).2⟩⟩⟩

theorem Context.rising_nil {x : Context} (h : x.lists = ⟨[], []⟩) : x.Rising := fun r => by
  rw [h]
  cases r <;> exact List.Pairwise.nil

theorem Cache.rising_modifyContext {x : Cache} (h : ∀ k, (x.context k).Rising) {k : Nat} {f : Context → Context}
    (hf : (f (x.context k)).Rising) (i : Nat) : ((x.modifyContext k f).context i).Rising := by
  have hget : (x.modifyContext k f).context i = if i = k then f (x.context k) else x.context i := Table.get_set _ _ _ _ _
  rw [hget]
  split
  · exact hf
  · exact h i

theorem Cache.context_filled (x : Cache) (q : LoadRequest) (k : Nat) (d : DirEntry) (n i : Nat) :
    (x.filled q k d n).context i = (x.modifyContext k (fun _ => Context.loaded q.channel d n)).context i := rfl

theorem LoadsForm.filled {td : Option Teardown} {x : Cache} (h : LoadsForm td x) (hc : CacheSend.read q.channel ∉ x.sends)
    (k : Nat) (d : DirEntry) (n : Nat) : LoadsForm td (x.filled q k d n) := (h.close hc).congr rfl rfl rfl

theorem State.Bare.completeLoad (h : s.Bare) (ho : s.Order) (hq : q ∈ s.cache.loads)
    (hc : CacheSend.read q.channel ∉ s.cache.sends)
    (hw : 0 < s.landed.writeback → (∃ k rest, s.cache.sends = .writeback k :: rest) ∧ s.landed.writeback < 8)
    (k : Nat) (d : DirEntry) : (s.completeLoad q k d).Forms := by
  have hclosed := h.loads.filled hc k d s.part.period
  have hfilled : State.Bare { s with cache := s.cache.filled q k d s.part.period } :=
    h.withCache hclosed fun i => by
      rw [Cache.context_filled]
      exact Cache.rising_modifyContext h.lists (Context.rising_nil rfl) i
  have htaken := hfilled.takeSends (sends := s.cache.sends ++ [CacheSend.cached q.channel d])
    (fun c hr => hclosed.reads c ((List.mem_append.1 hr).resolve_right fun hn => nomatch List.mem_singleton.1 hn))
    (fun hpos => by
      obtain ⟨⟨i, rest, hs⟩, hlt⟩ := hw hpos
      rw [hs]
      exact ⟨⟨i, _, rfl⟩, hlt⟩)
  unfold State.completeLoad
  refine htaken.resumePorts fun r hr => ?_
  rw [State.takeSends_frame]
  exact ⟨ho.teardown_of_waiting h.loads hq hr, h.loads.unawaited_close hq hr⟩

/-- Words are counted of a write-back that stands first. -/
theorem State.Sending.writeback (h : s.Sending) (hpos : 0 < s.landed.writeback) :
    (∃ k rest, s.cache.sends = .writeback k :: rest) ∧ s.landed.writeback < 8 := by
  obtain ⟨hne, hlt⟩ := h.counted hpos
  refine ⟨?_, hlt⟩
  cases hs : s.cache.sends with
  | nil => exact absurd hs hne
  | cons y ys =>
    obtain ⟨k, rfl⟩ := h.first y ys hs
    exact ⟨k, ys, rfl⟩

theorem Cache.context_evict (x : Cache) (k c : Nat) (d : DirEntry) (i : Nat) :
    (x.evict k c d).context i = (x.modifyContext k (fun y => { y with residence := .evicting })).context i := rfl

theorem State.Forms.evict (h : s.Forms) {c : Nat} (hc : CacheSend.read c ∉ s.cache.sends) (k : Nat) (d : DirEntry) :
    State.Forms { s with cache := { s.cache.evict k c d with exhaustReported := false } } := by
  have hsends : (s.cache.evict k c d).sends = s.cache.sends ++ [CacheSend.writeback k] := rfl
  refine ⟨h.bare.withCache ((h.bare.loads.evict hc k d).congr rfl rfl rfl) fun i => ?_, ⟨?_, fun hpos => ⟨?_, (h.sending.counted hpos).2⟩⟩⟩
  · show ((s.cache.evict k c d).context i).Rising
    rw [Cache.context_evict]
    exact Cache.rising_modifyContext h.bare.lists (h.bare.lists k) i
  · show WritebackFirst (s.cache.evict k c d).sends
    rw [hsends]
    by_cases hn : s.cache.sends = []
    · rw [hn]
      rintro y ys hy
      injection hy with hy
      exact ⟨k, hy.symm⟩
    · exact h.sending.first.append hn _
  · show (s.cache.evict k c d).sends ≠ []
    rw [hsends]
    exact List.append_ne_nil_of_right_ne_nil _ nofun

theorem State.Forms.setContextExhausted (h : s.Forms) (v : Bool) : (s.setContextExhausted v).Forms :=
  h.withCache (h.bare.loads.congr rfl rfl rfl) h.bare.lists (.inl rfl)

/-- Reports leave the requests and the accesses in flight. -/
theorem State.reportContextExhausted_keeps (s : State) (q : LoadRequest) (d : DirEntry) :
    (s.reportContextExhausted q d).cache.loads = s.cache.loads ∧ (s.reportContextExhausted q d).cache.sends = s.cache.sends := by
  unfold State.reportContextExhausted
  split
  · exact ⟨rfl, rfl⟩
  · exact ⟨rfl, rfl⟩

theorem State.Forms.reportContextExhausted (h : s.Forms) (q : LoadRequest) (d : DirEntry) :
    (s.reportContextExhausted q d).Forms := by
  unfold State.reportContextExhausted
  split
  · exact h
  · exact (h.quiet ((State.Acts.refl s).post _ _ _)).setContextExhausted true

theorem State.Order.reportContextExhausted (h : s.Order) (q : LoadRequest) (d : DirEntry) :
    (s.reportContextExhausted q d).Order := by
  unfold State.reportContextExhausted
  split
  · exact h
  · exact (h.quiet ((State.Acts.refl s).post _ _ _)).withCache rfl rfl

theorem State.Forms.stage2 (h : s.Forms) (ho : s.Order) (hq : q ∈ s.cache.loads)
    (hc : CacheSend.read q.channel ∉ s.cache.sends) (d : DirEntry) : (s.stage2 q d).Forms := by
  unfold State.stage2
  split
  next k _ =>
    have hreset := h.setContextExhausted false
    have horder : (s.setContextExhausted false).Order := ho.withCache rfl rfl
    exact hreset.bare.completeLoad horder hq hc hreset.sending.writeback k d
  · split
    · exact h.evict hc _ d
    · obtain ⟨hl, hs⟩ := s.reportContextExhausted_keeps q d
      exact (h.reportContextExhausted q d).abandonLoad (ho.reportContextExhausted q d) (hl ▸ hq) (hs ▸ hc) false

/-- The load whose read is answered: its read is no longer in flight. -/
theorem Cache.answerable_spec {x : Cache} {c : Nat} (h : x.answerable c = some q) :
    q ∈ x.loads ∧ CacheSend.read q.channel ∉ x.sends := by
  unfold Cache.answerable at h
  split at h
  · nomatch h
  next hc =>
    have hmem := List.mem_of_find?_eq_some h
    have hq := List.find?_some h
    simp only [Bool.and_eq_true, beq_iff_eq] at hq
    exact ⟨hmem, hq.1 ▸ hc⟩

theorem State.Forms.loadReadDone (h : s.Forms) (ho : s.Order) {c : Nat} (hq : s.cache.answerable c = some q) (e : Bool) :
    (s.loadReadDone q e).Forms := by
  obtain ⟨hmem, hc⟩ := Cache.answerable_spec hq
  unfold State.loadReadDone
  split
  · have hacts : s.Acts false true (s.post none (some q.starter) (.memoryFaultLoad q.channel)) := (State.Acts.refl s).post _ _ _
    exact (h.quiet hacts).abandonLoad (ho.quiet hacts) hmem hc false
  · split
    · exact h.stage2 ho hmem hc _
    · exact h.abandonLoad ho hmem hc true

end

end Sys2Proof.Machine
end

section
/-! # Every step keeps the shape of the queues: evictions, the teardown, the jobs and the command ring -/

namespace Sys2Proof.Machine

section
variable {s t : State} {q : LoadRequest} {j : BlendJob} {js : List BlendJob}

/-! ### The end of an eviction (R60, R61) -/

theorem State.Counted.withLanded (h : s.Counted) {x : Landed}
    (hn : x.notice = s.landed.notice ∨ x.notice = 0) (hr : x.result = s.landed.result ∨ x.result = 0)
    (hb : x.blend = s.landed.blend ∨ x.blend = 0) (hz : x.zeroBucket = s.landed.zeroBucket)
    (hd : x.directory = s.landed.directory) (hl : x.liveDirectory = s.landed.liveDirectory) :
    State.Counted { s with landed := x } := by
  constructor
  case notice =>
    intro hpos
    rcases hn with hn | hn <;> rw [hn] at hpos ⊢
    · exact h.notice hpos
    · nomatch hpos
  case result =>
    intro hpos
    rcases hr with hr | hr <;> rw [hr] at hpos ⊢
    · exact h.result hpos
    · nomatch hpos
  case blend =>
    intro hpos
    rcases hb with hb | hb <;> rw [hb] at hpos ⊢
    · exact h.blend hpos
    · nomatch hpos
  case take => rw [hz, hd, hl]; exact h.take
  case regions => rw [hz, hd, hl]; exact h.regions

theorem Cache.context_startRead (x : Cache) (d k : Nat) : (x.startRead d).context k = x.context k := by
  have hctx : (x.startRead d).contexts = x.contexts := by
    unfold Cache.startRead
    dsimp only
    split
    · rw [Cache.contexts_sendRead]
    · rfl
  rw [Cache.context, Cache.context, hctx]

theorem State.Bare.written (h : s.Bare) (d : Nat) : (s.writebackTaken.writebackDone d).Bare := by
  have htail : LoadsForm s.sup.teardown { s.cache with sends := s.cache.sends.tail } :=
    ⟨h.loads.waits, h.loads.oneLoad, h.loads.held, h.loads.twoLoads,
      fun c hc => h.loads.reads c (List.mem_of_mem_tail hc), h.loads.channels, h.loads.writtenBack⟩
  refine ⟨h.jobs, htail.startRead d, fun k => ?_, h.notices, h.burst,
    State.Counted.congr (h.counted.withLanded (x := { s.landed with writeback := 0 }) (.inl rfl) (.inl rfl) (.inl rfl) rfl rfl rfl)
      rfl rfl rfl id rfl⟩
  show ((Cache.startRead { s.cache with sends := s.cache.sends.tail } d).context k).Rising
  rw [Cache.context_startRead]
  exact h.lists k

theorem Cache.evictingRequest_spec {x : Cache} {k : Nat} {d : DirEntry} (h : x.evictingRequest k = some (q, d)) :
    q ∈ x.loads ∧ q.stage = .evicting k d := by
  obtain ⟨o, ho, hod⟩ := List.exists_of_findSome?_eq_some h
  split at hod
  next i e he =>
    split at hod
    next hi =>
      obtain ⟨rfl, rfl⟩ := Prod.mk.inj (Option.some.inj hod)
      exact ⟨ho, hi ▸ he⟩
    · nomatch hod
  · nomatch hod

/-- The load of an eviction has no read in flight. -/
theorem LoadsForm.read_not_mem {td : Option Teardown} {x : Cache} (h : LoadsForm td x) (hq : q ∈ x.loads)
    (hs : q.stage ≠ .reading) : CacheSend.read q.channel ∉ x.sends := by
  intro hc
  obtain ⟨o, ho, hoc, hos⟩ := h.reads _ hc
  have hsame : o = q := eq_of_countP_le_one (countP_channel_le h.channels q.channel) ho hq (beq_iff_eq.2 hoc) (beq_self_eq_true _)
  exact hs (hsame ▸ hos)

theorem State.Forms.evictionEnds (h : s.Forms) (ho : s.Order) (k : Nat) : (s.evictionEnds k).Forms := by
  have hbare := h.bare.written (s.context k).channel
  have horder := ho.written (s.context k).channel
  have hzero : (s.writebackTaken.writebackDone (s.context k).channel).landed.writeback = 0 := rfl
  unfold State.evictionEnds
  dsimp only
  split
  · have htaken := hbare.takeSends hbare.loads.reads fun hpos => nomatch (hzero ▸ hpos)
    exact htaken.quiet ((State.Acts.refl _).modifyContext fun _ => Context.rising_nil rfl)
  next o d hq =>
    obtain ⟨hmem, hstage⟩ := Cache.evictingRequest_spec hq
    have hin : o ∈ (s.writebackTaken.writebackDone (s.context k).channel).cache.loads :=
      Cache.mem_startRead { s.cache with sends := s.cache.sends.tail } hmem (by rw [hstage]; nofun)
    exact hbare.completeLoad horder hin (hbare.loads.read_not_mem hin (by rw [hstage]; nofun))
      (fun hpos => nomatch (hzero ▸ hpos)) k d

/-! ### The teardown (R15) -/

/-- The teardown goes on to a stage, with the requests as they are. -/
theorem State.Forms.setTeardown (h : s.Forms) {td : Option Teardown} (hl : LoadsForm td s.cache) : (s.setTeardown td).Forms :=
  ⟨⟨h.bare.jobs, hl, h.bare.lists, h.bare.notices, h.bare.burst, h.bare.counted.congr rfl rfl rfl id rfl⟩,
    h.sending.congr rfl rfl⟩

theorem LoadsForm.waiting {td : Option Teardown} {x : Cache} (h : LoadsForm td x) : LoadsForm (some .waitingLoads) x :=
  ⟨nofun, h.oneLoad, h.held, h.twoLoads, h.reads, h.channels, nofun⟩

theorem State.Forms.dropShow (h : s.Forms) : s.dropShow.Forms := by
  rw [State.dropShow_eq]
  refine ⟨⟨h.bare.jobs, h.bare.loads.congr rfl rfl rfl, fun k => ?_, h.bare.notices, h.bare.burst,
    h.bare.counted.congr rfl rfl rfl id rfl⟩, h.sending.congr rfl rfl⟩
  have hget : Table.get Context.initial (Table.map Context.initial Context.dropped s.cache.contexts) k = (s.context k).dropped :=
    Table.get_map Context.dropped_initial k s.cache.contexts
  refine Context.rising_nil ?_
  show (Table.get Context.initial (Table.map Context.initial Context.dropped s.cache.contexts) k).lists = ⟨[], []⟩
  rw [hget]
  rfl

theorem State.Forms.invalidateContexts (h : s.Forms) : s.invalidateContexts.Forms := by
  unfold State.invalidateContexts
  split
  next hn =>
    have hloads := List.isEmpty_iff.1 hn
    have hfree := h.bare.loads.congr (y := { s.cache with contexts := [], channelMap := [], lru := [] }) rfl rfl rfl
    have hdropped : State.Forms { s with cache := { s.cache with contexts := [], channelMap := [], lru := [] } } :=
      h.withCache hfree (fun _ => Context.rising_nil rfl) (.inl rfl)
    exact hdropped.setTeardown (hfree.free hloads _)
  · exact h

theorem State.Forms.advanceTeardown (h : s.Forms) : s.advanceTeardown.Forms := by
  unfold State.advanceTeardown
  split
  · exact h
  · split
    · exact (h.dropShow.setTeardown h.dropShow.bare.loads.waiting).invalidateContexts
    · exact h
  · exact h.invalidateContexts
  · exact h

/-- Steps 1 and 2 of a teardown (R15). -/
theorem State.Forms.torn (h : s.Forms) : s.torn.Forms := by
  rw [State.torn_eq]
  exact ⟨⟨h.bare.jobs.flushed, h.bare.loads.torn rfl rfl, h.bare.lists, h.bare.notices, h.bare.burst,
    h.bare.counted.congr rfl rfl rfl (fun ho => ho.flushed h.bare.jobs) rfl⟩, h.sending.congr rfl rfl⟩

theorem State.Forms.beginTeardown (h : s.Forms) : s.beginTeardown.Forms := h.torn.advanceTeardown

/-! ### Jobs that end (R108, R111, R112, R114, R115) -/

theorem State.Forms.dropHead (h : s.Forms) (hz : s.landed.blend = 0) : s.dropHead.Forms := by
  have hc : State.Counted s.dropHead :=
    ⟨h.bare.counted.notice, h.bare.counted.result, fun hpos => absurd hpos (by rw [State.dropHead, hz]; exact Nat.lt_irrefl 0),
      h.bare.counted.take, h.bare.counted.regions⟩
  exact ⟨⟨h.bare.jobs.tail, h.bare.loads, h.bare.lists, h.bare.notices, h.bare.burst, hc⟩, h.sending.congr rfl rfl⟩

theorem State.Forms.landOutput (h : s.Forms) (j : BlendJob) : (s.landOutput j).Forms :=
  ⟨⟨h.bare.jobs, h.bare.loads, h.bare.lists, h.bare.notices, h.bare.burst,
    State.Counted.congr (h.bare.counted.withLanded (x := { s.landed with blend := 0 }) (.inl rfl) (.inl rfl) (.inr rfl) rfl rfl rfl)
      rfl rfl rfl id rfl⟩, ⟨h.sending.first, h.sending.counted⟩⟩

theorem State.Forms.claim (h : s.Forms) {f : Pool → Pool} (hf : s.pool.Claims (f s.pool)) : (s.claim f).Forms :=
  h.quiet ((State.Acts.refl s).claim hf)

theorem State.Forms.flushHead (h : s.Forms) (hz : s.landed.blend = 0) (j : BlendJob) : (s.flushHead j).Forms :=
  ((h.dropHead hz).claim ((Pool.Claims.refl _).flushJob j)).advanceTeardown

theorem State.Forms.drainHead (h : s.Forms) (hz : s.landed.blend = 0) (j : BlendJob) : (s.drainHead j).Forms :=
  ((h.dropHead hz).claim ((Pool.Claims.refl _).drainJob j)).advanceTeardown

theorem State.landed_landOutput (s : State) (j : BlendJob) : (s.landOutput j).landed.blend = 0 := rfl

theorem State.Forms.completeHead (h : s.Forms) (j : BlendJob) : (s.completeHead j).Forms := by
  have hland := h.landOutput j
  unfold State.completeHead
  split
  · exact hland.flushHead (s.landed_landOutput j) j
  · exact ((hland.claim ((Pool.Claims.refl _).completeJob j)).dropHead (s.landed_landOutput j)).quiet
      ((State.Acts.refl _).jobCompleted _ _)

/-- No word is taken of an output that the running job has not. -/
theorem State.Forms.landed_blend (h : s.Forms) (hb : s.blend = j :: js) (hs : j.samples = none) : s.landed.blend = 0 := by
  refine Classical.byContradiction fun hne => ?_
  obtain ⟨-, i, rest, hi, hsome⟩ := h.bare.counted.blend (Nat.pos_of_ne_zero hne)
  rw [hb] at hi
  injection hi with hi
  exact hsome (hi ▸ hs)

theorem State.Forms.readError (h : s.Forms) (hb : s.blend = j :: js) (i : BlendInput) : (s.readError j i).Forms := by
  unfold State.readError State.failJob
  split
  next hp =>
    have hz := h.landed_blend hb ((h.bare.jobs.samples j (hb ▸ List.mem_cons_self)).1 (.inr hp))
    split
    · exact h.flushHead hz j
    · exact ((h.dropHead hz).claim ((Pool.Claims.refl _).cancelJob j)).quiet
        (((State.Acts.refl _).jobCancelled _ _ _ _).post _ _ _)
  · split
    next hd => exact h.drainHead (h.landed_blend hb (Option.isNone_iff_eq_none.1 hd.2)) j
    · exact h

theorem State.Forms.readingDone (h : s.Forms) (hb : s.blend = j :: js) (hr : j.reads = true) :
    State.Forms { s with blend := j.computed (s.jobSamples j) :: js } :=
  ⟨⟨(hb ▸ h.bare.jobs).computed hr (s.length_jobSamples j), h.bare.loads, h.bare.lists, h.bare.notices, h.bare.burst,
    h.bare.counted.congr rfl rfl rfl (fun _ => ⟨_, _, rfl, nofun⟩) rfl⟩, h.sending.congr rfl rfl⟩

theorem State.Forms.blendDeadline (h : s.Forms) : s.blendDeadline.Forms := by
  unfold State.blendDeadline
  split
  · have hqueue : State.Forms { s with blend := startHead (s.blend.filterMap (BlendJob.atDeadline s.part.period)) } :=
      ⟨⟨h.bare.jobs.deadline _, h.bare.loads, h.bare.lists, h.bare.notices, h.bare.burst,
        h.bare.counted.congr rfl rfl rfl (fun ho => ho.deadline h.bare.jobs _) rfl⟩, h.sending.congr rfl rfl⟩
    exact hqueue.quiet (State.Acts.foldl (win := true) (fun j h => h.deadlineJob j) _ (.refl _))
  · exact h

/-! ### The command ring (R171) -/

/-- The Command Unit changes while it writes no result. -/
theorem State.Forms.modifyCommand (h : s.Forms) (hp : s.sup.command.phase ≠ .writing) (f : CommandUnit → CommandUnit) :
    (s.modifyCommand f).Forms :=
  ⟨⟨h.bare.jobs, h.bare.loads, h.bare.lists, h.bare.notices, h.bare.burst,
    ⟨h.bare.counted.notice, fun hpos => absurd (h.bare.counted.result hpos).1 hp, h.bare.counted.blend, h.bare.counted.take,
      h.bare.counted.regions⟩⟩, h.sending.congr rfl rfl⟩

theorem State.Forms.answerCommand (h : s.Forms) (hp : s.sup.command.phase = .executing) (r : ResultCode) (d : List Word) :
    (s.answerCommand r d).Forms := h.modifyCommand (by rw [hp]; nofun) _

theorem State.Forms.withMem (h : s.Forms) (m : Memory) : State.Forms { s with mem := m } := h.congr rfl

theorem State.Forms.writeDirEntry (h : s.Forms) (c : Nat) (d : DirEntry) : (s.writeDirEntry c d).Forms := h.withMem _

theorem State.Forms.configure (h : s.Forms) (b : BridgeSettings) : (s.configure b).Forms :=
  ⟨⟨h.bare.jobs, h.bare.loads.congr rfl rfl rfl, h.bare.lists, h.bare.notices, h.bare.burst,
    h.bare.counted.congr rfl rfl rfl id rfl⟩, h.sending.congr rfl rfl⟩

theorem State.Forms.onArm (h : s.Forms) (b : Nat) : (s.onArm b).Forms :=
  ⟨⟨h.bare.jobs, h.bare.loads.congr rfl rfl rfl, h.bare.lists, h.bare.notices, h.bare.burst,
    h.bare.counted.congr rfl rfl rfl id rfl⟩, h.sending.congr rfl rfl⟩

theorem State.Acts.sup_eq {fill win : Bool} (h : s.Acts fill win t) : t.sup = s.sup := h.keeps (m := State.sup) State.Act.sup

theorem State.Forms.commandAct {c : Instr} (h : s.Forms) (he : s.executing = true) (hact : s.CommandAct c t) : t.Forms := by
  obtain ⟨hp, -, -⟩ := State.executing_iff.1 he
  cases hact with
  | acts hacts hm r d => exact (h.acts hacts).answerCommand (by rw [hacts.sup_eq]; exact hp) r d
  | await w => exact h.modifyCommand (by rw [hp]; nofun) _
  | configure hs b d => exact (h.configure b).answerCommand hp _ _
  | undefine hs ch => exact (h.writeDirEntry ch DirEntry.undefined).answerCommand hp _ _
  | arm hs b d =>
    have hacts := State.Acts.arm (s := s) (b := b)
    exact ((h.onArm b).quiet hacts).answerCommand (by rw [hacts.sup_eq]; exact hp) _ _
  | teardown hc => exact h.beginTeardown
  | lock v => exact (h.congr (t := s.modifySup (fun u => { u with locked := v })) rfl).answerCommand hp _ _

theorem State.Forms.finishDefineChannel (h : s.Forms) (hp : s.sup.command.phase = .executing) : s.finishDefineChannel.Forms := by
  have hwritten := h.writeDirEntry s.cmdChannel ((s.dirEntry s.cmdChannel).redefined s.cmdGroup s.cmdKind)
  unfold State.finishDefineChannel
  exact hwritten.answerCommand hp _ _

theorem State.Forms.commandDirectoryRead (h : s.Forms) (hp : s.sup.command.phase = .executing) (e : Bool) :
    (s.commandDirectoryRead e).Forms := by
  unfold State.commandDirectoryRead
  split
  · exact h.answerCommand hp _ _
  · split
    · exact h.finishDefineChannel hp
    · exact h.answerCommand hp _ _

/-- The teardown ends once the last write-back is taken, with no load left. -/
theorem State.Forms.endTeardown (h : s.Forms) (ho : s.Order) {ws : List (Nat × List Word)}
    (hws : s.sup.teardown = some (.writingBack ws)) : (s.endTeardown ws).Forms := by
  obtain ⟨-, hp, -⟩ := ho.teardown (by rw [hws]; nofun)
  have hloads := h.bare.loads.writtenBack ws hws
  have hlanded : (State.setTeardown { s with mem := takeWrites s.mem ws } none).Forms :=
    (h.withMem (takeWrites s.mem ws)).setTeardown (h.bare.loads.free hloads none)
  have hrebuilt : ((State.setTeardown { s with mem := takeWrites s.mem ws } none).claim Pool.rebuild).Forms := hlanded.congr rfl
  have hacts : ((State.setTeardown { s with mem := takeWrites s.mem ws } none).claim Pool.rebuild).Acts false true
      ((s.definedGroups.foldl State.endGroup
        ((State.setTeardown { s with mem := takeWrites s.mem ws } none).claim Pool.rebuild)).setTallies) :=
    (State.Acts.foldl (f := State.endGroup) (fun _ h => (h.modifyGroup _ _).setHealth rfl _ _) _ (.refl _)).setTallies
  exact (hrebuilt.quiet hacts).answerCommand (by rw [hacts.sup_eq]; exact hp) _ _

end

end Sys2Proof.Machine
end

section
/-! # Every step keeps the shape of the queues: Go, the anchor take, the words taken and the Local Port -/

namespace Sys2Proof.Machine

section
variable {s t : State}

theorem State.Forms.ite (h : s.Forms) (p : Prop) [Decidable p] (ht : t.Forms) : (if p then t else s).Forms := by
  split
  · exact ht
  · exact h

theorem State.Forms.unlessHeld (h : s.Forms) (ht : t.Forms) : (s.unlessHeld t).Forms := by
  unfold State.unlessHeld
  split
  · exact h
  · exact ht

/-! ### The Supervisor Interface (R11, R165 to R170) -/

/-- The words that the Memory Port has taken of an anchor take. -/
def Landed.ofTake (x : Landed) : Nat := x.zeroBucket + x.directory + x.liveDirectory

/-- The Supervisor Interface changes, with the teardown as it was. -/
theorem State.Forms.withSup (h : s.Forms) {x : Supervisor} (ht : x.teardown = s.sup.teardown)
    (hp : 0 < s.landed.result → x.command.phase = .writing)
    (htake : 0 < s.landed.ofTake → ∃ a, x.take = some (.initialising a)) : State.Forms { s with sup := x } :=
  ⟨⟨h.bare.jobs, ht ▸ h.bare.loads, h.bare.lists, h.bare.notices, h.bare.burst,
    ⟨h.bare.counted.notice, fun hpos => ⟨hp hpos, (h.bare.counted.result hpos).2⟩, h.bare.counted.blend, htake,
      h.bare.counted.regions⟩⟩, h.sending.congr rfl rfl⟩

/-- Outside an anchor take no word of one is counted. -/
theorem State.Forms.ofTake_zero (h : s.Forms) (hn : ∀ a, s.sup.take ≠ some (.initialising a)) : ¬0 < s.landed.ofTake := fun hpos => by
  obtain ⟨a, ha⟩ := h.bare.counted.take hpos
  exact hn a ha

theorem State.Forms.phase_of_result (h : s.Forms) (hpos : 0 < s.landed.result) : s.sup.command.phase = .writing :=
  (h.bare.counted.result hpos).1

theorem State.Forms.startTake (h : s.Forms) (htake : s.sup.take = none) : s.startTake.Forms :=
  h.withSup rfl h.phase_of_result (fun hpos => absurd hpos (h.ofTake_zero (by rw [htake]; nofun)))

theorem State.Forms.goEvent (h : s.Forms) : s.goEvent.Forms := by
  unfold State.goEvent
  split
  · exact h.withMem _
  · split
    · exact h
    next hidle =>
      split
      · exact h.congr rfl
      · refine h.startTake ?_
        refine Classical.byContradiction fun hn => ?_
        exact hidle (.inl (Option.isSome_iff_ne_none.2 hn))

theorem State.Forms.resume (h : s.Forms) : (s.modifyCommand CommandUnit.resumed).Forms := by
  refine h.withSup rfl (fun hpos => ?_) h.bare.counted.take
  have hw := h.phase_of_result hpos
  have hbusy : ¬(s.sup.command.phase = .idle ∧ s.sup.command.target.isSome = true) := fun hn => nomatch hw.symm.trans hn.1
  show (CommandUnit.resumed s.sup.command).phase = .writing
  rw [CommandUnit.resumed, if_neg hbusy]
  exact hw

theorem State.Forms.requestStatus (h : s.Forms) : s.requestStatus.Forms := by
  rw [State.requestStatus_eq]
  exact h.congr rfl

theorem State.Forms.beginFollowUp (h : s.Forms) : s.beginFollowUp.Forms := by
  unfold State.beginFollowUp
  split
  · exact h
  · split
    · exact h.congr rfl
    · exact h

theorem State.Forms.deferredGo (h : s.Forms) (htake : s.sup.take = none) : s.deferredGo.Forms := by
  unfold State.deferredGo
  split
  · have hdropped : (s.modifySup (fun u => { u with goPending := false })).Forms := h.congr rfl
    exact (hdropped.withMem _).resume
  · exact h.startTake htake

theorem State.Forms.failTake (h : s.Forms) (htake : s.sup.take = some .reading) : s.failTake.Forms := by
  have hended : ((s.writeAnchorResult .badAnchor).modifySup (fun u => { u with take := none })).Forms :=
    (h.withMem (writeWord s.mem 4 (word ResultCode.badAnchor.code))).withSup (x := { s.sup with take := none }) rfl
      h.phase_of_result (fun hpos => absurd hpos (h.ofTake_zero (by rw [htake]; nofun)))
  exact hended.resume.beginFollowUp

/-- An anchor take begins with empty queues. -/
theorem State.Forms.initialise (h : s.Forms) (a : Anchor) : (s.initialise a).Forms :=
  ⟨⟨.nil, .of_none rfl (fun _ => List.not_mem_nil) _, fun _ => Context.rising_nil rfl, h.bare.notices, h.bare.burst,
    ⟨nofun, nofun, nofun, nofun, Nat.zero_le _, Nat.zero_le _, Nat.zero_le _⟩⟩, ⟨.nil, nofun⟩⟩

theorem State.Forms.anchorRead (h : s.Forms) (htake : s.sup.take = some .reading) (e : Bool) : (s.anchorRead e).Forms := by
  unfold State.anchorRead
  split
  · exact h.failTake htake
  · exact h.initialise _

theorem State.Forms.endTake (h : s.Forms) (ho : s.Order) {a : Anchor} (htake : s.sup.take = some (.initialising a)) :
    (s.endTake a).Forms := by
  obtain ⟨-, hp, -, -, hw, -⟩ := ho.takeAlone (by rw [htake]; nofun)
  unfold State.endTake
  refine State.Forms.requestStatus ?_
  generalize writeWord (landTake s.mem a s.landed 128 6144 131072) 4 (word ResultCode.done.code) = m
  refine ⟨⟨h.bare.jobs, h.bare.loads, h.bare.lists, Nat.zero_le _, h.bare.burst, ⟨fun hpos => ?_, fun hpos => ?_,
    h.bare.counted.blend, nofun, Nat.zero_le _, Nat.zero_le _, Nat.zero_le _⟩⟩, h.sending.first, h.sending.counted⟩
  · exact nomatch hw.symm.trans (h.bare.counted.notice hpos).1
  · exact nomatch hp.symm.trans (h.phase_of_result hpos)

theorem State.Forms.postRingFault (h : s.Forms) (why : RingReason) (k : Nat) : (s.postRingFault why k).Forms :=
  h.quiet ((State.Acts.refl s).post _ _ _)

theorem State.Forms.kick (h : s.Forms) (k : Nat) : (s.kick k).Forms := by
  unfold State.kick
  split
  · exact h.postRingFault _ _
  · split
    · exact h
    · refine h.withSup rfl (fun hpos => ?_) h.bare.counted.take
      have hw := h.phase_of_result hpos
      have hbusy : ∀ p : Prop, ¬(s.sup.command.phase = .idle ∧ p) := fun p hn => nomatch hw.symm.trans hn.1
      show (CommandUnit.kicked s.sup.command k _).phase = .writing
      rw [CommandUnit.kicked, if_neg (hbusy _)]
      exact hw

theorem State.Forms.stopFetch (h : s.Forms) (hf : s.sup.command.phase = .fetching) (why : RingReason) : (s.stopFetch why).Forms :=
  (h.postRingFault why _).modifyCommand (by rw [State.postRingFault, State.sup_post, hf]; nofun) _

theorem State.Forms.fetchDone (h : s.Forms) (hf : s.sup.command.phase = .fetching) (e : Bool) : (s.fetchDone e).Forms := by
  unfold State.fetchDone
  split
  · exact h.stopFetch hf _
  · split
    · exact h.modifyCommand (by rw [hf]; nofun) _
    · exact h.stopFetch hf _

theorem State.Forms.withLanded (h : s.Forms) (m : Memory) {x : Landed}
    (hn : x.notice = s.landed.notice ∨ x.notice = 0) (hr : x.result = s.landed.result ∨ x.result = 0)
    (hb : x.blend = s.landed.blend) (hw : x.writeback = s.landed.writeback) (hz : x.zeroBucket = s.landed.zeroBucket)
    (hd : x.directory = s.landed.directory) (hl : x.liveDirectory = s.landed.liveDirectory) :
    State.Forms { s with mem := m, landed := x } :=
  ⟨⟨h.bare.jobs, h.bare.loads, h.bare.lists, h.bare.notices, h.bare.burst,
    State.Counted.congr (h.bare.counted.withLanded hn hr (.inl hb) hz hd hl) rfl rfl rfl id rfl⟩,
    ⟨h.sending.first, fun hpos => by rw [hw] at hpos ⊢; exact h.sending.counted hpos⟩⟩

theorem State.Forms.resultWritten (h : s.Forms) : s.resultWritten.Forms := by
  have hlanded := h.withLanded (takeWrites s.mem s.resultInFlight) (x := { s.landed with result := 0 }) (.inl rfl) (.inr rfl)
    rfl rfl rfl rfl rfl
  unfold State.resultWritten
  dsimp only
  generalize hu : ({ s with mem := takeWrites s.mem s.resultInFlight, landed := { s.landed with result := 0 } } : State) = u
    at hlanded ⊢
  have hzero : u.landed.result = 0 := by rw [← hu]
  have hposted : u.postCommandDone.Forms ∧ u.postCommandDone.landed = u.landed := by
    unfold State.postCommandDone
    dsimp only
    split
    · exact ⟨hlanded.quiet ((State.Acts.refl u).post _ _ _), rfl⟩
    · exact ⟨hlanded, rfl⟩
  refine hposted.1.requestStatus.withSup rfl (fun hpos => ?_) hposted.1.requestStatus.bare.counted.take
  rw [State.requestStatus_eq, hposted.2, hzero] at hpos
  nomatch hpos

/-! ### The Notice Unit (R174, R175) -/

theorem State.Forms.withNotices (h : s.Forms) {u : NoticeUnit} (hq : u.queue.length ≤ 32)
    (hw : 0 < s.landed.notice → u.writing = true) : State.Forms { s with notices := u } :=
  ⟨⟨h.bare.jobs, h.bare.loads, h.bare.lists, hq, h.bare.burst,
    ⟨fun hpos => ⟨hw hpos, (h.bare.counted.notice hpos).2⟩, h.bare.counted.result, h.bare.counted.blend, h.bare.counted.take,
      h.bare.counted.regions⟩⟩, h.sending.congr rfl rfl⟩

theorem State.Forms.noticeReturn (h : s.Forms) (k : Nat) : (s.noticeReturn k).Forms := by
  unfold State.noticeReturn
  split
  · exact h.postRingFault _ _
  · split
    · exact h
    · split
      · exact h.postRingFault _ _
      · have hreturned : State.Forms { s with notices := s.notices.returned k s.noticeEntries } :=
          h.withNotices h.bare.notices fun hpos => (h.bare.counted.notice hpos).1
        exact hreturned.congr rfl

theorem State.Forms.noticeWriteBegin (h : s.Forms) : State.Forms { s with notices := { s.notices with writing := true } } :=
  h.withNotices h.bare.notices fun _ => rfl

theorem State.Forms.noticeWritten (h : s.Forms) : s.noticeWritten.Forms := by
  have hlanded := h.withLanded (takeWrites s.mem s.noticeInFlight) (x := { s.landed with notice := 0 }) (.inr rfl) (.inl rfl)
    rfl rfl rfl rfl rfl
  have hqueue : (s.notices.written s.noticeEntries s.milliseconds).queue.length ≤ 32 := by
    show s.notices.queue.tail.length ≤ 32
    rw [List.length_tail]
    exact Nat.le_trans (Nat.sub_le _ _) h.bare.notices
  have hwritten := hlanded.withNotices (u := s.notices.written s.noticeEntries s.milliseconds) hqueue nofun
  exact hwritten.congr rfl

theorem State.Forms.statusWritten (h : s.Forms) (w : StatusWrite) : (s.statusWritten w).Forms := by
  have hended : State.Forms { s with
      mem := writeWords s.mem w.base w.words
      sup := { s.sup with status := { s.sup.status with writing := none } } } := h.congr rfl
  unfold State.statusWritten
  dsimp only
  split
  · exact hended
  · exact hended.beginFollowUp

/-! ### Words taken of the writes in flight (R162) -/

theorem wordCount_afterWords (ws : List (Nat × List Word)) : ∀ n, wordCount (afterWords n ws) = wordCount ws - n := by
  induction ws with
  | nil => exact fun n => (Nat.zero_sub n).symm
  | cons w ws ih =>
    intro n
    have hcons : ∀ (v : Nat × List Word) vs, wordCount (v :: vs) = v.2.length + wordCount vs := fun _ _ => rfl
    rw [afterWords, hcons, hcons, ih, List.length_drop]
    omega

/-- The Memory Port leaves the last word of a write of `w` words, of which it has taken `l`. -/
theorem beforeLast_lt {l n w : Nat} {ws : List (Nat × List Word)} (hws : wordCount ws ≤ w) (hl : 0 < l → l < w)
    (hpos : 0 < l + beforeLast n (afterWords l ws)) : l + beforeLast n (afterWords l ws) < w := by
  rw [beforeLast, wordCount_afterWords] at hpos ⊢
  rcases Nat.eq_zero_or_pos l with rfl | h
  · omega
  · have := hl h
    omega

theorem Notice.wordCount_writes (n : Notice) (a : Nat) : wordCount (n.writes a) = 8 := by
  rw [← afterWords_zero (n.writes a), Notice.writes, wordCount_entry _ _ _ _ _ (Nat.zero_le _), Notice.length_restWords]

/-- A notice that is written has eight words; nothing else is in flight of the Notice Unit. -/
theorem State.noticeWrites_or (s : State) :
    s.noticeWrites = [] ∨ s.notices.writing = true ∧ wordCount s.noticeWrites = 8 := by
  unfold State.noticeWrites
  split
  · split
    next hw => exact .inr ⟨hw, Notice.wordCount_writes _ _⟩
    · exact .inl rfl
  · exact .inl rfl

theorem State.Forms.tookNotice (h : s.Forms) (n : Nat) : (s.took n .notice).Forms := by
  have hcount : 0 < s.landed.notice + beforeLast n s.noticeInFlight →
      s.notices.writing = true ∧ s.landed.notice + beforeLast n s.noticeInFlight < 8 := by
    intro hpos
    rw [State.noticeInFlight] at hpos ⊢
    rcases s.noticeWrites_or with hnone | ⟨hw, h8⟩
    · rw [hnone, afterWords, beforeLast_nil] at hpos ⊢
      exact h.bare.counted.notice hpos
    · exact ⟨hw, beforeLast_lt (Nat.le_of_eq h8) (fun hp => (h.bare.counted.notice hp).2) hpos⟩
  exact ⟨⟨h.bare.jobs, h.bare.loads, h.bare.lists, h.bare.notices, h.bare.burst,
    ⟨hcount, h.bare.counted.result, h.bare.counted.blend, h.bare.counted.take, h.bare.counted.regions⟩⟩,
    h.sending.first, h.sending.counted⟩

theorem CommandUnit.wordCount_resultWrites {u : CommandUnit} (h : u.resultData.length = 5) (e : Nat) :
    wordCount (u.resultWrites e) ≤ 7 := by
  unfold CommandUnit.resultWrites
  split
  · simp [wordCount, h]
  · simp [wordCount]

theorem State.Forms.tookResult (h : s.Forms) (ho : s.Order) (n : Nat) : (s.took n .result).Forms := by
  have hcount : 0 < s.landed.result + beforeLast n s.resultInFlight →
      s.sup.command.phase = .writing ∧ s.landed.result + beforeLast n s.resultInFlight < 7 := by
    intro hpos
    rw [State.resultInFlight] at hpos ⊢
    split at hpos
    next hw =>
      rw [if_pos hw]
      exact ⟨hw, beforeLast_lt (CommandUnit.wordCount_resultWrites (ho.result hw) _) (fun hp => (h.bare.counted.result hp).2) hpos⟩
    next hn =>
      rw [beforeLast_nil] at hpos
      exact absurd (h.phase_of_result hpos) hn
  exact ⟨⟨h.bare.jobs, h.bare.loads, h.bare.lists, h.bare.notices, h.bare.burst,
    ⟨h.bare.counted.notice, hcount, h.bare.counted.blend, h.bare.counted.take, h.bare.counted.regions⟩⟩,
    h.sending.first, h.sending.counted⟩

theorem State.Forms.tookWriteback (h : s.Forms) (n : Nat) : (s.took n .writeback).Forms := by
  have hcount : 0 < s.landed.writeback + beforeLast n s.writebackInFlight →
      s.cache.sends ≠ [] ∧ s.landed.writeback + beforeLast n s.writebackInFlight < 8 := by
    intro hpos
    rw [State.writebackInFlight] at hpos ⊢
    cases hs : s.cache.sends with
    | nil =>
      rw [hs] at hpos
      dsimp only at hpos
      rw [beforeLast_nil] at hpos
      exact absurd hs (h.sending.counted hpos).1
    | cons y ys =>
      obtain ⟨k, rfl⟩ := h.sending.first y ys hs
      rw [hs] at hpos
      exact ⟨List.cons_ne_nil _ _, beforeLast_lt (Nat.le_refl 8) (fun hp => (h.sending.counted hp).2) hpos⟩
  exact ⟨⟨h.bare.jobs, h.bare.loads, h.bare.lists, h.bare.notices, h.bare.burst,
    ⟨h.bare.counted.notice, h.bare.counted.result, h.bare.counted.blend, h.bare.counted.take, h.bare.counted.regions⟩⟩,
    h.sending.first, hcount⟩

theorem State.Forms.tookBlend (h : s.Forms) (n : Nat) : (s.took n .blend).Forms := by
  have hcount : 0 < s.landed.blend + beforeLast n s.blendInFlight →
      s.landed.blend + beforeLast n s.blendInFlight < 128 ∧ HasOutput s.blend := by
    intro hpos
    cases hb : s.blend with
    | nil =>
      rw [State.blendInFlight, hb] at hpos
      dsimp only at hpos
      rw [beforeLast_nil] at hpos
      obtain ⟨-, j, js, hj, -⟩ := h.bare.counted.blend hpos
      rw [hb] at hj
      nomatch hj
    | cons j js =>
      cases hs : j.samples with
      | none =>
        rw [State.blendInFlight, hb] at hpos
        simp only [hs, beforeLast_nil, Nat.add_zero] at hpos
        exact absurd hpos (by rw [h.landed_blend hb hs]; exact Nat.lt_irrefl 0)
      | some out =>
        have hlen := (h.bare.jobs.samples j (hb ▸ List.mem_cons_self)).2.2 out hs
        rw [State.blendInFlight_eq hb hs] at hpos ⊢
        refine ⟨beforeLast_lt ?_ (fun hp => (h.bare.counted.blend hp).1) hpos, j, js, rfl, by rw [hs]; nofun⟩
        exact Nat.le_of_eq hlen
  exact ⟨⟨h.bare.jobs, h.bare.loads, h.bare.lists, h.bare.notices, h.bare.burst,
    ⟨h.bare.counted.notice, h.bare.counted.result, hcount, h.bare.counted.take, h.bare.counted.regions⟩⟩,
    h.sending.first, h.sending.counted⟩

/-- In an anchor take the counts of its regions keep to their sizes. -/
theorem State.Forms.withTake (h : s.Forms) {a : Anchor} (ha : s.sup.take = some (.initialising a)) (m : Memory) {z d l : Nat}
    (hz : z ≤ 128) (hd : d ≤ 6144) (hl : l ≤ 131072) : State.Forms { s with mem := m, landed := s.landed.withTake z d l } :=
  ⟨⟨h.bare.jobs, h.bare.loads, h.bare.lists, h.bare.notices, h.bare.burst,
    ⟨h.bare.counted.notice, h.bare.counted.result, h.bare.counted.blend, fun _ => ⟨a, ha⟩, hz, hd, hl⟩⟩,
    h.sending.first, h.sending.counted⟩

theorem State.Forms.tookTake (h : s.Forms) (z d l : Nat) : (s.tookTake z d l).Forms := by
  unfold State.tookTake
  split
  next ha => exact h.withTake ha _ (Nat.min_le_right _ _) (Nat.min_le_right _ _) (Nat.min_le_right _ _)
  · exact h

theorem LoadsForm.writingBack {td : Option Teardown} {x : Cache} {ws : List (Nat × List Word)}
    (h : LoadsForm td x) (ht : td = some (.writingBack ws)) (vs : List (Nat × List Word)) :
    LoadsForm (some (.writingBack vs)) x := h.free (h.writtenBack ws ht) _

theorem State.Forms.tookTeardown (h : s.Forms) (n : Nat) : (s.tookTeardown n).Forms := by
  unfold State.tookTeardown
  split
  next ws hws => exact (h.withMem _).setTeardown (h.bare.loads.writingBack hws _)
  · exact h

theorem State.Forms.tookStatus (h : s.Forms) (n : Nat) : (s.tookStatus n).Forms := by
  unfold State.tookStatus
  split
  · exact h
  · exact (h.withMem _).congr rfl

theorem State.Forms.landSlotWrites (h : s.Forms) (ws : List (Nat × List Word)) (rest : List SlotWrite) :
    (s.landSlotWrites ws rest).Forms := h.congr rfl

theorem State.Forms.took (h : s.Forms) (ho : s.Order) (n : Nat) (w : Writer) : (s.took n w).Forms := by
  cases w with
  | status => exact h.tookStatus n
  | notice => exact h.tookNotice n
  | result => exact h.tookResult ho n
  | teardown => exact h.tookTeardown n
  | writeback => exact h.tookWriteback n
  | blend => exact h.tookBlend n
  | slots => exact h.landSlotWrites _ _
  | zeroBucket => exact h.tookTake _ _ _
  | directory => exact h.tookTake _ _ _
  | liveDirectory => exact h.tookTake _ _ _

/-! ### The Local Port (R156, R158) -/

theorem State.Forms.withBurst (h : s.Forms) {b : Option ReadBurst} (hb : ∀ c, b = some c → 0 < c.left) :
    State.Forms { s with burst := b } :=
  ⟨⟨h.bare.jobs, h.bare.loads, h.bare.lists, h.bare.notices, hb, h.bare.counted.congr rfl rfl rfl id rfl⟩,
    h.sending.congr rfl rfl⟩

theorem State.Forms.portAct (h : s.Forms) (ho : s.Order) (hact : s.PortAct t) : t.Forms := by
  cases hact with
  | pass x v en => exact h.withMem _
  | go => exact h.goEvent
  | kick k => exact h.kick k
  | noticeReturn k => exact h.noticeReturn k
  | acts hacts => exact h.quiet hacts
  | answer d e => exact h.congr rfl
  | idle => exact h.withBurst nofun
  | read b hb => exact h.withBurst fun c hc => Option.some.inj hc ▸ hb
  | wait b q hb => exact h.withBurst fun c hc => Option.some.inj hc ▸ h.bare.burst b hb
  | took n w => exact h.took ho n w

theorem State.Forms.portRun (h : s.Forms) (ho : s.Order) (hr : s.PortRun t) : t.Forms :=
  (hr.preserves (P := fun u => u.Order ∧ u.Forms) (fun hact hu => ⟨hu.1.portAct hact, hu.2.portAct hu.1 hact⟩) ⟨ho, h⟩).2

theorem State.Forms.localRequest (h : s.Forms) (ho : s.Order) (q : LocalRequest) : (s.localRequest q).Forms :=
  h.portRun ho ((State.PortRun.refl s).localRequest q)

theorem State.Forms.portEvents (h : s.Forms) (ho : s.Order) (es : List PortEvent) : (s.portEvents es).Forms :=
  h.portRun ho ((State.PortRun.refl s).portEvents es)

/-! ### The clock (R3 to R9, R13) -/

theorem State.Forms.doWorks (early : List PeriodWork) : ∀ {s : State}, s.Forms → (s.doWorks early).Forms := by
  induction early with
  | nil => exact fun h => h
  | cons w early ih =>
    intro s h
    refine ih (s := s.doWork w) ?_
    cases w with
    | laneStale c r l => exact h.quiet ((State.Acts.refl s).laneStale c r l)
    | streamingExpiry c => exact h.quiet ((State.Acts.refl s).streamingExpiry c)
    | forcedRelease g k => exact h.quiet ((State.Acts.refl s).forcedRelease g k)
    | blendDeadline => exact h.blendDeadline
    | healthWindowClose g => exact h.quiet ((State.Acts.refl s).healthWindowClose rfl g)

theorem State.Forms.periodEvent (h : s.Forms) (early : List PeriodWork) : (s.periodEvent early).Forms := by
  have hworks : (s.raisePeriod.doWorks early).Forms := State.Forms.doWorks early (h.congr rfl)
  exact (hworks.acts ((State.Acts.refl (fill := true) (win := true) _).resolve rfl)).requestStatus

theorem State.Forms.clockRun (h : s.Forms) (hr : s.ClockRun t) : t.Forms := by
  refine hr.preserves (fun hact ho => ?_) h
  cases hact with
  | set c => exact ho.congr rfl
  | post b => exact ho.quiet ((State.Acts.refl _).post _ _ _)
  | period early hrun => exact ho.periodEvent early

theorem State.Forms.advance (h : s.Forms) (dt : Nat) : (s.advance dt).Forms := h.congr rfl

theorem State.Forms.pulse (h : s.Forms) (dt : Nat) (w : Bool) : (s.pulse dt w).Forms := by
  unfold State.pulse
  split
  · exact h.advance dt
  · exact h.congr rfl

theorem State.Forms.startShow (h : s.Forms) : s.startShow.Forms := by
  have hrunning : s.startRunning.Forms := h.congr rfl
  have hresolved : s.startRunning.Acts true true (s.startRunning.beginWindows.resolveMany (s.resolver.resolveLead + 1)) :=
    State.Acts.resolveMany rfl _ ((State.Acts.refl _).beginWindows rfl)
  exact (hrunning.acts (hresolved.post _ _ _)).requestStatus

theorem State.Forms.syncEdge (h : s.Forms) : s.syncEdge.Forms := by
  unfold State.syncEdge
  split
  · split
    · exact h.startShow
    · exact h.quiet ((State.Acts.refl _).post _ _ _)
  · exact h

theorem State.Forms.takeoverRises (h : s.Forms) : s.takeoverRises.Forms := by
  have hhigh : s.takeoverHigh.Forms := h.congr rfl
  unfold State.takeoverRises
  split
  · exact hhigh.quiet (State.Acts.foldl (fun g h => h.takeoverSet g) _ (.refl _))
  · exact hhigh

end

end Sys2Proof.Machine
end

section
/-! # Every step keeps the order and the shape: the rows, and a part held in reset (R182) -/

namespace Sys2Proof.Machine

section
variable {s t : State}

/-! ### A part held in reset stays at the values of reset -/

/-- RESET_N is low, and the part stands at its values of reset. -/
def State.Held (s : State) : Prop := s.lines.resetLow = true ∧ s.Released

/-- What may change on a part held in reset: the queue, the free values, the timer and the lines that are not its outputs. -/
theorem State.Held.congr (h : s.Held) (hl : t.lines.resetLow = s.lines.resetLow ∧ t.lines.tallyMain = s.lines.tallyMain
      ∧ t.lines.tallyBackup = s.lines.tallyBackup ∧ t.lines.interrupt = s.lines.interrupt)
    (ht : { t with pending := s.pending, freeCount := s.freeCount, timer := s.timer, lines := s.lines, mem := s.mem } = s) :
    t.Held := by
  obtain ⟨hlow, hfresh, hmain, hbackup, hint⟩ := h
  obtain ⟨h1, h2, h3, h4⟩ := hl
  refine ⟨h1.trans hlow, ?_, h2.trans hmain, h3.trans hbackup, h4.trans hint⟩
  rw [← ht] at hfresh
  exact hfresh

theorem State.Held.advance (h : s.Held) (dt : Nat) : (s.advance dt).Held := h.congr ⟨rfl, rfl, rfl, rfl⟩ rfl

theorem State.Held.pulse (h : s.Held) (dt : Nat) (w : Bool) : (s.pulse dt w).Held := by
  unfold State.pulse
  split
  · exact h.advance dt
  · exact h.congr ⟨rfl, rfl, rfl, rfl⟩ rfl

/-- No request is answered and no edge taken. -/
theorem State.Held.unlessHeld (h : s.Held) (t : State) : s.unlessHeld t = s := if_pos h.1

section
variable (h : s.Held)
include h

theorem State.Held.clock_eq : s.clock = .initial := (State.fresh_iff.1 h.2.1).1

theorem State.Held.part_quiet : s.part.state = .quiet := by
  obtain ⟨-, hpart, -⟩ := State.fresh_iff.1 h.2.1
  rw [hpart]
  rfl

theorem State.Held.cache_eq : s.cache = .initial := by
  obtain ⟨-, -, -, hcache, -⟩ := State.fresh_iff.1 h.2.1
  exact hcache

theorem State.Held.resolver_eq : s.resolver = .initial := by
  obtain ⟨-, -, -, -, hresolver, -⟩ := State.fresh_iff.1 h.2.1
  exact hresolver

theorem State.Held.blend_eq : s.blend = [] := by
  obtain ⟨-, -, -, -, -, hblend, -⟩ := State.fresh_iff.1 h.2.1
  exact hblend

theorem State.Held.sup_eq : s.sup = .initial := by
  obtain ⟨-, -, -, -, -, -, -, -, hsup, -⟩ := State.fresh_iff.1 h.2.1
  exact hsup

theorem State.Held.notices_eq : s.notices = .initial := by
  obtain ⟨-, -, -, -, -, -, -, -, -, hnotices, -⟩ := State.fresh_iff.1 h.2.1
  exact hnotices

theorem State.Held.not_lossDue : s.lossDue = false := by
  rw [State.lossDue, h.clock_eq]
  simp [Clock.initial]

theorem State.Held.closeOverdueWindow : s.closeOverdueWindow = s := by
  rw [State.closeOverdueWindow, h.clock_eq]
  rfl

theorem State.Held.beatDue : s.beatDue = none := by
  rw [State.beatDue, h.clock_eq]
  simp [Clock.initial]

theorem State.Held.not_windowCloseDueNow : s.windowCloseDueNow = false := by
  rw [State.windowCloseDueNow, h.clock_eq]
  simp [Clock.initial]

theorem State.Held.not_timeDue : s.timeDue = false := by
  rw [State.timeDue, h.notices_eq]
  rfl

theorem State.Held.not_executing : s.executing = false := by
  rw [State.executing, h.sup_eq]
  rfl

theorem State.Held.mapEntry (c : Nat) : s.cache.mapEntry c = none := by
  rw [h.cache_eq]
  rfl

end

/-- Every row but the end of a reset leaves a part held in reset so. -/
theorem State.Held.exec_row (h : s.Held) (c : Instr) (hc : ∀ b a l, c ≠ .reset b a l .high) (ht : exec c s = .next t) : t.Held := by
  have hkept : exec c s = .next s → t.Held := fun he => Host.Outcome.next.inj (he.symm.trans ht) ▸ h
  have hheld : ∀ u, exec c s = .next (s.unlessHeld u) → t.Held := fun u he => hkept (he.trans (congrArg _ (h.unlessHeld u)))
  have hgoes : ∀ u, exec c s = .next u → u.Held → t.Held := fun u he hu => Host.Outcome.next.inj (he.symm.trans ht) ▸ hu
  have hring : ringRow c = true → t.Held := fun hr => by
    obtain he | ⟨hexec, -⟩ := exec_command hr s
    · exact hkept he
    · exact nomatch h.not_executing.symm.trans hexec
  have hneither : ¬(s.part.state = .running) := by rw [h.part_quiet]; nofun
  cases c with
  | reset b a l line =>
    cases line with
    | low => exact hheld _ rfl
    | high => exact absurd rfl (hc b a l)
    | shortPulse => exact hheld _ rfl
  | refclkStop =>
    refine hgoes _ rfl ?_
    split
    · exact h
    · exact h.congr ⟨rfl, rfl, rfl, rfl⟩ rfl
  | refclkResume => exact hgoes _ rfl (h.congr ⟨rfl, rfl, rfl, rfl⟩ rfl)
  | blockClockEdge dt wide early =>
    refine hgoes _ rfl ?_
    split
    · rw [(h.pulse dt wide).unlessHeld]
      exact h.pulse dt wide
    · exact h.pulse dt wide
  | clockLoss dt early =>
    refine hgoes _ rfl ?_
    rw [(h.advance dt).not_lossDue]
    exact h.advance dt
  | synthesizedBeat dt early =>
    refine hgoes _ rfl ?_
    rw [(h.advance dt).closeOverdueWindow, (h.advance dt).beatDue]
    exact h.advance dt
  | acceptanceWindowClose dt =>
    refine hgoes _ rfl ?_
    rw [(h.advance dt).not_windowCloseDueNow]
    exact h.advance dt
  | showSync dt wide =>
    refine hgoes _ rfl ?_
    split
    · rw [(h.pulse dt wide).unlessHeld]
      exact h.pulse dt wide
    · exact h.pulse dt wide
  | takeoverFallingEdge dt =>
    refine hgoes _ rfl ?_
    rw [(h.advance dt).unlessHeld]
    exact h.advance dt
  | takeoverRisingEdge dt =>
    refine hgoes _ rfl ?_
    rw [(h.advance dt).unlessHeld]
    exact h.advance dt
  | deferredGo => exact hkept (congrArg _ (if_neg (by rw [h.sup_eq]; nofun)))
  | anchorReadDone e => exact hkept (congrArg _ (if_neg (by rw [h.sup_eq]; nofun)))
  | anchorTakeEnd => exact hkept (by rw [exec, execAnchorTakeEnd, h.sup_eq]; rfl)
  | commandFetchDone e => exact hkept (congrArg _ (if_neg (by rw [h.sup_eq]; nofun)))
  | commandDirectoryReadDone e => exact hkept (congrArg _ (if_neg (by rw [h.sup_eq]; nofun)))
  | commandResultWritten => exact hkept (congrArg _ (if_neg (by rw [h.sup_eq]; nofun)))
  | unknownCommand | configureBridge | defineGroup | setThresholds | defineChannel | undefineChannel | readContext | armShow
  | endShow | switch | hold | releaseHold | queryCoverage | lock | unlock => exact hring rfl
  | teardownEnd => exact hkept (by rw [exec, execTeardownEnd, h.sup_eq]; rfl)
  | noticeWriteBegin => exact hkept (congrArg _ (if_neg (by rw [State.noticeReady, h.notices_eq]; nofun)))
  | noticeWriteEnd dt =>
    refine hgoes _ rfl ?_
    rw [(h.advance dt).notices_eq]
    exact h.advance dt
  | coalesceTimeout dt =>
    refine hgoes _ rfl ?_
    rw [(h.advance dt).not_timeDue]
    exact (h.advance dt).congr ⟨rfl, rfl, rfl, Bool.or_false _⟩ rfl
  | statusWriteEnd => exact hkept (by rw [exec, execStatusWriteEnd, h.sup_eq]; rfl)
  | contextLoadReadDone ch e => exact hkept (by rw [exec, execContextLoadReadDone, h.cache_eq]; rfl)
  | evictionWritebackEnd k => exact hkept (congrArg _ (if_neg (by rw [h.cache_eq]; nofun)))
  | laneStale ch r l => exact hkept (by rw [exec, execLaneStale, State.laneStale, h.mapEntry])
  | streamingExpiry ch => exact hkept (by rw [exec, execStreamingExpiry, State.streamingExpiry, h.mapEntry])
  | slotRecordWritten g k => exact hkept (by rw [exec, execSlotRecordWritten, h.resolver_eq]; rfl)
  | slotHeaderWritten g hd =>
    cases hd with
    | ready k => exact hkept (by rw [exec, execSlotHeaderWritten, State.readyHeaderWritten, h.resolver_eq]; rfl)
    | other k => exact hkept (by rw [exec, execSlotHeaderWritten, State.otherWritten, h.resolver_eq]; rfl)
  | readerRelease g k v en => exact hkept (by rw [exec, execReaderRelease, h.sup_eq]; rfl)
  | forcedRelease g k =>
    refine hkept (congrArg _ (if_neg ?_))
    rw [State.releaseDue, h.part_quiet]
    nofun
  | blendJobComplete => exact hkept (by rw [exec, execBlendJobComplete, h.blend_eq])
  | blendDeadline => exact hkept (congrArg _ (if_neg hneither))
  | blendDrainEnd => exact hkept (by rw [exec, execBlendDrainEnd, h.blend_eq])
  | blendReadError i => exact hkept (by rw [exec, execBlendReadError, h.blend_eq])
  | blendReadingDone => exact hkept (by rw [exec, execBlendReadingDone, h.blend_eq])
  | healthWindowClose g =>
    refine hkept (congrArg _ (if_neg ?_))
    rw [State.windowCloseDue, h.part_quiet]
    nofun
  | goWrite v en | commandKick v en | noticeReturn v en | localPortWrite a v en => exact hheld _ rfl
  | payloadWrite r a v en | headerWrite r a v en | commit r a v en | rigPortUnusedWrite r a v en => exact hheld _ rfl
  | liveWindowRead p n ev => exact hheld _ rfl

/-- A part held in reset behind a row stands at the values of reset. -/
theorem State.released_of_exec (c : Instr) (h : s.lines.resetLow = true → s.Released) (ht : exec c s = .next t)
    (hlow : t.lines.resetLow = true) : t.Released := by
  by_cases hheld : s.lines.resetLow = true
  · by_cases hhigh : ∃ b a l, c = .reset b a l .high
    · obtain ⟨b, a, l, rfl⟩ := hhigh
      have hrisen : t = s.afterReset b a l := (Host.Outcome.next.inj ht).symm
      rw [hrisen] at hlow
      nomatch hlow
    · exact (State.Held.exec_row ⟨hheld, h hheld⟩ c (fun b a l hc => hhigh ⟨b, a, l, hc⟩) ht).2
  · have hreset : ∃ b a l line, c = .reset b a l line := by
      refine Classical.byContradiction fun hn => ?_
      obtain ⟨-, -, hkept⟩ := (framed_of_exec ht).lines fun b a l line hc => hn ⟨b, a, l, line, hc⟩
      exact hheld (hkept.symm.trans hlow)
    obtain ⟨b, a, l, line, rfl⟩ := hreset
    cases line with
    | low =>
      have hfallen : t = s.holdReset := (Host.Outcome.next.inj ht).symm.trans (if_neg hheld)
      exact hfallen ▸ ⟨State.fresh_holdReset, rfl, rfl, rfl⟩
    | high =>
      have hrisen : t = s.afterReset b a l := (Host.Outcome.next.inj ht).symm
      rw [hrisen] at hlow
      nomatch hlow
    | shortPulse =>
      have hpulse : t = if s.pulseTaken false then s.afterReset b a l else s.drawn :=
        (Host.Outcome.next.inj ht).symm.trans (if_neg hheld)
      split at hpulse
      · rw [hpulse] at hlow
        nomatch hlow
      · rw [hpulse] at hlow
        exact absurd hlow hheld

/-! ### Every row -/

theorem State.forms_afterReset (s : State) (b a l : Bool) : (s.afterReset b a l).Forms :=
  (State.shape_iff.1 ((State.fresh_afterReset (s := s) b a l).shape rfl rfl rfl)).1

theorem State.forms_holdReset (s : State) : s.holdReset.Forms :=
  (State.shape_iff.1 ((State.fresh_holdReset (s := s)).shape rfl rfl rfl)).1

theorem State.forms_of_exec (c : Instr) (h : s.Forms) (ho : s.Order) (ht : exec c s = .next t) : t.Forms := by
  have hnext : ∀ u, exec c s = .next u → u.Forms → t.Forms := fun u he hu => Host.Outcome.next.inj (he.symm.trans ht) ▸ hu
  have hring : ringRow c = true → t.Forms := by
    intro hc
    obtain he | ⟨hexecuting, u, he, hact⟩ := exec_command hc s
    · exact hnext s he h
    · exact hnext u he (h.commandAct hexecuting hact)
  have hpulse : ∀ dt wide, (s.pulse dt wide).Forms := fun dt wide => h.pulse dt wide
  have hrig : ∀ r w, exec c s = .next (s.unlessHeld (s.rigWrite r w)) → t.Forms := fun r w he =>
    hnext _ he (h.unlessHeld (h.rigWrite ho r w))
  have hlocal : ∀ q, exec c s = .next (s.unlessHeld (s.localRequest q)) → t.Forms := fun q he =>
    hnext _ he (h.unlessHeld (h.localRequest ho q))
  have hquiet : ∀ u, exec c s = .next u → s.Acts false true u → t.Forms := fun u he hacts => hnext u he (h.quiet hacts)
  cases c with
  | reset b a l line =>
    cases line with
    | low => exact hnext _ rfl (h.unlessHeld s.forms_holdReset)
    | high => exact hnext _ rfl (s.forms_afterReset b a l)
    | shortPulse =>
      refine hnext _ rfl (h.unlessHeld ?_)
      split
      · exact s.forms_afterReset b a l
      · exact h.congr rfl
  | refclkStop =>
    refine hnext _ rfl ?_
    split
    · exact h
    · exact h.congr rfl
  | refclkResume => exact hnext _ rfl (h.congr rfl)
  | blockClockEdge dt wide early =>
    exact hnext _ rfl ((hpulse dt wide).ite _
      ((hpulse dt wide).unlessHeld ((hpulse dt wide).clockRun ((State.ClockRun.refl _).clockEdge early))))
  | clockLoss dt early => exact hnext _ rfl ((h.advance dt).ite _ ((h.advance dt).clockRun ((State.ClockRun.refl _).loseClock early)))
  | synthesizedBeat dt early =>
    refine hnext _ rfl ?_
    have hclosed := (State.ClockRun.refl (s.advance dt)).closeOverdueWindow
    split
    · exact (h.advance dt).clockRun hclosed
    · exact (h.advance dt).clockRun (hclosed.synthesize _ early)
  | acceptanceWindowClose dt =>
    exact hnext _ rfl ((h.advance dt).ite _ ((h.advance dt).clockRun (State.ClockRun.refl _).windowClosed))
  | showSync dt wide => exact hnext _ rfl ((hpulse dt wide).ite _ ((hpulse dt wide).unlessHeld (hpulse dt wide).syncEdge))
  | takeoverFallingEdge dt =>
    refine hnext _ rfl ((h.advance dt).unlessHeld ?_)
    exact (h.advance dt).congr rfl
  | takeoverRisingEdge dt => exact hnext _ rfl ((h.advance dt).unlessHeld (h.advance dt).takeoverRises)
  | goWrite v en | commandKick v en | noticeReturn v en | localPortWrite a v en => exact hlocal _ rfl
  | deferredGo =>
    refine hnext _ rfl ?_
    split
    next hg =>
      simp only [Bool.and_eq_true, Bool.not_eq_true'] at hg
      exact h.deferredGo (ho.take_of_pending hg.1)
    · exact h
  | anchorReadDone e =>
    refine hnext _ rfl ?_
    split
    next htake => exact h.anchorRead htake e
    · exact h
  | anchorTakeEnd =>
    refine hnext _ rfl ?_
    split
    next htake => exact h.endTake ho htake
    · exact h
  | commandFetchDone e =>
    refine hnext _ rfl ?_
    split
    next hf => exact h.fetchDone hf e
    · exact h
  | commandDirectoryReadDone e =>
    refine hnext _ rfl ?_
    split
    next hd => exact h.commandDirectoryRead hd.1 e
    · exact h
  | commandResultWritten => exact hnext _ rfl (h.ite _ h.resultWritten)
  | unknownCommand | configureBridge | defineGroup | setThresholds | defineChannel | undefineChannel | readContext | armShow
  | endShow | switch | hold | releaseHold | queryCoverage | lock | unlock => exact hring rfl
  | teardownEnd =>
    refine hnext _ rfl ?_
    split
    next ws hws => exact h.endTeardown ho hws
    · exact h
  | noticeWriteBegin => exact hnext _ rfl (h.ite _ h.noticeWriteBegin)
  | noticeWriteEnd dt => exact hnext _ rfl ((h.advance dt).ite _ (h.advance dt).noticeWritten)
  | coalesceTimeout dt => exact hnext _ rfl ((h.advance dt).congr rfl)
  | statusWriteEnd =>
    refine hnext _ rfl ?_
    split
    · exact h
    · exact h.statusWritten _
  | payloadWrite r a v en | headerWrite r a v en | commit r a v en | rigPortUnusedWrite r a v en => exact hrig r _ rfl
  | contextLoadReadDone ch e =>
    refine hnext _ rfl ?_
    split
    · exact h
    next q hq => exact (h.loadReadDone ho hq e).advanceTeardown
  | evictionWritebackEnd k => exact hnext _ rfl (h.ite _ (h.evictionEnds ho k).advanceTeardown)
  | laneStale ch r l => exact hquiet _ rfl ((State.Acts.refl s).laneStale ch r l)
  | streamingExpiry ch => exact hquiet _ rfl ((State.Acts.refl s).streamingExpiry ch)
  | slotRecordWritten g k =>
    refine hnext _ rfl ?_
    split
    · exact h
    · exact (h.landSlotWrites _ _).quiet ((State.Acts.refl _).recordTaken g k _)
  | slotHeaderWritten g hd =>
    cases hd with
    | ready k =>
      refine hnext (s.readyHeaderWritten g k) rfl ?_
      unfold State.readyHeaderWritten
      split
      · exact h
      · exact (h.landSlotWrites _ _).quiet ((State.Acts.refl _).headerTaken g k _)
    | other k =>
      refine hnext (s.otherWritten g k) rfl ?_
      unfold State.otherWritten
      split
      · exact h
      · exact h.ite _ (h.landSlotWrites _ _)
  | liveWindowRead p n ev =>
    refine hnext _ rfl (h.unlessHeld ?_)
    cases p with
    | localPort addr => exact (h.localRequest ho _).portEvents (ho.localRequest _) ev
    | burst => exact h.portEvents ho ev
    | rigPort r addr => exact (h.rigRead r addr n).portEvents (ho.rigRead r addr n) ev
  | readerRelease g k v en =>
    refine hnext _ rfl ?_
    split
    · exact h
    · exact h.unlessHeld (h.localRequest ho _)
  | forcedRelease g k => exact hquiet _ rfl ((State.Acts.refl s).forcedRelease g k)
  | blendJobComplete =>
    refine hnext _ rfl ?_
    split
    · exact h
    · exact h.ite _ (h.completeHead _)
  | blendDeadline => exact hnext _ rfl h.blendDeadline
  | blendDrainEnd =>
    refine hnext _ rfl ?_
    split
    · exact h
    next j js hb => exact h.ite _ ((h.landOutput j).drainHead (s.landed_landOutput j) j)
  | blendReadError i =>
    refine hnext _ rfl ?_
    split
    · exact h
    next j js hb => exact h.readError hb i
  | healthWindowClose g => exact hquiet _ rfl ((State.Acts.refl s).healthWindowClose rfl g)
  | blendReadingDone =>
    refine hnext _ rfl ?_
    split
    · exact h
    next j js hb =>
      split
      next hr => exact h.readingDone hb hr
      · exact h

/-- A step keeps the shape of the queues of a part in order. -/
theorem State.shape_of_step (h : s.Shape) (ho : s.Order) (ht : step s = .next t) : t.Shape := by
  obtain ⟨hforms, hreset⟩ := State.shape_iff.1 h
  unfold step at ht
  split at ht
  · obtain rfl := Host.Outcome.next.inj ht
    exact State.shape_iff.2 ⟨hforms.congr rfl, fun hlow =>
      (State.Held.congr (t := s.tick) ⟨hlow, hreset hlow⟩ ⟨rfl, rfl, rfl, rfl⟩ rfl).2⟩
  next c cs _ =>
    have hfront : State.Forms { s with pending := cs } := hforms.congr rfl
    have horder : State.Order { s with pending := cs } := ho.congr rfl rfl rfl
    refine State.shape_iff.2 ⟨State.forms_of_exec c hfront horder ht, State.released_of_exec c (fun hlow => ?_) ht⟩
    exact (State.Held.congr (t := { s with pending := cs }) ⟨hlow, hreset hlow⟩ ⟨rfl, rfl, rfl, rfl⟩ rfl).2

end

/-- Settles O59: each row is made of a few operations, and each of them keeps the order and every part of the shape. -/
theorem orderKept : Obligations.OrderKept :=
  ⟨fun _ _ _ ho ht => State.order_of_step ho ht, fun _ _ _ ho h ht => State.shape_of_step h ho ht⟩

end Sys2Proof.Machine
end
